-- ==== Sys2Proof/Word.lean ====
section
/-! DEFINITION. The word types of the machine: bytes, 64-bit words and the register and mask widths (02, R30). -/

namespace Sys2Proof

/-- One byte of memory. -/
abbrev Byte := BitVec 8

/-- A 64-bit scalar register, address or record word (R30). -/
abbrev Word := BitVec 64

/-- A 2,048-bit vector register (R30). -/
abbrev VWord := BitVec 2048

/-- A 256-bit mask register (R30). -/
abbrev MWord := BitVec 256

/-- A 64-byte line (R258, R50). -/
abbrev LineBits := BitVec 512

end Sys2Proof
end

