-- ==== Sys2Proof/Machine/Maps.lean ====
section
/-! DEFINITION. Association lists with numbers as keys: `find?`, `insert` and `erase` keep a rising order, and the
`get` and `set` of a default value keep the one canonical form (no entry equal to what an unlisted key reads as). -/

namespace Sys2Proof.Machine

/-- The value listed for a key. -/
def find? {α : Type} : List (Nat × α) → Nat → Option α
  | [], _ => none
  | (k, v) :: r, key => if k = key then some v else find? r key

/-- List a value for a key, in rising order of keys. -/
def insert {α : Type} : List (Nat × α) → Nat → α → List (Nat × α)
  | [], key, x => [(key, x)]
  | (k, v) :: r, key, x =>
    if key < k then (key, x) :: (k, v) :: r
    else if k = key then (key, x) :: r
    else (k, v) :: insert r key x

/-- Unlist a key. -/
def erase {α : Type} : List (Nat × α) → Nat → List (Nat × α)
  | [], _ => []
  | (k, v) :: r, key => if k = key then erase r key else (k, v) :: erase r key

/-- What a key reads as: its listed value, or the default. -/
def look {α : Type} (m : List (Nat × α)) (d : α) (key : Nat) : α := (find? m key).getD d

/-- Write a key: the default value unlists it. -/
def put {α : Type} [DecidableEq α] (m : List (Nat × α)) (d : α) (key : Nat) (x : α) : List (Nat × α) :=
  if x = d then erase m key else insert m key x

/-- Keys strictly rising from a bound, and no value equal to the default. -/
def wfFrom {α : Type} [DecidableEq α] (d : α) : Nat → List (Nat × α) → Bool
  | _, [] => true
  | lo, (k, v) :: r => lo ≤ k && v ≠ d && wfFrom d (k + 1) r

/-- The canonical form of a list with a default. -/
def wf {α : Type} [DecidableEq α] (d : α) (m : List (Nat × α)) : Bool := wfFrom d 0 m

/-- Membership of a number in a rising list. -/
def has (l : List Nat) (n : Nat) : Bool := l.any fun x => x == n

/-- Add a number to a rising list. -/
def addNat : List Nat → Nat → List Nat
  | [], n => [n]
  | x :: r, n => if n < x then n :: x :: r else if x = n then x :: r else x :: addNat r n

/-- Remove a number. -/
def delNat (l : List Nat) (n : Nat) : List Nat := l.filter fun x => x != n

/-- Put a number in a list or take it out. -/
def putNat (l : List Nat) (n : Nat) (b : Bool) : List Nat := if b then addNat l n else delNat l n

/-- Change the element at an index. -/
def modifyAt {α : Type} : List α → Nat → (α → α) → List α
  | [], _, _ => []
  | x :: r, 0, f => f x :: r
  | x :: r, n + 1, f => x :: modifyAt r n f

/-- Remove the element at an index. -/
def removeAt {α : Type} : List α → Nat → List α
  | [], _ => []
  | _ :: r, 0 => r
  | x :: r, n + 1 => x :: removeAt r n

/-- Index of the first element with a property. -/
def indexOf? {α : Type} (p : α → Bool) : List α → Option Nat
  | [] => none
  | x :: r => if p x then some 0 else (indexOf? p r).map (· + 1)

/-- The numbers from `lo` on, `n` of them. -/
def upFrom (lo : Nat) : Nat → List Nat
  | 0 => []
  | n + 1 => lo :: upFrom (lo + 1) n

/-- The least number from `lo` on, among `n`, that a test accepts. -/
def leastFrom (p : Nat → Bool) (lo : Nat) : Nat → Option Nat
  | 0 => none
  | n + 1 => if p lo then some lo else leastFrom p (lo + 1) n

/-- The bytes of a number, lowest first (R4). -/
def toBytes : Nat → Nat → List Byte
  | 0, _ => []
  | n + 1, x => BitVec.ofNat 8 x :: toBytes n (x / 256)

/-- The number whose bytes are given, lowest first (R4). -/
def ofBytes : List Byte → Nat
  | [] => 0
  | b :: r => b.toNat + 256 * ofBytes r

/-- Cut a list into `n` pieces of `len` elements. -/
def pieces {α : Type} (len : Nat) : Nat → List α → List (List α)
  | 0, _ => []
  | n + 1, l => l.take len :: pieces len n (l.drop len)

end Sys2Proof.Machine
end

