-- ==== Sys2Proof/Syntax.lean ====
section
/-! DEFINITION. The instruction set: one constructor of Instr per row of spec/opcode_table.json.  The first 158 rows
are the instructions a core decodes (14, R274); the other rows are the steps of the engines, the interfaces, the
dispatcher, the host and the fabric (95_what_each_step_holds.md), whose operands say where the step happens. -/

namespace Sys2Proof

/-- A register field of a tail: six bits (R269). -/
abbrev Reg := BitVec 6

/-- NEG and PRED of a head (R262, R263); also the selecting predicate of SEL (R293). -/
structure Guard where
  neg  : Bool
  pred : BitVec 3
deriving DecidableEq, Repr

/-- Type codes 0 to 15 (R54, R271). -/
inductive Ty where
  | raw | f64 | f32 | bf16 | f16 | e4m3 | e5m2 | ec8 | s8 | z8 | s16 | z16 | s32 | z32 | s64 | z64
deriving DecidableEq, Repr

/-- Condition codes 0 to 10 (R272); 11 to 15 are reserved. -/
inductive Cond where
  | eq | ne | lt | le | gt | ge | ltz | lez | gtz | gez | un
deriving DecidableEq, Repr

/-- Rounding modes (R65). -/
inductive Rm where
  | near | down | up | chop
deriving DecidableEq, Repr

/-- Address spaces (R40). -/
inductive Space where
  | g | l | x | v
deriving DecidableEq, Repr

/-- The order field of a memory access (R208). -/
inductive Ord where
  | none | acq | rel | ar
deriving DecidableEq, Repr

/-- Scopes 0 to 6 (R207); 7 is reserved. -/
inductive Scope where
  | core | clus | die | pkg | fab | host | surv
deriving DecidableEq, Repr

/-- Engine queues (R273). -/
inductive Queue where
  | mat | cpy | med
deriving DecidableEq, Repr

/-- Operations of AMO (R326). -/
inductive AmoOp where
  | add | and | or | xor | min | max | swap | fadd | fmax
deriving DecidableEq, Repr

/-- Fields of an M tail (R269). -/
structure MemOp where
  offset : BitVec 24
  ty     : Ty
  order  : Ord
  scope  : Scope
  space  : Space
  base   : Reg
  d      : Reg
deriving DecidableEq, Repr

/-- Fields of RLD and RST: an M tail with a size code and space G (R321). -/
structure HomeOp where
  offset : BitVec 24
  z      : BitVec 3
  order  : Ord
  scope  : Scope
  base   : Reg
  d      : Reg
deriving DecidableEq, Repr

/-- Fields of the C-format atomics (R316, R325). -/
structure AtomOp where
  off8  : BitVec 8
  ty    : Ty
  order : Ord
  scope : Scope
  space : Space
  d : Reg
  a : Reg
  b : Reg
  c : Reg
deriving DecidableEq, Repr

/-- Fields of WAITA (R325, R326). -/
structure WaitaOp where
  off8  : BitVec 8
  ty    : Ty
  acq   : Bool
  space : Space
  p : BitVec 3
  a : Reg
  b : Reg
deriving DecidableEq, Repr

/-- Fields of SEND (R335). -/
structure SendOp where
  off8  : BitVec 8
  rel   : Bool
  len   : BitVec 5
  vec   : Bool
  space : Space
  a : Reg
  b : Reg
  k : Reg
deriving DecidableEq, Repr

/-- Fields of the C-format vector instructions (R344). -/
structure VOp where
  imm8 : BitVec 8
  flag : Bool
  aux  : BitVec 4
  rm   : Rm
  mask : BitVec 3
  ty   : Ty
  d : Reg
  a : Reg
  b : Reg
  c : Reg
deriving DecidableEq, Repr

/-- Fields of the strided and indexed vector memory forms (R355). -/
structure VMemOp where
  space : Space
  scope : Scope
  sc    : BitVec 2
  order : Ord
  mask  : BitVec 3
  ty    : Ty
  d : Reg
  a : Reg
  b : Reg
deriving DecidableEq, Repr

/-- Fields of ENQ and ENQM (R373). -/
structure EnqOp where
  offset : BitVec 24
  space  : Space
  queue  : Queue
  base   : Reg
deriving DecidableEq, Repr

/-- What a storage bit error strikes (R94). -/
inductive SoftTarget where
  /-- a compute-in-memory row of a core's slot -/
  | cim (core slot : Nat)
  /-- one or two bits of an accumulator word -/
  | acc (core slot word : Nat) (double : Bool)
  /-- a byte of HBM, vault or scratchpad, corrected or not -/
  | mem (pa : Nat) (double : Bool)
deriving DecidableEq, Repr

/-- What the target of a foreign atomic advertises at the width (R200 steps 3 to 5). -/
inductive Advert where
  | operation | compareSwap | neither
deriving DecidableEq, Repr

/-- The instruction set and the steps: one constructor per row of the opcode table, in its order but for eleven steps
without operands, which stand last. -/
inductive Instr where
  -- class 000
  | add (g : Guard) (d a b : Reg)
  | sub (g : Guard) (d a b : Reg)
  | and (g : Guard) (d a b : Reg)
  | or (g : Guard) (d a b : Reg)
  | xor (g : Guard) (d a b : Reg)
  | andn (g : Guard) (d a b : Reg)
  | orn (g : Guard) (d a b : Reg)
  | shl (g : Guard) (d a b : Reg)
  | shr (g : Guard) (d a b : Reg)
  | sra (g : Guard) (d a b : Reg)
  | rol (g : Guard) (d a b : Reg)
  | mul (g : Guard) (d a b : Reg)
  | mulh (g : Guard) (d a b : Reg)
  | mulhz (g : Guard) (d a b : Reg)
  | div (g : Guard) (d a b : Reg)
  | divz (g : Guard) (d a b : Reg)
  | rem (g : Guard) (d a b : Reg)
  | remz (g : Guard) (d a b : Reg)
  | min (g : Guard) (d a b : Reg)
  | max (g : Guard) (d a b : Reg)
  | minz (g : Guard) (d a b : Reg)
  | maxz (g : Guard) (d a b : Reg)
  | clz (g : Guard) (d a : Reg)
  | ctz (g : Guard) (d a : Reg)
  | popc (g : Guard) (d a : Reg)
  | brev (g : Guard) (d a : Reg)
  | sext (g : Guard) (t : Ty) (d a : Reg)
  | zext (g : Guard) (t : Ty) (d a : Reg)
  | cmp (g : Guard) (cond : Cond) (t : Ty) (d a b : Reg)
  | sel (g : Guard) (sel : Guard) (d a b : Reg)
  | plog (g : Guard) (tt : BitVec 4) (d a b : Reg)
  | pget (g : Guard) (d : Reg)
  | pset (g : Guard) (a : Reg)
  -- class 001
  | addi (g : Guard) (d a : Reg) (imm : BitVec 20)
  | andi (g : Guard) (d a : Reg) (imm : BitVec 20)
  | ori (g : Guard) (d a : Reg) (imm : BitVec 20)
  | xori (g : Guard) (d a : Reg) (imm : BitVec 20)
  | shli (g : Guard) (d a : Reg) (imm : BitVec 20)
  | shri (g : Guard) (d a : Reg) (imm : BitVec 20)
  | srai (g : Guard) (d a : Reg) (imm : BitVec 20)
  | cmpi (g : Guard) (cond : Cond) (p : BitVec 3) (a : Reg) (imm : BitVec 20)
  | cmpiHi (g : Guard) (cond : Cond) (p : BitVec 3) (a : Reg) (imm : BitVec 20)
  | movi (g : Guard) (d : Reg) (imm : Word)
  | addpc (g : Guard) (d : Reg) (h : BitVec 5) (imm : BitVec 20)
  | clmul (g : Guard) (d a b : Reg)
  | clmulh (g : Guard) (d a b : Reg)
  | fadd (g : Guard) (t : Ty) (rm : Rm) (d a b : Reg)
  | fsub (g : Guard) (t : Ty) (rm : Rm) (d a b : Reg)
  | fmul (g : Guard) (t : Ty) (rm : Rm) (d a b : Reg)
  | fma (g : Guard) (t : Ty) (rm : Rm) (d a b c : Reg)
  | fdiv (g : Guard) (t : Ty) (rm : Rm) (d a b : Reg)
  | fsqrt (g : Guard) (dbl : Bool) (rm : Rm) (d a : Reg)
  | fmin (g : Guard) (t : Ty) (d a b : Reg)
  | fmax (g : Guard) (t : Ty) (d a b : Reg)
  | fcmp (g : Guard) (cond : Cond) (t : Ty) (d a b : Reg)
  | fcvt (g : Guard) (dt st : Ty) (rm : Rm) (d a : Reg)
  | fclass (g : Guard) (dbl : Bool) (d a : Reg)
  -- class 010
  | nop (g : Guard)
  | br (g : Guard) (h : BitVec 5) (off : BitVec 27)
  | jmp (g : Guard) (a : Reg)
  | call (g : Guard) (h : BitVec 5) (off : BitVec 27)
  | calli (g : Guard) (a : Reg)
  | ret (g : Guard)
  | loop (g : Guard) (h : BitVec 5) (off : BitVec 21) (a : Reg)
  | exit (g : Guard)
  | trap (g : Guard) (imm : BitVec 20)
  | eret (g : Guard)
  | wfi (g : Guard)
  | halt (g : Guard)
  | srd (g : Guard) (d : Reg) (idx : BitVec 12)
  | swr (g : Guard) (a : Reg) (idx : BitVec 12)
  | ifence (g : Guard)
  -- class 011
  | ld (g : Guard) (o : MemOp)
  | ldNc (g : Guard) (o : MemOp)
  | ldRo (g : Guard) (o : MemOp)
  | st (g : Guard) (o : MemOp)
  | rld (g : Guard) (o : HomeOp)
  | rst (g : Guard) (o : HomeOp)
  | ldfeFf (g : Guard) (o : MemOp)
  | ldfeFe (g : Guard) (o : MemOp)
  | stfeEf (g : Guard) (o : MemOp)
  | stfeSf (g : Guard) (o : MemOp)
  | stfeSe (g : Guard) (o : MemOp)
  | amo (g : Guard) (op : AmoOp) (o : AtomOp)
  | cas (g : Guard) (o : AtomOp)
  | amaxrs (g : Guard) (o : AtomOp)
  | fenceAcq (g : Guard) (scope : Scope)
  | fenceRel (g : Guard) (scope : Scope)
  | fenceAr (g : Guard) (scope : Scope)
  | sfence (g : Guard)
  | pref (g : Guard) (offset : BitVec 24) (space : Space) (base : Reg)
  | cinv (g : Guard) (offset : BitVec 24) (space : Space) (base d : Reg)
  | cinvRo (g : Guard) (offset : BitVec 24) (space : Space) (base d : Reg)
  -- class 100
  | bara (g : Guard) (rel : Bool) (a b : Reg)
  | barw (g : Guard) (acq : Bool) (a : Reg)
  | bar (g : Guard) (rel acq : Bool) (a b : Reg)
  | evwait (g : Guard) (acq : Bool) (d a : Reg)
  | evsig (g : Guard) (rel : Bool) (a : Reg)
  | mtxl (g : Guard) (a : Reg)
  | mtxu (g : Guard) (a : Reg)
  | sstep (g : Guard) (level : BitVec 3)
  | waita (g : Guard) (o : WaitaOp)
  | waitc (g : Guard) (acq : Bool) (k : BitVec 4) (a : Reg) (imm : BitVec 20)
  | cadd (g : Guard) (k : BitVec 4) (a : Reg) (imm : BitVec 20)
  | send (g : Guard) (o : SendOp)
  | sendp (g : Guard) (rel : Bool) (pipe : BitVec 4) (a b : Reg)
  | recvp (g : Guard) (acq : Bool) (pipe : BitVec 4) (d : Reg) (p : BitVec 3)
  | post (g : Guard) (role : BitVec 2) (rel : Bool) (a : Reg)
  | harn (g : Guard) (d a b : Reg)
  | detach (g : Guard)
  | rejoin (g : Guard)
  -- class 101
  | vadd (g : Guard) (o : VOp)
  | vsub (g : Guard) (o : VOp)
  | vmul (g : Guard) (o : VOp)
  | vfma (g : Guard) (o : VOp)
  | vmin (g : Guard) (o : VOp)
  | vmax (g : Guard) (o : VOp)
  | vabs (g : Guard) (o : VOp)
  | vand (g : Guard) (o : VOp)
  | vor (g : Guard) (o : VOp)
  | vxor (g : Guard) (o : VOp)
  | vshl (g : Guard) (o : VOp)
  | vshr (g : Guard) (o : VOp)
  | vsra (g : Guard) (o : VOp)
  | vcmp (g : Guard) (o : VOp)
  | vsel (g : Guard) (o : VOp)
  | vcvt (g : Guard) (o : VOp)
  | vrcp (g : Guard) (o : VOp)
  | vrsq (g : Guard) (o : VOp)
  | vexp2 (g : Guard) (o : VOp)
  | vlog2 (g : Guard) (o : VOp)
  | vclmul (g : Guard) (o : VOp)
  | vpopc (g : Guard) (o : VOp)
  -- class 110
  | vld (g : Guard) (o : MemOp)
  | vst (g : Guard) (o : MemOp)
  | vlds (g : Guard) (o : VMemOp)
  | vsts (g : Guard) (o : VMemOp)
  | vldg (g : Guard) (o : VMemOp)
  | vstg (g : Guard) (o : VMemOp)
  | vbcast (g : Guard) (o : VOp)
  | vperm (g : Guard) (o : VOp)
  | vslide (g : Guard) (o : VOp)
  | vcomp (g : Guard) (o : VOp)
  | vexpd (g : Guard) (o : VOp)
  | vred (g : Guard) (o : VOp)
  | vscan (g : Guard) (o : VOp)
  | vtopk (g : Guard) (o : VOp)
  | vmovs (g : Guard) (o : VOp)
  | mlog (g : Guard) (o : VOp)
  | mget (g : Guard) (o : VOp)
  | mset (g : Guard) (o : VOp)
  -- class 111
  | enq (g : Guard) (try_ : Bool) (p : BitVec 3) (o : EnqOp)
  | enqm (g : Guard) (b : Reg) (o : EnqOp)
  | deq (g : Guard) (try_ : Bool) (p : BitVec 3) (d b : Reg)
  | eqstat (g : Guard) (q : Queue) (d : Reg)
  | rfence (g : Guard)
  | qmov (g : Guard) (dir : Bool) (d a : Reg)
  | mstat (g : Guard) (slot : Bool) (d a : Reg)
  -- steps: writes of system registers and tables (R28, R56, R93, R473, R478, R490, R312)
  | lsplitWrite (core : Nat) (v : Word)
  | bfmtWrite (core bank : Nat) (v : Word)
  | mthrWrite (core : Nat) (v : Word)
  | tlbinv (core : Nat) (v : Word)
  | regionTableWrite (die n : Nat) (v : Word)
  | routeTableWrite (die p : Nat) (v : BitVec 32)
  | sysregWrite (core idx : Nat) (v : Word)
  -- steps: commands of the matrix queue (R382 to R386, R100 to R116)
  | mzero (core : Nat)
  | mldb (core : Nat)
  | mmul (core : Nat)
  | mepi (core : Nat)
  | miter (core : Nat)
  | miterPhase (core : Nat)
  | mrel (core : Nat)
  | mspill (core : Nat)
  | mfill (core : Nat)
  -- steps: commands of the copy queue (R123 to R135, R387 to R390)
  | copy (core : Nat)
  | fill (core : Nat)
  | pack (core : Nat)
  | unpack (core : Nat)
  | gather (core : Nat)
  | scatter (core : Nat)
  | fetchr (core : Nat)
  | fetchrUnitArrival (core unit : Nat)
  | fetchrReadTimeout (core : Nat)
  -- steps: commands of the media queue (R137 to R139, R391 to R393)
  | vdec (die idx : Nat)
  | rsz (die idx : Nat)
  -- steps: background work of a core and its interface
  | bufferedLinePerform (core idx : Nat)
  | feRequestReissue (idx : Nat)
  | postedStoreAck (core idx : Nat)
  | postedStoreRefusal (core idx : Nat)
  | xAccessArrival (core idx : Nat)
  | messageArrival (core idx : Nat)
  | foreignAtomic (core : Nat) (adv : Advert) (fails : Bool)
  | pageWalk (core : Nat) (va : Word)
  | parityDeltaApply (idx : Nat)
  | deltaRetire (idx : Nat)
  | remoteArrival (cluster : Nat)
  | remoteEvsig (cluster : Nat)
  | eventMessageReissue (cluster : Nat)
  -- steps: the dispatcher (R143 to R181, R444, R454 to R461)
  | hobble (task : Nat)
  | claimAt (task elem : Nat)
  | releaseAt (task elem : Nat)
  | reserve (task elem : Nat)
  | hobbleRetryExpiry (task : Nat)
  | ageLimitExpiry (task : Nat)
  | taskIssue (task : Nat)
  | gangIssue (graph node : Nat)
  | balanceExchange (pkg : Nat)
  | preemptRequest (cluster : Nat)
  | taskSuspend (core : Nat)
  | taskResume (task core : Nat)
  | taskRetire (core : Nat)
  | controlNodeEval (graph node : Nat)
  | gridEnd (graph node : Nat)
  -- steps: the host and the pursers (R428 to R443)
  | graphCompletionRecord (graph : Nat)
  | completionCountReread (graph : Nat)
  | hostRmaWrite (pkg : Nat) (port : Nat × Option (Nat × Nat)) (ri off : Nat) (data : List Byte)
  | hostRmaRead (pkg port ri off len : Nat)
  | mailboxPageVisit (pkg page : Nat)
  | mailboxNop (pkg page : Nat)
  | regspace (pkg page : Nat)
  | regwin (pkg page : Nat)
  | unregwin (pkg page : Nat)
  | submit (pkg page : Nat)
  | graphHandoverTimeout (pkg page : Nat)
  | launch (pkg page : Nat)
  | release (pkg page : Nat)
  | responseWrite (pkg page : Nat)
  -- steps: links, routes and survivable storage (R246 to R257, R486 to R494)
  | flitReceive (pkg link : Nat) (errs : List (Nat × BitVec 10))
  | flitResendTimeout (pkg link : Nat)
  | trainingFlit (pkg link : Nat) (errs : List (Nat × BitVec 10))
  | linkTraining (pkg link : Nat)
  | linkRetrainTimer (pkg link : Nat)
  | laneFailure (pkg link lane : Nat)
  | memberLost (pkg lost : Nat)
  | stripeRebuild (pkg stripe : Nat)
  -- steps: reset, reports, operation (R479 to R502)
  | telemetryUpdate (pkg power tin tjmax : Nat)
  | smbusBlockRead (pkg code : Nat)
  | smbusOtherCommand (pkg code : Nat)
  | clockStep (die : Nat) (sensed : Nat × Nat)
  | unassignedOpcode (g : Guard) (opc : BitVec 9) (tl : BitVec 3)
  | unsupportedPacket (pkg port : Nat)
  | hostAcknowledgement (graph : Nat)
  | softError (t : SoftTarget)
  | powerFailure (pkg kept : Nat)
  -- steps without operands: they act on the current core `cur` of the state, or on its package
  | asyncTrap
  | rasSpill
  | rasFill
  | cimParityScrub
  | bufferLineTimeout
  | harnessForward
  | moduleReset
  | reportRequestPoll
  | firmwareUpdate
  | routeRecompute
  | thermalReset
deriving DecidableEq, Repr

end Sys2Proof
end

