-- ==== Sys2Proof/WellFormed.lean ====
section
/-! DEFINITION. Which instructions are well formed: the encoding checks of step 3 of R264 (register ranges R270, the
codes each instruction accepts, and zero in every field it does not use). -/

namespace Sys2Proof

/-- Width in bytes of an element (R7, Size). -/
def Ty.size : Ty → Nat
  | .raw | .e4m3 | .e5m2 | .ec8 | .s8 | .z8 => 1
  | .bf16 | .f16 | .s16 | .z16 => 2
  | .f32 | .s32 | .z32 => 4
  | .f64 | .s64 | .z64 => 8

/-- Width in bits of an element. -/
def Ty.width (t : Ty) : Nat := 8 * t.size

/-- Types 8 to 15, the integer types (R346, I). -/
def Ty.isInt : Ty → Bool
  | .s8 | .z8 | .s16 | .z16 | .s32 | .z32 | .s64 | .z64 => true
  | _ => false

/-- The signed integer types (R62). -/
def Ty.isSigned : Ty → Bool
  | .s8 | .s16 | .s32 | .s64 => true
  | _ => false

/-- Types 1 to 6, the floating types that a register holds (R61). -/
def Ty.isFloat : Ty → Bool
  | .f64 | .f32 | .bf16 | .f16 | .e4m3 | .e5m2 => true
  | _ => false

/-- Types 1 to 4 (R346, F). -/
def Ty.isF : Ty → Bool
  | .f64 | .f32 | .bf16 | .f16 => true
  | _ => false

/-- Types 1 to 6 and 8 to 15 (R319, R346, W). -/
def Ty.isW (t : Ty) : Bool := t.isFloat || t.isInt

/-- Types 12 to 15 (R326). -/
def Ty.isAmoInt : Ty → Bool
  | .s32 | .z32 | .s64 | .z64 => true
  | _ => false

/-- Types 1 and 2 (R296, R326). -/
def Ty.isF32or64 : Ty → Bool
  | .f64 | .f32 => true
  | _ => false

/-- Conditions an integer comparison accepts (R272). -/
def Cond.okInt : Cond → Bool
  | .un => false
  | _ => true

/-- Conditions a floating comparison accepts (R272). -/
def Cond.okFloat : Cond → Bool
  | .ltz | .lez | .gtz | .gez => false
  | _ => true

/-- The 4-bit code of a condition (R272). -/
def Cond.code : Cond → BitVec 4
  | .eq => 0 | .ne => 1 | .lt => 2 | .le => 3 | .gt => 4 | .ge => 5
  | .ltz => 6 | .lez => 7 | .gtz => 8 | .gez => 9 | .un => 10

/-- The condition a code names; 11 to 15 are reserved (R272). -/
def Cond.ofCode (c : BitVec 4) : Option Cond :=
  match c.toNat with
  | 0 => some .eq | 1 => some .ne | 2 => some .lt | 3 => some .le | 4 => some .gt | 5 => some .ge
  | 6 => some .ltz | 7 => some .lez | 8 => some .gtz | 9 => some .gez | 10 => some .un
  | _ => none

/-- The 4-bit code of a type (R54, R271). -/
def Ty.code : Ty → BitVec 4
  | .raw => 0 | .f64 => 1 | .f32 => 2 | .bf16 => 3 | .f16 => 4 | .e4m3 => 5 | .e5m2 => 6 | .ec8 => 7
  | .s8 => 8 | .z8 => 9 | .s16 => 10 | .z16 => 11 | .s32 => 12 | .z32 => 13 | .s64 => 14 | .z64 => 15

/-- The type a code names (R54, R271). -/
def Ty.ofCode (c : BitVec 4) : Ty :=
  match c.toNat with
  | 0 => .raw | 1 => .f64 | 2 => .f32 | 3 => .bf16 | 4 => .f16 | 5 => .e4m3 | 6 => .e5m2 | 7 => .ec8
  | 8 => .s8 | 9 => .z8 | 10 => .s16 | 11 => .z16 | 12 => .s32 | 13 => .z32 | 14 => .s64 | _ => .z64

/-- A register field below `n` (R270). -/
def Reg.below (r : Reg) (n : Nat) : Bool := r.toNat < n

/-- A vector register field (R270). -/
def Reg.isV (r : Reg) : Bool := r.below 32

/-- A mask or predicate or slot field, 0 to 7 (R270). -/
def Reg.isM (r : Reg) : Bool := r.below 8

/-- A counter, coefficient or handle field, 0 to 15 (R270). -/
def Reg.isK (r : Reg) : Bool := r.below 16

/-- Every register of a VOp with its kind: vector where `true` (R346). -/
def VOp.noB (o : VOp) : Bool := o.b == 0

/-- The c field is not used. -/
def VOp.noC (o : VOp) : Bool := o.c == 0

/-- IMM8 is not used (R344). -/
def VOp.noImm (o : VOp) : Bool := o.imm8 == 0

/-- FLAG is not used (R344). -/
def VOp.noFlag (o : VOp) : Bool := o.flag == false

/-- AUX is not used (R344). -/
def VOp.noAux (o : VOp) : Bool := o.aux == 0

/-- RM is 0, as an instruction that does not round, or an integer type, requires (R346). -/
def VOp.noRm (o : VOp) : Bool := o.rm == .near

/-- MASK is not used (R344). -/
def VOp.noMask (o : VOp) : Bool := o.mask == 0

/-- RM may be non-zero only for a floating type (R346). -/
def VOp.rmOk (o : VOp) : Bool := o.ty.isF || o.noRm

/-- SAT may be set only for an integer type (R346). -/
def VOp.satOk (o : VOp) : Bool := o.ty.isInt || o.noFlag

/-- d and a name vector registers. -/
def VOp.va (o : VOp) : Bool := o.d.isV && o.a.isV

/-- d, a and b name vector registers. -/
def VOp.vab (o : VOp) : Bool := o.va && o.b.isV

/-- VADD, VSUB, VMUL (R346). -/
def VOp.okArith (o : VOp) : Bool :=
  o.vab && o.noC && o.noImm && o.noAux && (o.ty.isF || o.ty.isInt) && o.rmOk && o.satOk

/-- VMIN, VMAX (R346). -/
def VOp.okMinMax (o : VOp) : Bool :=
  o.vab && o.noC && o.noImm && o.noAux && o.noFlag && o.noRm && (o.ty.isF || o.ty.isInt)

/-- VAND, VOR, VXOR (R346). -/
def VOp.okLogic (o : VOp) : Bool :=
  o.vab && o.noC && o.noImm && o.noAux && o.noFlag && o.noRm && (o.ty == .raw || o.ty.isInt)

/-- VSHL, VSHR, VSRA with a count from a register or from IMM8 (R346, R349). -/
def VOp.okShift (o : VOp) : Bool :=
  o.va && o.noC && o.noAux && o.noRm && o.ty.isInt &&
    (if o.flag then o.b == 0 && o.imm8.toNat < o.ty.width else o.b.isV && o.noImm)

/-- VRCP, VRSQ, VEXP2, VLOG2 (R346). -/
def VOp.okApprox (o : VOp) : Bool :=
  o.va && o.noB && o.noC && o.noImm && o.noAux && o.noFlag &&
    (o.ty == .f32 || o.ty == .bf16 || o.ty == .f16)

/-- VRED and VSCAN: operations 0 to 5, of which 3 to 5 take integers only (R361, R362). -/
def VOp.okReduce (o : VOp) : Bool :=
  o.noB && o.noC && o.noImm && o.noFlag && (o.ty.isF || o.ty.isInt) && o.rmOk &&
    (o.aux.toNat < 3 || (o.aux.toNat < 6 && o.ty.isInt))

/-- The elements of a vector register at a type's width (R235). -/
def Ty.lanes (t : Ty) : Nat := 2048 / t.width

/-- Ratio of the wider to the narrower of two types: the number of parts of a VCVT (R352). -/
def Ty.ratio (s d : Ty) : Nat := (Nat.max s.width d.width) / (Nat.min s.width d.width)

/-- An access of LD or ST: any register type, scope 0 to 5 (R319). -/
def MemOp.okLd (o : MemOp) : Bool := o.ty.isW && o.scope != .surv

/-- An access of LDFE or STFE: an 8-byte type 1, 14 or 15 (R322). -/
def MemOp.okFe (o : MemOp) : Bool :=
  (o.ty == .f64 || o.ty == .s64 || o.ty == .z64) && o.scope != .surv

/-- A vector access (R355). -/
def MemOp.okVld (o : MemOp) : Bool := o.okLd && o.d.isV

/-- The register of RLD and RST is scalar for 8 bytes and vector otherwise (R321). -/
def HomeOp.ok (o : HomeOp) : Bool :=
  o.z.toNat < 6 && o.scope != .surv && (o.z == 0 || o.d.isV)

/-- AMO: the types of each operation, c zero (R325, R326). -/
def AtomOp.okAmo (op : AmoOp) (o : AtomOp) : Bool :=
  o.c == 0 && o.scope != .surv &&
    match op with
    | .add | .and | .or | .xor | .min | .max => o.ty.isAmoInt
    | .swap => o.ty.isAmoInt || o.ty.isF32or64
    | .fadd | .fmax => o.ty.isF32or64

/-- CAS (R326). -/
def AtomOp.okCas (o : AtomOp) : Bool := o.scope != .surv && (o.ty.isAmoInt || o.ty.isF32or64)

/-- AMAXRS: as CAS with c zero (R325, R326). -/
def AtomOp.okAmaxrs (o : AtomOp) : Bool := o.c == 0 && o.okCas

/-- WAITA: integer types, space G or V (R326). -/
def WaitaOp.ok (o : WaitaOp) : Bool := o.ty.isAmoInt && (o.space == .g || o.space == .v)

/-- SEND: space X or G, a scalar payload of 8 bytes only (R335, R336). -/
def SendOp.ok (o : SendOp) : Bool :=
  (o.space == .x || o.space == .g) && o.k.isK && (if o.vec then o.b.isV else o.len == 0)

/-- The strided forms: SC zero (R355). -/
def VMemOp.okStride (o : VMemOp) : Bool :=
  o.ty.isW && o.scope != .surv && o.d.isV && o.sc == 0

/-- The indexed forms: b names a vector register (R355). -/
def VMemOp.okIndex (o : VMemOp) : Bool :=
  o.ty.isW && o.scope != .surv && o.d.isV && o.b.isV

/-- A record in G or L space (R373). -/
def EnqOp.ok (o : EnqOp) : Bool := o.space == .g || o.space == .l

/-- Step 3 of R264 for each instruction; the rows that no head encodes are well formed with any operands. -/
def Instr.wellFormed : Instr → Bool
  | .sext _ t _ _ => t == .s8 || t == .s16 || t == .s32
  | .zext _ t _ _ => t == .z8 || t == .z16 || t == .z32
  | .cmp _ c t d _ _ => c.okInt && (t == .raw || t.isInt) && d.isM
  | .plog _ _ d a b => d.isM && a.isM && b.isM
  | .shli _ _ _ imm | .shri _ _ _ imm | .srai _ _ _ imm => imm.toNat < 64
  | .cmpi _ c _ _ _ => c.code.toNat < 8
  | .cmpiHi _ c _ _ _ => c == .gtz || c == .gez
  | .fadd _ t _ _ _ _ | .fsub _ t _ _ _ _ | .fmul _ t _ _ _ _ | .fdiv _ t _ _ _ _ => t.isF32or64
  | .fma _ t _ _ _ _ _ => t.isF32or64
  | .fmin _ t _ _ _ | .fmax _ t _ _ _ => t.isF32or64
  | .fcmp _ c t d _ _ => t.isF32or64 && c.okFloat && d.isM
  | .fcvt _ dt src _ _ _ => dt.isW && src.isW
  | .ld _ o | .ldNc _ o | .ldRo _ o | .st _ o => o.okLd
  | .rld _ o | .rst _ o => o.ok
  | .ldfeFf _ o | .ldfeFe _ o | .stfeEf _ o | .stfeSf _ o | .stfeSe _ o => o.okFe
  | .amo _ op o => o.okAmo op
  | .cas _ o => o.okCas
  | .amaxrs _ o => o.okAmaxrs
  | .sstep _ l => 1 ≤ l.toNat && l.toNat ≤ 5
  | .waita _ o => o.ok
  | .send _ o => o.ok
  | .sendp _ _ _ _ b => b.isV
  | .recvp _ _ _ d _ => d.isV
  | .vadd _ o | .vsub _ o | .vmul _ o => o.okArith
  | .vfma _ o => o.vab && o.c.isV && o.noImm && o.noAux && (o.ty.isF || o.ty.isInt) && o.rmOk && o.satOk
  | .vmin _ o | .vmax _ o => o.okMinMax
  | .vabs _ o =>
    o.va && o.noB && o.noC && o.noImm && o.noAux && o.noRm && (o.ty.isF || o.ty.isInt) && o.satOk
  | .vand _ o | .vor _ o | .vxor _ o => o.okLogic
  | .vshl _ o | .vshr _ o | .vsra _ o => o.okShift
  | .vcmp _ o =>
    o.d.isM && o.a.isV && o.b.isV && o.noC && o.noImm && o.noFlag && o.noRm &&
      (match Cond.ofCode o.aux with
       | some c => (o.ty.isF && c.okFloat) || (o.ty.isInt && c.okInt)
       | none => false)
  | .vsel _ o => o.vab && o.noC && o.noImm && o.noFlag && o.noAux && o.noRm && o.ty.isW
  | .vcvt _ o =>
    o.va && o.noB && o.noC && o.noFlag && o.ty.isW && (Ty.ofCode o.aux).isW &&
      o.imm8.toNat < Ty.ratio (Ty.ofCode o.aux) o.ty &&
      (o.noRm || o.ty.isFloat || (Ty.ofCode o.aux).isFloat)
  | .vrcp _ o | .vrsq _ o | .vexp2 _ o | .vlog2 _ o => o.okApprox
  | .vclmul _ o => o.vab && o.noC && o.noImm && o.noAux && o.noRm && o.ty.isInt
  | .vpopc _ o => o.va && o.noB && o.noC && o.noImm && o.noAux && o.noFlag && o.noRm && o.ty.isInt
  | .vld _ o | .vst _ o => o.okVld
  | .vlds _ o | .vsts _ o => o.okStride
  | .vldg _ o | .vstg _ o => o.okIndex
  | .vbcast _ o =>
    o.d.isV && o.noB && o.noC && o.noImm && o.noAux && o.noFlag && o.noRm && o.ty.isW
  | .vperm _ o => o.vab && o.noC && o.noImm && o.noAux && o.noFlag && o.noRm && o.ty.isW
  | .vslide _ o =>
    o.vab && o.noC && o.noAux && o.noFlag && o.noRm && o.ty.isW && o.imm8.toNat < o.ty.lanes
  | .vcomp _ o => o.va && o.noB && o.noImm && o.noAux && o.noFlag && o.noRm && o.ty.isW
  | .vexpd _ o => o.va && o.noB && o.noC && o.noImm && o.noAux && o.noFlag && o.noRm && o.ty.isW
  | .vred _ o => o.a.isV && o.okReduce
  | .vscan _ o => o.va && o.okReduce
  | .vtopk _ o =>
    o.va && o.noB && o.noC && o.noAux && o.noFlag && o.noRm && (o.ty.isF || o.ty.isInt) &&
      1 ≤ o.imm8.toNat && o.imm8.toNat ≤ 64
  | .vmovs _ o =>
    o.noC && o.noAux && o.noRm && o.noMask && o.ty.isW && (if o.flag then o.d.isV else o.a.isV)
  | .mlog _ o =>
    o.d.isM && o.a.isM && o.b.isM && o.noC && o.noImm && o.noFlag && o.noRm && o.noMask && o.ty == .raw
  | .mget _ o =>
    o.a.isM && o.noB && o.noC && o.noAux && o.noFlag && o.noRm && o.noMask && o.ty == .raw &&
      o.imm8.toNat < 4
  | .mset _ o =>
    o.d.isM && o.noB && o.noC && o.noAux && o.noFlag && o.noRm && o.noMask && o.ty == .raw &&
      o.imm8.toNat < 4
  | .enq _ tr p o => o.ok && (tr || p == 0)
  | .enqm _ _ o => o.ok
  | .deq _ tr p _ _ => tr || p == 0
  | .qmov _ dir d a => if dir then a.isK else d.isK
  | .mstat _ slot _ a => if slot then a.isM else a.isK
  | .add .. | .sub .. | .and .. | .or .. | .xor .. | .andn .. | .orn .. | .shl .. | .shr .. | .sra ..
  | .rol .. | .mul .. | .mulh .. | .mulhz .. | .div .. | .divz .. | .rem .. | .remz .. | .min ..
  | .max .. | .minz .. | .maxz .. | .clz .. | .ctz .. | .popc .. | .brev .. | .sel .. | .pget ..
  | .pset .. | .addi .. | .andi .. | .ori .. | .xori .. | .movi .. | .addpc .. | .clmul .. | .clmulh ..
  | .fsqrt .. | .fclass .. | .nop .. | .br .. | .jmp .. | .call .. | .calli .. | .ret .. | .loop ..
  | .exit .. | .trap .. | .eret .. | .wfi .. | .halt .. | .srd .. | .swr .. | .ifence ..
  | .fenceAcq .. | .fenceRel .. | .fenceAr .. | .sfence .. | .pref .. | .cinv .. | .cinvRo ..
  | .bara .. | .barw .. | .bar .. | .evwait .. | .evsig .. | .mtxl .. | .mtxu .. | .waitc ..
  | .cadd .. | .post .. | .harn .. | .detach .. | .rejoin .. | .eqstat .. | .rfence .. => true
  | .lsplitWrite .. | .bfmtWrite .. | .mthrWrite .. | .tlbinv .. | .regionTableWrite ..
  | .routeTableWrite .. | .sysregWrite .. | .mzero .. | .mldb .. | .mmul .. | .mepi .. | .miter ..
  | .miterPhase .. | .mrel .. | .mspill .. | .mfill .. | .copy .. | .fill .. | .pack .. | .unpack ..
  | .gather .. | .scatter .. | .fetchr .. | .fetchrUnitArrival .. | .fetchrReadTimeout .. | .vdec ..
  | .rsz .. | .cimParityScrub | .asyncTrap | .rasSpill | .rasFill | .bufferLineTimeout
  | .bufferedLinePerform .. | .feRequestReissue .. | .postedStoreAck .. | .postedStoreRefusal ..
  | .xAccessArrival .. | .messageArrival .. | .foreignAtomic .. | .pageWalk .. | .parityDeltaApply ..
  | .deltaRetire .. | .harnessForward | .remoteArrival .. | .remoteEvsig .. | .eventMessageReissue ..
  | .hobble .. | .claimAt .. | .releaseAt .. | .reserve .. | .hobbleRetryExpiry .. | .ageLimitExpiry ..
  | .taskIssue .. | .gangIssue .. | .balanceExchange .. | .preemptRequest .. | .taskSuspend ..
  | .taskResume .. | .taskRetire .. | .controlNodeEval .. | .gridEnd .. | .graphCompletionRecord ..
  | .completionCountReread .. | .hostRmaWrite .. | .hostRmaRead .. | .mailboxPageVisit ..
  | .mailboxNop .. | .regspace .. | .regwin .. | .unregwin .. | .submit .. | .graphHandoverTimeout ..
  | .launch .. | .release .. | .responseWrite .. | .flitReceive .. | .flitResendTimeout ..
  | .trainingFlit .. | .linkTraining .. | .linkRetrainTimer .. | .laneFailure .. | .routeRecompute
  | .memberLost .. | .stripeRebuild .. | .moduleReset | .reportRequestPoll | .firmwareUpdate
  | .telemetryUpdate .. | .smbusBlockRead .. | .smbusOtherCommand .. | .clockStep .. | .thermalReset
  | .unassignedOpcode .. | .unsupportedPacket .. | .hostAcknowledgement .. | .softError ..
  | .powerFailure .. => true

end Sys2Proof
end

