-- ==== Sys2Proof/Machine/Bits.lean ====
section
/-! DEFINITION. Bit-string helpers: sign extension, counts, reversal, carry-less product, division corners
(R7, R282, R284, R285, R290). -/

namespace Sys2Proof.Machine

/-- The low `w` bits of a number read as two's complement (R7). -/
def toSigned (w x : Nat) : Int :=
  if x % 2 ^ w < 2 ^ (w - 1) then (x % 2 ^ w : Nat) else (x % 2 ^ w : Nat) - (2 ^ w : Nat)

/-- The `w`-bit pattern of an integer (R281). -/
def ofInt (w : Nat) (x : Int) : Nat := (x % (2 ^ w : Nat)).toNat

/-- SignExt of a field to 64 bits (R7). -/
def signExt {n : Nat} (x : BitVec n) : Word := x.signExtend 64

/-- Extend(x, t): the low bits of a result extended by its type (R7, R282). -/
def extend (x : Nat) (t : Ty) : Word :=
  if t.isSigned then BitVec.ofInt 64 (toSigned t.width x) else BitVec.ofNat 64 (x % 2 ^ t.width)

/-- Number of 1 bits among the low `w` bits. -/
def popc : Nat → Nat → Nat
  | 0, _ => 0
  | w + 1, x => x % 2 + popc w (x / 2)

/-- Trailing zeros of the low `w` bits; `w` for zero. -/
def ctz : Nat → Nat → Nat
  | 0, _ => 0
  | w + 1, x => if x % 2 = 1 then 0 else 1 + ctz w (x / 2)

/-- Leading zeros of a `w`-bit number; `w` for zero. -/
def clz (w x : Nat) : Nat := if x = 0 then w else w - 1 - Nat.log2 x

/-- The low `w` bits in reverse order. -/
def brev : Nat → Nat → Nat
  | 0, _ => 0
  | w + 1, x => x % 2 * 2 ^ w + brev w (x / 2)

/-- Carry-less product of `a` with the low `w` bits of `b` (R290). -/
def clmul : Nat → Nat → Nat → Nat
  | 0, _, _ => 0
  | w + 1, a, b => (if b % 2 = 1 then a else 0) ^^^ clmul w (2 * a) (b / 2)

/-- Quotient and remainder of R285 on 64-bit operands. -/
def divide (signed : Bool) (x y : Word) : Word × Word :=
  if y = 0 then
    let q : Word :=
      if x = 0 then 0
      else if !signed then BitVec.allOnes 64
      else if 0 < x.toInt then 0x7FFF_FFFF_FFFF_FFFF
      else 0x8000_0000_0000_0000
    (q, x)
  else if signed then
    if x = 0x8000_0000_0000_0000 ∧ y = BitVec.allOnes 64 then (0x7FFF_FFFF_FFFF_FFFF, 0)
    else (BitVec.ofInt 64 (x.toInt.tdiv y.toInt), BitVec.ofInt 64 (x.toInt.tmod y.toInt))
  else (x / y, x % y)

/-- The integer value of the low bits of a register read at an integer type; type 0 reads as .s64 (R62, R292). -/
def intVal (t : Ty) (x : Nat) : Int :=
  if t == .raw then toSigned 64 x
  else if t.isSigned then toSigned t.width x
  else (x % 2 ^ t.width : Nat)

/-- The unsigned pattern of the low bits at an integer type. -/
def rawVal (t : Ty) (x : Nat) : Nat := if t == .raw then x % 2 ^ 64 else x % 2 ^ t.width

/-- Least value of an integer type (R62). -/
def intMin (t : Ty) : Int := if t.isSigned then -(2 ^ (t.width - 1) : Nat) else 0

/-- Greatest value of an integer type (R62). -/
def intMax (t : Ty) : Int := if t.isSigned then (2 ^ (t.width - 1) : Nat) - 1 else (2 ^ t.width : Nat) - 1

/-- Clamp an integer to a type's range. -/
def clampInt (t : Ty) (x : Int) : Int := if x < intMin t then intMin t else if intMax t < x then intMax t else x

end Sys2Proof.Machine
end

