-- ==== Sys2Proof/Machine/Numfmt.lean ====
section
/-! DEFINITION. Number formats, exact values, rounding and conversion (04, R61 to R68). -/

namespace Sys2Proof.Machine

/-- An extended real: NaN, an infinity, or sign and magnitude `m * 2^e` (R283, Val). -/
inductive Val where
  | nan
  | inf (neg : Bool)
  | fin (neg : Bool) (m : Nat) (e : Int)
deriving DecidableEq, Repr

/-- A floating-point format of R61. -/
structure FFmt where
  ebits : Nat
  mbits : Nat
  bias  : Nat
  /-- infinities exist -/
  hasInf : Bool
  /-- a finite overflow saturates (R66: the 8-bit formats) -/
  sat : Bool
deriving DecidableEq, Repr

/-- The format of a floating type (R61); the EC8 element is E4M3 (R71). -/
def fmtOf : Ty → FFmt
  | .f64 => ⟨11, 52, 1023, true, false⟩
  | .f32 => ⟨8, 23, 127, true, false⟩
  | .bf16 => ⟨8, 7, 127, true, false⟩
  | .f16 => ⟨5, 10, 15, true, false⟩
  | .e5m2 => ⟨5, 2, 15, true, true⟩
  | _ => ⟨4, 3, 7, false, true⟩

/-- Exponent of the least significant bit of the subnormals. -/
def FFmt.qmin (f : FFmt) : Int := 1 - (f.bias : Int) - f.mbits

/-- The largest finite magnitude, as an integer times a power of two (R61). -/
def FFmt.maxFin (f : FFmt) : Nat × Int :=
  if f.hasInf then (2 ^ (f.mbits + 1) - 1, (f.bias : Int) - f.mbits)
  else (2 ^ (f.mbits + 1) - 2, (f.bias : Int) + 1 - f.mbits)

/-- All-ones exponent field. -/
def FFmt.eOnes (f : FFmt) : Nat := 2 ^ f.ebits - 1

/-- The canonical NaN (R63). -/
def FFmt.nanBits (f : FFmt) : Nat :=
  if f.hasInf then f.eOnes * 2 ^ f.mbits + 2 ^ (f.mbits - 1) else 2 ^ (f.ebits + f.mbits) - 1

/-- The sign bit of an encoding. -/
def FFmt.signBit (f : FFmt) (neg : Bool) : Nat := if neg then 2 ^ (f.ebits + f.mbits) else 0

/-- An infinity's encoding. -/
def FFmt.infBits (f : FFmt) (neg : Bool) : Nat := f.signBit neg + f.eOnes * 2 ^ f.mbits

/-- The encoding of the largest finite value. -/
def FFmt.maxBits (f : FFmt) (neg : Bool) : Nat :=
  f.signBit neg + (if f.hasInf then f.eOnes * 2 ^ f.mbits - 1 else 2 ^ (f.ebits + f.mbits) - 2)

/-- The value of an encoding (R61). -/
def FFmt.decode (f : FFmt) (x : Nat) : Val :=
  let neg := x / 2 ^ (f.ebits + f.mbits) % 2 == 1
  let e := x / 2 ^ f.mbits % 2 ^ f.ebits
  let m := x % 2 ^ f.mbits
  if e = 0 then .fin neg m f.qmin
  else if e = f.eOnes ∧ f.hasInf then (if m = 0 then .inf neg else .nan)
  else if e = f.eOnes ∧ m = 2 ^ f.mbits - 1 then .nan
  else .fin neg (2 ^ f.mbits + m) (e - 1 + f.qmin)

/-- The encoding of a magnitude `t * 2^q` that the format represents. -/
def FFmt.pack (f : FFmt) (neg : Bool) (t : Nat) (q : Int) : Nat :=
  if t < 2 ^ f.mbits then f.signBit neg + t
  else if t = 2 ^ (f.mbits + 1) then f.signBit neg + (q - f.qmin + 2).toNat * 2 ^ f.mbits
  else f.signBit neg + (q - f.qmin + 1).toNat * 2 ^ f.mbits + (t - 2 ^ f.mbits)

/-- Whether a rounding adds one unit to the truncated magnitude: `odd` is its last bit, `r` the remainder out of
`2 * half` (R65). -/
def roundUp (rm : Rm) (neg odd : Bool) (r half : Nat) : Bool :=
  match rm with
  | .near => half < r || (r == half && odd)
  | .down => neg && r != 0
  | .up => !neg && r != 0
  | .chop => false

/-- Round the magnitude `m * 2^e` to a multiple of `2^q`; the answer counts units of `2^q` (R65). -/
def roundAt (rm : Rm) (neg : Bool) (m : Nat) (e q : Int) : Nat :=
  if q ≤ e then m * 2 ^ (e - q).toNat
  else
    let sh := (q - e).toNat
    let t := m / 2 ^ sh
    if roundUp rm neg (t % 2 == 1) (m % 2 ^ sh) (2 ^ (sh - 1)) then t + 1 else t

/-- The exponent of the last place to which a format rounds `m * 2^e`, its exponent unbounded above (R66). -/
def FFmt.place (f : FFmt) (m : Nat) (e : Int) : Int :=
  max (e + (Nat.log2 m + 1 : Nat) - (f.mbits + 1 : Nat)) f.qmin

/-- Compare magnitudes `m * 2^e`. -/
def magLt (m : Nat) (e : Int) (m' : Nat) (e' : Int) : Bool :=
  m * 2 ^ (e - min e e').toNat < m' * 2 ^ (e' - min e e').toNat

/-- A conversion's bits and what it counts (R66, R67). -/
structure Conv where
  bits : Nat
  sat  : Bool := false
  nan  : Bool := false
deriving DecidableEq, Repr

/-- R66 for a floating destination. -/
def FFmt.conv (f : FFmt) (rm : Rm) (v : Val) : Conv :=
  match v with
  | .nan => ⟨f.nanBits, false, true⟩
  | .inf neg => if f.hasInf then ⟨f.infBits neg, false, false⟩ else ⟨f.maxBits neg, true, false⟩
  | .fin neg m e =>
    if m = 0 then ⟨f.signBit neg, false, false⟩
    else
      let q := f.place m e
      let t := roundAt rm neg m e q
      if magLt f.maxFin.1 f.maxFin.2 t q then
        if f.sat then ⟨f.maxBits neg, true, false⟩
        else
          match rm with
          | .near => ⟨f.infBits neg, false, false⟩
          | .chop => ⟨f.maxBits neg, false, false⟩
          | .down => ⟨if neg then f.infBits true else f.maxBits false, false, false⟩
          | .up => ⟨if neg then f.maxBits true else f.infBits false, false, false⟩
      else ⟨f.pack neg t q, false, false⟩

/-- R66 for an integer destination. -/
def intConv (t : Ty) (rm : Rm) (v : Val) : Conv :=
  match v with
  | .nan => ⟨0, false, true⟩
  | .inf neg => ⟨ofInt t.width (if neg then intMin t else intMax t), true, false⟩
  | .fin neg m e =>
    let n := roundAt rm neg m e 0
    let x : Int := if neg then -(n : Int) else n
    ⟨ofInt t.width (clampInt t x), x != clampInt t x, false⟩

/-- FConv(v, t, m): the conversion of R66 (R283). -/
def fconv (t : Ty) (rm : Rm) (v : Val) : Conv := if t.isInt then intConv t rm v else (fmtOf t).conv rm v

/-- An integer as an exact value. -/
def Val.ofInt (x : Int) : Val := .fin (x < 0) x.natAbs 0

/-- Val(x, t): the value of the low bits of x read in type t (R283). -/
def val (t : Ty) (x : Nat) : Val := if t.isInt then .ofInt (intVal t x) else (fmtOf t).decode (x % 2 ^ t.width)

/-- Change of sign. -/
def Val.neg : Val → Val
  | .nan => .nan
  | .inf n => .inf (!n)
  | .fin n m e => .fin (!n) m e

/-- Magnitude. -/
def Val.abs : Val → Val
  | .nan => .nan
  | .inf _ => .inf false
  | .fin _ m e => .fin false m e

/-- Scale by a power of two, exactly (R68). -/
def Val.scale (v : Val) (k : Int) : Val :=
  match v with
  | .fin n m e => .fin n m (e + k)
  | v => v

/-- The signed multiple of `2^q` that a finite magnitude is, for `q` at most its exponent. -/
def units (neg : Bool) (m : Nat) (e q : Int) : Int :=
  let n : Int := (m * 2 ^ (e - q).toNat : Nat)
  if neg then -n else n

/-- Exact sum; the mode fixes the sign of an exact zero (R64, R283). -/
def Val.add (rm : Rm) : Val → Val → Val
  | .nan, _ | _, .nan => .nan
  | .inf a, .inf b => if a = b then .inf a else .nan
  | .inf a, .fin .. => .inf a
  | .fin .., .inf b => .inf b
  | .fin a m e, .fin b n f =>
    let q := min e f
    let x := units a m e q + units b n f q
    if x = 0 then .fin (if a = b then a else rm == .down) 0 q
    else .fin (x < 0) x.natAbs q

/-- Exact difference. -/
def Val.sub (rm : Rm) (x y : Val) : Val := x.add rm y.neg

/-- Exact product (R283). -/
def Val.mul : Val → Val → Val
  | .nan, _ | _, .nan => .nan
  | .inf a, .inf b => .inf (a != b)
  | .inf a, .fin b n _ => if n = 0 then .nan else .inf (a != b)
  | .fin a m _, .inf b => if m = 0 then .nan else .inf (a != b)
  | .fin a m e, .fin b n f => .fin (a != b) (m * n) (e + f)

/-- A quotient or root known to `m * 2^e` with a remainder: one more bit, set when the remainder is not zero, stands
below more bits than any format keeps, so that it rounds as the exact value does. -/
def stickied (neg : Bool) (m : Nat) (e : Int) (inexact : Bool) : Val :=
  .fin neg (2 * m + if inexact then 1 else 0) (e - 1)

/-- Quotient, exact for rounding to any format (R283). -/
def Val.div : Val → Val → Val
  | .nan, _ | _, .nan => .nan
  | .inf _, .inf _ => .nan
  | .inf a, .fin b _ _ => .inf (a != b)
  | .fin a _ _, .inf b => .fin (a != b) 0 0
  | .fin a m e, .fin b n f =>
    if n = 0 then (if m = 0 then .nan else .inf (a != b))
    else if m = 0 then .fin (a != b) 0 0
    else
      let k := 66 + Nat.log2 n
      stickied (a != b) (m * 2 ^ k / n) (e - f - k) (m * 2 ^ k % n != 0)

/-- Integer square root by bits from the top: `w` steps find the root of a number below `4^w`. -/
def isqrtFrom (x : Nat) : Nat → Nat → Nat
  | 0, r => r
  | w + 1, r => if (r + 2 ^ w) * (r + 2 ^ w) ≤ x then isqrtFrom x w (r + 2 ^ w) else isqrtFrom x w r

/-- Integer square root. -/
def isqrt (x : Nat) : Nat := isqrtFrom x (Nat.log2 x / 2 + 1) 0

/-- Square root, exact for rounding to any format (R283). -/
def Val.sqrt : Val → Val
  | .nan => .nan
  | .inf n => if n then .nan else .inf false
  | .fin n m e =>
    if m = 0 then .fin n 0 0
    else if n then .nan
    else
      let odd := e % 2
      let x := m * 2 ^ (140 + odd).toNat
      let r := isqrt x
      stickied false r ((e - odd - 140) / 2) (r * r != x)

/-- Order of two values that are not NaN, −0.0 equal to +0.0 (R272). -/
def Val.lt : Val → Val → Bool
  | .inf a, .inf b => a && !b
  | .inf a, .fin .. => a
  | .fin .., .inf b => !b
  | .fin a m e, .fin b n f => units a m e (min e f) < units b n f (min e f)
  | _, _ => false

/-- A NaN. -/
def Val.isNan : Val → Bool
  | .nan => true
  | _ => false

/-- Equality as numbers. -/
def Val.same (x y : Val) : Bool := !x.isNan && !y.isNan && !x.lt y && !y.lt x

/-- Sign of a value that is not NaN. -/
def Val.isNeg : Val → Bool
  | .inf n => n
  | .fin n _ _ => n
  | .nan => false

/-- `x` below `y` with −0.0 below +0.0 (R299). -/
def Val.below (x y : Val) : Bool := x.lt y || (x.same y && x.isNeg && !y.isNeg)

/-- FMIN and FMAX on encodings (R299): canonical NaN, else the lesser or greater operand bit for bit. -/
def fminmax (t : Ty) (wantMax : Bool) (x y : Nat) : Nat :=
  let a := val t x
  let b := val t y
  if a.isNan || b.isNan then (fmtOf t).nanBits
  else if wantMax then (if a.below b then y % 2 ^ t.width else x % 2 ^ t.width)
  else (if b.below a then y % 2 ^ t.width else x % 2 ^ t.width)

/-- FCLASS (R301). -/
def fclass (t : Ty) (x : Nat) : Word :=
  let f := fmtOf t
  let e := x / 2 ^ f.mbits % 2 ^ f.ebits
  let m := x % 2 ^ f.mbits
  let neg := x / 2 ^ (f.ebits + f.mbits) % 2
  let kind : Nat := if e = 0 then (if m = 0 then 0 else 1) else if e = f.eOnes then (if m = 0 then 3 else 4) else 2
  let exp : Int :=
    if kind = 2 then (e : Int) - f.bias else if kind = 1 then f.qmin + Nat.log2 m else 0
  BitVec.ofNat 64 (ofInt 16 exp * 65536 + neg * 256 + kind)

end Sys2Proof.Machine
end

