-- ==== Sys2Proof/Config.lean ====
section
/-! DEFINITION. What the spec leaves to the implementation or to standards outside it: opaque constants without a
body, so that nothing can be proved of their values (the assumption log names each). -/

namespace Sys2Proof.Config

/-- A value nothing constrains, one for each reading of the counter `free` of State (log 8). -/
opaque freeValue : Nat → Word

/-- The address of the resident handler's entry for each SOURCE of TRAPCAUSE (R450 names none; log 4). -/
opaque handlerEntry : Nat → Word

/-- The local physical address of the pool of 4,096 context images, a multiple of 4,096 (R454; log 12). -/
opaque imagePoolUnit : Nat

/-- Changer number that a 64-byte line address hashes to (R200 step 2; log 8). -/
opaque changerHash : Nat → Nat

/-- Index of the link a gateway picks for the number of a destination home slice among `n` listed links (R240; log 8). -/
opaque linkHash : Nat → Nat → Nat

/-- ML-DSA-87 verification of FIPS 204: key, message digest, context string, signature (R482; log 9). -/
opaque mlDsaVerify : List Byte → List Byte → List Byte → List Byte → Bool

/-- ML-DSA-87 signature of FIPS 204 in its hedged form: seed, message digest, context string, and a number for the fresh
randomness (R484; log 9). -/
opaque mlDsaSign : List Byte → List Byte → List Byte → Nat → List Byte

/-- ML-DSA-87 public key derived from a 32-byte seed (R483; log 9). -/
opaque mlDsaPublic : List Byte → List Byte

/-- SHA3-512 of a byte string (R482; log 9). -/
opaque sha3 : List Byte → List Byte

/-- The digests of the four vendor keys held in fuses (R482; log 9). -/
opaque vendorDigest : Nat → List Byte

/-- The fused device secret of each package (R483; log 9). -/
opaque deviceSecret : Nat → List Byte

/-- The serial number of each package's module (R484; log 9). -/
opaque serialNumber : Nat → List Byte

/-- One decoded plane sample of a picture: codec, the bytes consumed so far by the context, the picture's number, plane (0
luma, 1 chroma) and sample index (R137: standards outside the spec; log 10). -/
opaque codecSample : Nat → List Byte → Nat → Nat → Nat → Nat

/-- What a codec does with a unit: codec, bytes of the context so far, the unit.  The answer holds: verdict
(0 accepted, 1 outside R137, 2 corrupt), bit depth is ten, width, height, pictures now ready (R137, R138; log 10). -/
opaque codecUnit : Nat → List Byte → List Byte → Nat × Bool × Nat × Nat × Nat

/-- Whether the block that holds a sample of a picture could not be decoded, with the arguments of `codecSample` (R138; log
10). -/
opaque codecLost : Nat → List Byte → Nat → Nat → Nat → Bool

/-- Position along one axis of the rectangle, in luma samples, of output sample `o` of `out` for a source of `n`: a numerator
and a denominator less one (R139 does not say how the output grid lies over the rectangle; log 11). -/
opaque rszPos : Nat → Nat → Nat → Int × Nat

/-- What one order of the FP32 operations makes of one output sample of RSZ, an FP32 pattern that counts only where it lies
within the bound of `rszValue`: the record's bytes, the output's format code, the source rectangle's samples (luma then
chroma), plane, column, row (R139 leaves the order of its FP32 operations open; log 11). -/
opaque rszRounded : List Byte → Nat → List Nat → Nat → Nat → Nat → BitVec 32

/-- The old or the new word that a foreign atomic whose transport failed leaves in its target (R200; log 8). -/
opaque foreignFailKeepsOld : Nat → Bool

/-- What is cabled to a link of a package: the partner's package, its link, its generation (R486; log 23). -/
opaque cable : Nat → Nat → Option (Nat × Nat × Nat)

/-- Endpoint identifier of the destination that a link packet header names, whose layout the spec does not give (R247;
log 23). -/
opaque packetDest : Nat → Nat

/-- Header and data of the packet that carries a part of a posted store: destination package and home, and the source core
with the store's number (R247; log 23). -/
opaque packetBits : Nat × Nat → Nat × Nat → Nat × Nat

/-- Bytes of a slot of the boot flash that read back otherwise than they were written in a writing of a firmware update, by
the count of free values read and the slot, 0 A and 1 B: offsets and the bytes read (R502 status 7; log 53). -/
opaque flashWrong : Nat → Nat → List (Nat × Byte)

/-- Fields of the configuration component, whose layout the spec does not give (R479; log 24): package id. -/
opaque confPackage : List Byte → BitVec 12

/-- PART of the configuration component (R36; log 24). -/
opaque confPart : List Byte → BitVec 12

/-- VGRP that the configuration component gives a core number: first member and size (R53; log 24). -/
opaque confVgrp : List Byte → Nat → BitVec 6 × BitVec 4

/-- How many of the messages that wait for a core's service endpoint its firmware has taken by a turn, which the spec does not
say (R311; log 18). -/
opaque messagesTaken : Nat → Nat

/-- Ports whose mode the configuration component sets to 1 (R428; log 24). -/
opaque confPorts : List Byte → List Nat

/-- Region table entries that firmware writes at bring-up (R475, R479; log 24). -/
opaque confRegions : List Byte → List Word

/-- Power cap in watts that the configuration component sets, none where it sets none (R500; log 24). -/
opaque confCap : List Byte → Option Nat

/-- PTROOT0 and PTROOT1 that firmware writes at bring-up (R464, R479; log 24). -/
opaque confRoots : List Byte → Word × Word

/-- The parity group record of the configuration component that names this package (R492; log 24). -/
opaque confParity : List Byte → List Byte

/-- Whether overflow areas of a number of bytes can still be allocated beside those already held in a package (R437; log
12). -/
opaque overflowFits : Nat → Nat → Bool

end Sys2Proof.Config
end

