-- ==== Sys2Proof/Decode.lean ====
section
/-! DEFINITION. Instruction lines, heads and tails (14): the decoder, total on any bits, and after it the encoder,
both written from the tail formats of R269 and the fields the instruction chapters give. -/

namespace Sys2Proof

/-- Why a head is refused with status 0x10 although its opcode and tail length are those of an instruction: a field
holds a value the instruction does not accept (R264 step 3). -/
inductive Reject where
  /-- a register, code or unused field out of its range -/
  | illegalField (opc : Nat)
deriving DecidableEq, Repr

/-- `n` bits of a tail string from bit `lo` (R260, R269). -/
def fld (n t lo : Nat) : BitVec n := BitVec.ofNat n (t / 2 ^ lo)

/-- One bit of a tail string. -/
def bitAt (t lo : Nat) : Bool := t / 2 ^ lo % 2 == 1

/-- The space a 3-bit code names; 4 to 7 are none (R40). -/
def Space.ofCode (c : BitVec 3) : Option Space :=
  match c.toNat with
  | 0 => some .g | 1 => some .l | 2 => some .x | 3 => some .v | _ => none

/-- The code of a space (R40). -/
def Space.code : Space → BitVec 3
  | .g => 0 | .l => 1 | .x => 2 | .v => 3

/-- The order a 2-bit code names (R208). -/
def Ord.ofCode (c : BitVec 2) : Ord :=
  match c.toNat with
  | 0 => .none | 1 => .acq | 2 => .rel | _ => .ar

/-- The code of an order (R208). -/
def Ord.code : Ord → BitVec 2
  | .none => 0 | .acq => 1 | .rel => 2 | .ar => 3

/-- The scope a 3-bit code names; 7 is reserved (R207). -/
def Scope.ofCode (c : BitVec 3) : Option Scope :=
  match c.toNat with
  | 0 => some .core | 1 => some .clus | 2 => some .die | 3 => some .pkg | 4 => some .fab | 5 => some .host
  | 6 => some .surv | _ => none

/-- The code of a scope (R207). -/
def Scope.code : Scope → BitVec 3
  | .core => 0 | .clus => 1 | .die => 2 | .pkg => 3 | .fab => 4 | .host => 5 | .surv => 6

/-- The rounding mode a 2-bit code names (R65). -/
def Rm.ofCode (c : BitVec 2) : Rm :=
  match c.toNat with
  | 0 => .near | 1 => .down | 2 => .up | _ => .chop

/-- The code of a rounding mode (R65). -/
def Rm.code : Rm → BitVec 2
  | .near => 0 | .down => 1 | .up => 2 | .chop => 3

/-- The queue a 3-bit code names; 3 to 7 are none (R273). -/
def Queue.ofCode (c : BitVec 3) : Option Queue :=
  match c.toNat with
  | 0 => some .mat | 1 => some .cpy | 2 => some .med | _ => none

/-- The code of a queue (R273). -/
def Queue.code : Queue → BitVec 3
  | .mat => 0 | .cpy => 1 | .med => 2

/-- The operation an AMO's OP names; 9 to 15 are none (R326). -/
def AmoOp.ofCode (c : BitVec 4) : Option AmoOp :=
  match c.toNat with
  | 0 => some .add | 1 => some .and | 2 => some .or | 3 => some .xor | 4 => some .min | 5 => some .max
  | 6 => some .swap | 7 => some .fadd | 8 => some .fmax | _ => none

/-- The code of an AMO operation (R326). -/
def AmoOp.code : AmoOp → BitVec 4
  | .add => 0 | .and => 1 | .or => 2 | .xor => 3 | .min => 4 | .max => 5 | .swap => 6 | .fadd => 7 | .fmax => 8

/-- The instruction if its unused fields are zero. -/
def keep (ok : Bool) (i : Instr) : Option Instr := if ok then some i else none

/-- The d field of every register format (R269). -/
def fD (t : Nat) : Reg := fld 6 t 0
/-- The a (or base) field. -/
def fA (t : Nat) : Reg := fld 6 t 6
/-- The b field of formats B, C and E. -/
def fB (t : Nat) : Reg := fld 6 t 12
/-- The c field of format C. -/
def fC (t : Nat) : Reg := fld 6 t 18
/-- The f field of format A. -/
def fFA (t : Nat) : BitVec 4 := fld 4 t 12
/-- The f field of format B. -/
def fFB (t : Nat) : BitVec 14 := fld 14 t 18
/-- The imm20 field of format I. -/
def fImm (t : Nat) : BitVec 20 := fld 20 t 12

/-- An M tail; none where the space or the scope code is reserved (R40, R208, R269). -/
def decM (t : Nat) (k : MemOp → Option Instr) : Option Instr :=
  match Space.ofCode (fld 3 t 12), Scope.ofCode (fld 3 t 15) with
  | some sp, some sc =>
    k { offset := fld 24 t 24, ty := Ty.ofCode (fld 4 t 20), order := Ord.ofCode (fld 2 t 18), scope := sc,
        space := sp, base := fA t, d := fD t }
  | _, _ => none

/-- The tail of RLD and RST: SPACE G, bit 23 zero (R321). -/
def decHome (t : Nat) (k : HomeOp → Instr) : Option Instr :=
  match Scope.ofCode (fld 3 t 15) with
  | some sc =>
    keep (fld 3 t 12 == 0 && !bitAt t 23)
      (k { offset := fld 24 t 24, z := fld 3 t 20, order := Ord.ofCode (fld 2 t 18), scope := sc, base := fA t,
           d := fD t })
  | none => none

/-- The C tail of AMO, CAS and AMAXRS with its OP field (R316). -/
def decAtom (t : Nat) (k : BitVec 4 → AtomOp → Option Instr) : Option Instr :=
  match Space.ofCode (fld 3 t 24), Scope.ofCode (fld 3 t 27) with
  | some sp, some sc =>
    k (fld 4 t 36)
      { off8 := fld 8 t 40, ty := Ty.ofCode (fld 4 t 32), order := Ord.ofCode (fld 2 t 30), scope := sc,
        space := sp, d := fD t, a := fA t, b := fB t, c := fC t }
  | _, _ => none

/-- The C tail of the vector instructions (R344). -/
def decV (t : Nat) (k : VOp → Instr) : Option Instr :=
  keep (!bitAt t 47 && !bitAt t 31)
    (k { imm8 := fld 8 t 39, flag := bitAt t 38, aux := fld 4 t 34, rm := Rm.ofCode (fld 2 t 32),
         mask := fld 3 t 28, ty := Ty.ofCode (fld 4 t 24), d := fD t, a := fA t, b := fB t, c := fC t })

/-- The C tail of the strided and indexed forms (R355). -/
def decVM (t : Nat) (k : VMemOp → Instr) : Option Instr :=
  match Space.ofCode (fld 3 t 42), Scope.ofCode (fld 3 t 39) with
  | some sp, some sc =>
    keep (fld 3 t 45 == 0 && !bitAt t 38 && fld 2 t 34 == 0 && !bitAt t 31 && fC t == 0)
      (k { space := sp, scope := sc, sc := fld 2 t 36, order := Ord.ofCode (fld 2 t 32), mask := fld 3 t 28,
           ty := Ty.ofCode (fld 4 t 24), d := fD t, a := fA t, b := fB t })
  | _, _ => none

/-- The E tail of ENQ and ENQM (R373). -/
def decE (t : Nat) (k : EnqOp → Option Instr) : Option Instr :=
  match Space.ofCode (fld 3 t 21), Queue.ofCode (fld 3 t 18) with
  | some sp, some q => k { offset := fld 24 t 40, space := sp, queue := q, base := fA t }
  | _, _ => none

/-- Tail lengths of class 000 by opcode bits 5:0; none where the map has a dash (R269, R274). -/
def tailLen0 (op : Nat) : Option Nat :=
  match op with
  | 32 | 33 | 34 | 35 | 36 | 37 | 49 | 50 => some 1
  | 0 | 1 | 2 | 3 | 4 | 5 | 6 | 8 | 9 | 10 | 11 | 16 | 17 | 18 | 20 | 21 | 22 | 23 | 24 | 25 | 26
  | 27 | 40 | 41 | 48 => some 2
  | _ => none

/-- The instruction of class 000 whose opcode bits 5:0 are `op`, read from its tail (R274). -/
def decode0 (op : Nat) (g : Guard) (t : Nat) : Option Instr :=
  match op with
  | 0 => keep (fFB t == 0) (.add g (fD t) (fA t) (fB t))
  | 1 => keep (fFB t == 0) (.sub g (fD t) (fA t) (fB t))
  | 2 => keep (fFB t == 0) (.and g (fD t) (fA t) (fB t))
  | 3 => keep (fFB t == 0) (.or g (fD t) (fA t) (fB t))
  | 4 => keep (fFB t == 0) (.xor g (fD t) (fA t) (fB t))
  | 5 => keep (fFB t == 0) (.andn g (fD t) (fA t) (fB t))
  | 6 => keep (fFB t == 0) (.orn g (fD t) (fA t) (fB t))
  | 8 => keep (fFB t == 0) (.shl g (fD t) (fA t) (fB t))
  | 9 => keep (fFB t == 0) (.shr g (fD t) (fA t) (fB t))
  | 10 => keep (fFB t == 0) (.sra g (fD t) (fA t) (fB t))
  | 11 => keep (fFB t == 0) (.rol g (fD t) (fA t) (fB t))
  | 16 => keep (fFB t == 0) (.mul g (fD t) (fA t) (fB t))
  | 17 => keep (fFB t == 0) (.mulh g (fD t) (fA t) (fB t))
  | 18 => keep (fFB t == 0) (.mulhz g (fD t) (fA t) (fB t))
  | 20 => keep (fFB t == 0) (.div g (fD t) (fA t) (fB t))
  | 21 => keep (fFB t == 0) (.divz g (fD t) (fA t) (fB t))
  | 22 => keep (fFB t == 0) (.rem g (fD t) (fA t) (fB t))
  | 23 => keep (fFB t == 0) (.remz g (fD t) (fA t) (fB t))
  | 24 => keep (fFB t == 0) (.min g (fD t) (fA t) (fB t))
  | 25 => keep (fFB t == 0) (.max g (fD t) (fA t) (fB t))
  | 26 => keep (fFB t == 0) (.minz g (fD t) (fA t) (fB t))
  | 27 => keep (fFB t == 0) (.maxz g (fD t) (fA t) (fB t))
  | 32 => keep (fFA t == 0) (.clz g (fD t) (fA t))
  | 33 => keep (fFA t == 0) (.ctz g (fD t) (fA t))
  | 34 => keep (fFA t == 0) (.popc g (fD t) (fA t))
  | 35 => keep (fFA t == 0) (.brev g (fD t) (fA t))
  | 36 => some (.sext g (Ty.ofCode (fFA t)) (fD t) (fA t))
  | 37 => some (.zext g (Ty.ofCode (fFA t)) (fD t) (fA t))
  | 40 =>
    (Cond.ofCode (fld 4 t 18)).bind fun c => keep (fld 6 t 26 == 0)
      (.cmp g c (Ty.ofCode (fld 4 t 22)) (fD t) (fA t) (fB t))
  | 41 => keep (fld 10 t 22 == 0) (.sel g ⟨bitAt t 21, fld 3 t 18⟩ (fD t) (fA t) (fB t))
  | 48 => keep (fld 10 t 22 == 0) (.plog g (fld 4 t 18) (fD t) (fA t) (fB t))
  | 49 => keep (fFA t == 0 && fA t == 0) (.pget g (fD t))
  | 50 => keep (fFA t == 0 && fD t == 0) (.pset g (fA t))
  | _ => none

/-- Tail lengths of class 001 by opcode bits 5:0; none where the map has a dash (R269, R274). -/
def tailLen1 (op : Nat) : Option Nat :=
  match op with
  | 21 | 26 => some 1
  | 0 | 1 | 2 | 3 | 4 | 5 | 6 | 8 | 9 | 11 | 12 | 13 | 16 | 17 | 18 | 20 | 22 | 23 | 24
  | 25 => some 2
  | 19 => some 3
  | 10 => some 5
  | _ => none

/-- The instruction of class 001 whose opcode bits 5:0 are `op`, read from its tail (R274). -/
def decode1 (op : Nat) (g : Guard) (t : Nat) : Option Instr :=
  match op with
  | 0 => some (.addi g (fD t) (fA t) (fImm t))
  | 1 => some (.andi g (fD t) (fA t) (fImm t))
  | 2 => some (.ori g (fD t) (fA t) (fImm t))
  | 3 => some (.xori g (fD t) (fA t) (fImm t))
  | 4 => some (.shli g (fD t) (fA t) (fImm t))
  | 5 => some (.shri g (fD t) (fA t) (fImm t))
  | 6 => some (.srai g (fD t) (fA t) (fImm t))
  | 8 => (Cond.ofCode (fld 4 (t / 8 % 8) 0)).bind fun c => some (.cmpi g c (fld 3 t 0) (fA t) (fImm t))
  | 9 => (Cond.ofCode (fld 4 (8 + t / 8 % 8) 0)).bind fun c => some (.cmpiHi g c (fld 3 t 0) (fA t) (fImm t))
  | 10 => keep (fld 10 t 6 == 0) (.movi g (fD t) (fld 64 t 16))
  | 11 => keep (!bitAt t 11) (.addpc g (fD t) (fld 5 t 6) (fImm t))
  | 12 => keep (fFB t == 0) (.clmul g (fD t) (fA t) (fB t))
  | 13 => keep (fFB t == 0) (.clmulh g (fD t) (fA t) (fB t))
  | 16 =>
    keep (fld 4 t 18 == 0 && fld 4 t 28 == 0)
      (.fadd g (Ty.ofCode (fld 4 t 22)) (Rm.ofCode (fld 2 t 26)) (fD t) (fA t) (fB t))
  | 17 =>
    keep (fld 4 t 18 == 0 && fld 4 t 28 == 0)
      (.fsub g (Ty.ofCode (fld 4 t 22)) (Rm.ofCode (fld 2 t 26)) (fD t) (fA t) (fB t))
  | 18 =>
    keep (fld 4 t 18 == 0 && fld 4 t 28 == 0)
      (.fmul g (Ty.ofCode (fld 4 t 22)) (Rm.ofCode (fld 2 t 26)) (fD t) (fA t) (fB t))
  | 20 =>
    keep (fld 4 t 18 == 0 && fld 4 t 28 == 0)
      (.fdiv g (Ty.ofCode (fld 4 t 22)) (Rm.ofCode (fld 2 t 26)) (fD t) (fA t) (fB t))
  | 19 =>
    keep (fld 4 t 24 == 0 && fld 14 t 34 == 0)
      (.fma g (Ty.ofCode (fld 4 t 28)) (Rm.ofCode (fld 2 t 32)) (fD t) (fA t) (fB t) (fC t))
  | 21 => keep (!bitAt t 15) (.fsqrt g (bitAt t 14) (Rm.ofCode (fld 2 t 12)) (fD t) (fA t))
  | 22 => keep (fld 4 t 18 == 0 && fld 6 t 26 == 0) (.fmin g (Ty.ofCode (fld 4 t 22)) (fD t) (fA t) (fB t))
  | 23 => keep (fld 4 t 18 == 0 && fld 6 t 26 == 0) (.fmax g (Ty.ofCode (fld 4 t 22)) (fD t) (fA t) (fB t))
  | 24 =>
    (Cond.ofCode (fld 4 t 18)).bind fun c => keep (fld 6 t 26 == 0)
      (.fcmp g c (Ty.ofCode (fld 4 t 22)) (fD t) (fA t) (fB t))
  | 25 =>
    keep (fld 4 t 18 == 0 && fB t == 0)
      (.fcvt g (Ty.ofCode (fld 4 t 22)) (Ty.ofCode (fld 4 t 28)) (Rm.ofCode (fld 2 t 26)) (fD t) (fA t))
  | 26 => keep (!bitAt t 15 && fld 2 t 12 == 0) (.fclass g (bitAt t 14) (fD t) (fA t))
  | _ => none

/-- Tail lengths of class 010 by opcode bits 5:0; none where the map has a dash (R269, R274). -/
def tailLen2 (op : Nat) : Option Nat :=
  match op with
  | 0 | 5 | 8 | 10 | 11 | 12 | 18 => some 0
  | 2 | 4 => some 1
  | 1 | 3 | 6 | 9 | 16 | 17 => some 2
  | _ => none

/-- The instruction of class 010 whose opcode bits 5:0 are `op`, read from its tail (R274). -/
def decode2 (op : Nat) (g : Guard) (t : Nat) : Option Instr :=
  match op with
  | 0 => some (.nop g)
  | 5 => some (.ret g)
  | 8 => some (.exit g)
  | 10 => some (.eret g)
  | 11 => some (.wfi g)
  | 12 => some (.halt g)
  | 18 => some (.ifence g)
  | 1 => some (.br g (fld 5 t 27) (fld 27 t 0))
  | 3 => some (.call g (fld 5 t 27) (fld 27 t 0))
  | 2 => keep (fFA t == 0 && fD t == 0) (.jmp g (fA t))
  | 4 => keep (fFA t == 0 && fD t == 0) (.calli g (fA t))
  | 6 => some (.loop g (fld 5 t 27) (fld 21 t 6) (fD t))
  | 9 => keep (fA t == 0 && fD t == 0) (.trap g (fImm t))
  | 16 => keep (fA t == 0 && fld 8 t 24 == 0) (.srd g (fD t) (fld 12 t 12))
  | 17 => keep (fD t == 0 && fld 8 t 24 == 0) (.swr g (fA t) (fld 12 t 12))
  | _ => none

/-- Tail lengths of class 011 by opcode bits 5:0; none where the map has a dash (R269, R274). -/
def tailLen3 (op : Nat) : Option Nat :=
  match op with
  | 27 => some 0
  | 24 | 25 | 26 => some 1
  | 0 | 1 | 2 | 3 | 8 | 9 | 10 | 11 | 12 | 4 | 5 | 16 | 17 | 18 | 32 | 33 | 34 => some 3
  | _ => none

/-- The instruction of class 011 whose opcode bits 5:0 are `op`, read from its tail (R274). -/
def decode3 (op : Nat) (g : Guard) (t : Nat) : Option Instr :=
  match op with
  | 0 => decM t fun o => some (.ld g o)
  | 1 => decM t fun o => some (.ldNc g o)
  | 2 => decM t fun o => some (.ldRo g o)
  | 3 => decM t fun o => some (.st g o)
  | 8 => decM t fun o => some (.ldfeFf g o)
  | 9 => decM t fun o => some (.ldfeFe g o)
  | 10 => decM t fun o => some (.stfeEf g o)
  | 11 => decM t fun o => some (.stfeSf g o)
  | 12 => decM t fun o => some (.stfeSe g o)
  | 4 => decHome t (.rld g)
  | 5 => decHome t (.rst g)
  | 16 => decAtom t fun op o => (AmoOp.ofCode op).bind fun f => some (.amo g f o)
  | 17 => decAtom t fun op o => keep (op == 0) (.cas g o)
  | 18 => decAtom t fun op o => keep (op == 0) (.amaxrs g o)
  | 24 =>
    (Scope.ofCode (fld 3 t 12)).bind fun sc => keep (!bitAt t 15 && fA t == 0 && fD t == 0) (.fenceAcq g sc)
  | 25 =>
    (Scope.ofCode (fld 3 t 12)).bind fun sc => keep (!bitAt t 15 && fA t == 0 && fD t == 0) (.fenceRel g sc)
  | 26 =>
    (Scope.ofCode (fld 3 t 12)).bind fun sc => keep (!bitAt t 15 && fA t == 0 && fD t == 0) (.fenceAr g sc)
  | 27 => some (.sfence g)
  | 32 =>
    (Space.ofCode (fld 3 t 12)).bind fun sp => keep (fld 9 t 15 == 0 && fD t == 0)
      (.pref g (fld 24 t 24) sp (fA t))
  | 33 =>
    (Space.ofCode (fld 3 t 12)).bind fun sp => keep (fld 9 t 15 == 0) (.cinv g (fld 24 t 24) sp (fA t) (fD t))
  | 34 =>
    (Space.ofCode (fld 3 t 12)).bind fun sp => keep (fld 9 t 15 == 0) (.cinvRo g (fld 24 t 24) sp (fA t) (fD t))
  | _ => none

/-- Tail lengths of class 100 by opcode bits 5:0; none where the map has a dash (R269, R274). -/
def tailLen4 (op : Nat) : Option Nat :=
  match op with
  | 25 | 26 => some 0
  | 1 | 3 | 4 | 5 | 6 | 7 => some 1
  | 0 | 2 | 9 | 10 | 19 | 24 => some 2
  | 8 | 16 | 17 | 18 => some 3
  | _ => none

/-- The instruction of class 100 whose opcode bits 5:0 are `op`, read from its tail (R274). -/
def decode4 (op : Nat) (g : Guard) (t : Nat) : Option Instr :=
  match op with
  | 0 => keep (fld 13 t 19 == 0 && fD t == 0) (.bara g (bitAt t 18) (fA t) (fB t))
  | 1 => keep (fld 3 t 13 == 0 && fD t == 0) (.barw g (bitAt t 12) (fA t))
  | 2 => keep (fld 12 t 20 == 0 && fD t == 0) (.bar g (bitAt t 18) (bitAt t 19) (fA t) (fB t))
  | 3 => keep (fld 3 t 13 == 0) (.evwait g (bitAt t 12) (fD t) (fA t))
  | 4 => keep (fld 3 t 13 == 0 && fD t == 0) (.evsig g (bitAt t 12) (fA t))
  | 5 => keep (fFA t == 0 && fD t == 0) (.mtxl g (fA t))
  | 6 => keep (fFA t == 0 && fD t == 0) (.mtxu g (fA t))
  | 7 => keep (!bitAt t 15 && fA t == 0 && fD t == 0) (.sstep g (fld 3 t 12))
  | 8 =>
    (Space.ofCode (fld 3 t 24)).bind fun sp => keep (fld 4 t 36 == 0 && fC t == 0 && fld 3 t 3 == 0 && (fld
      5 t 27 == 0 || fld 5 t 27 == 10)) (.waita g ⟨fld 8 t 40, Ty.ofCode (fld 4 t 32), fld 5 t 27 == 10, sp, fld 3 t 0, fA t, fB t⟩)
  | 9 => keep (!bitAt t 5) (.waitc g (bitAt t 4) (fld 4 t 0) (fA t) (fImm t))
  | 10 => keep (fld 2 t 4 == 0) (.cadd g (fld 4 t 0) (fA t) (fImm t))
  | 16 =>
    (Space.ofCode (fld 3 t 24)).bind fun sp => keep (fld 6 t 34 == 0 && fD t == 0)
      (.send g ⟨fld 8 t 40, bitAt t 33, fld 5 t 28, bitAt t 27, sp, fA t, fB t, fC t⟩)
  | 17 => keep (fld 19 t 29 == 0 && fC t == 0 && fD t == 0) (.sendp g (bitAt t 28) (fld 4 t 24) (fA t) (fB t))
  | 18 =>
    keep (fld 19 t 29 == 0 && fld 3 t 21 == 0 && fA t == 0 && fB t == 0)
      (.recvp g (bitAt t 28) (fld 4 t 24) (fD t) (fld 3 t 18))
  | 19 => keep (fld 17 t 15 == 0 && fD t == 0) (.post g (fld 2 t 12) (bitAt t 14) (fA t))
  | 24 => keep (fFB t == 0) (.harn g (fD t) (fA t) (fB t))
  | 25 => some (.detach g)
  | 26 => some (.rejoin g)
  | _ => none

/-- Tail lengths of class 101 by opcode bits 5:0; none where the map has a dash (R269, R274). -/
def tailLen5 (op : Nat) : Option Nat :=
  match op with
  | 0 | 1 | 2 | 3 | 4 | 5 | 6 | 8 | 9 | 10 | 11 | 12 | 13 | 16 | 17 | 18 | 24 | 25 | 26 | 27 | 28
  | 29 => some 3
  | _ => none

/-- The instruction of class 101 whose opcode bits 5:0 are `op`, read from its tail (R274). -/
def decode5 (op : Nat) (g : Guard) (t : Nat) : Option Instr :=
  match op with
  | 0 => decV t (.vadd g)
  | 1 => decV t (.vsub g)
  | 2 => decV t (.vmul g)
  | 3 => decV t (.vfma g)
  | 4 => decV t (.vmin g)
  | 5 => decV t (.vmax g)
  | 6 => decV t (.vabs g)
  | 8 => decV t (.vand g)
  | 9 => decV t (.vor g)
  | 10 => decV t (.vxor g)
  | 11 => decV t (.vshl g)
  | 12 => decV t (.vshr g)
  | 13 => decV t (.vsra g)
  | 16 => decV t (.vcmp g)
  | 17 => decV t (.vsel g)
  | 18 => decV t (.vcvt g)
  | 24 => decV t (.vrcp g)
  | 25 => decV t (.vrsq g)
  | 26 => decV t (.vexp2 g)
  | 27 => decV t (.vlog2 g)
  | 28 => decV t (.vclmul g)
  | 29 => decV t (.vpopc g)
  | _ => none

/-- Tail lengths of class 110 by opcode bits 5:0; none where the map has a dash (R269, R274). -/
def tailLen6 (op : Nat) : Option Nat :=
  match op with
  | 0 | 1 | 2 | 3 | 4 | 5 | 8 | 9 | 10 | 11 | 12 | 16 | 17 | 18 | 19 | 24 | 25 | 26 => some 3
  | _ => none

/-- The instruction of class 110 whose opcode bits 5:0 are `op`, read from its tail (R274). -/
def decode6 (op : Nat) (g : Guard) (t : Nat) : Option Instr :=
  match op with
  | 0 => decM t fun o => some (.vld g o)
  | 1 => decM t fun o => some (.vst g o)
  | 2 => decVM t (.vlds g)
  | 3 => decVM t (.vsts g)
  | 4 => decVM t (.vldg g)
  | 5 => decVM t (.vstg g)
  | 8 => decV t (.vbcast g)
  | 9 => decV t (.vperm g)
  | 10 => decV t (.vslide g)
  | 11 => decV t (.vcomp g)
  | 12 => decV t (.vexpd g)
  | 16 => decV t (.vred g)
  | 17 => decV t (.vscan g)
  | 18 => decV t (.vtopk g)
  | 19 => decV t (.vmovs g)
  | 24 => decV t (.mlog g)
  | 25 => decV t (.mget g)
  | 26 => decV t (.mset g)
  | _ => none

/-- Tail lengths of class 111 by opcode bits 5:0; none where the map has a dash (R269, R274). -/
def tailLen7 (op : Nat) : Option Nat :=
  match op with
  | 4 => some 0
  | 3 | 5 => some 1
  | 2 | 6 => some 2
  | 0 | 1 => some 4
  | _ => none

/-- The instruction of class 111 whose opcode bits 5:0 are `op`, read from its tail (R274). -/
def decode7 (op : Nat) (g : Guard) (t : Nat) : Option Instr :=
  match op with
  | 0 =>
    decE t fun o => keep (fld 15 t 25 == 0 && fB t == 0 && fld 3 t 3 == 0) (.enq g (bitAt t 24) (fld 3 t 0) o)
  | 1 => decE t fun o => keep (fld 16 t 24 == 0 && fD t == 0) (.enqm g (fB t) o)
  | 2 => keep (fld 10 t 22 == 0 && fA t == 0) (.deq g (bitAt t 21) (fld 3 t 18) (fD t) (fB t))
  | 3 => (Queue.ofCode (fld 3 t 12)).bind fun q => keep (!bitAt t 15 && fA t == 0) (.eqstat g q (fD t))
  | 4 => some (.rfence g)
  | 5 => keep (fld 3 t 13 == 0) (.qmov g (bitAt t 12) (fD t) (fA t))
  | 6 => keep (fld 13 t 19 == 0 && fB t == 0) (.mstat g (bitAt t 18) (fD t) (fA t))
  | _ => none

/-- The tail length of an opcode; none where the map assigns none (R269, R274, R277). -/
def tailLen (opc : Nat) : Option Nat :=
  match opc / 64 with
  | 0 => tailLen0 (opc % 64) | 1 => tailLen1 (opc % 64) | 2 => tailLen2 (opc % 64) | 3 => tailLen3 (opc % 64)
  | 4 => tailLen4 (opc % 64) | 5 => tailLen5 (opc % 64) | 6 => tailLen6 (opc % 64) | 7 => tailLen7 (opc % 64)
  | _ => none

/-- The fields of an assigned opcode's tail, before the checks of WellFormed. -/
def decodeTail (opc : Nat) (g : Guard) (t : Nat) : Option Instr :=
  match opc / 64 with
  | 0 => decode0 (opc % 64) g t | 1 => decode1 (opc % 64) g t | 2 => decode2 (opc % 64) g t
  | 3 => decode3 (opc % 64) g t | 4 => decode4 (opc % 64) g t | 5 => decode5 (opc % 64) g t
  | 6 => decode6 (opc % 64) g t | 7 => decode7 (opc % 64) g t
  | _ => none

/-- The guard of a head (R262, R263). -/
def headGuard (h : Nat) : Guard := ⟨bitAt h 3, fld 3 h 0⟩

/-- The opcode of a head (R262). -/
def headOpc (h : Nat) : Nat := h / 16 % 512

/-- The tail length of a head (R262). -/
def headTl (h : Nat) : Nat := h / 8192 % 8

/-- Steps 2 and 3 of R264: the instruction a head and its tail hold.  A head whose opcode is unassigned, or whose TL
is not its format's length, is the row UNASSIGNED_OPCODE (R277); any other refusal is by name. -/
def decode (h t : Nat) : Except Reject Instr :=
  if tailLen (headOpc h) = some (headTl h) then
    match decodeTail (headOpc h) (headGuard h) (t % 2 ^ (16 * headTl h)) with
    | some i => if i.wellFormed then .ok i else .error (.illegalField (headOpc h))
    | none => .error (.illegalField (headOpc h))
  else .ok (.unassignedOpcode (headGuard h) (fld 9 h 4) (fld 3 h 13))

/-- Halfword `j` of a line (R258). -/
def lineHalf (l : LineBits) (j : Nat) : Nat := l.toNat / 2 ^ (16 * j) % 65536

/-- N of the line header (R258). -/
def lineN (l : LineBits) : Nat := lineHalf l 0 % 32

/-- Sum of the tail lengths of heads 1 to `k` (R260). -/
def lineTl (l : LineBits) : Nat → Nat
  | 0 => 0
  | k + 1 => lineTl l k + headTl (lineHalf l (k + 1))

/-- The legality of a line (R259). -/
def lineLegal (l : LineBits) : Bool :=
  lineHalf l 0 / 32 == 0 && 1 ≤ lineN l && lineN l ≤ 30 && 1 + lineN l + lineTl l (lineN l) ≤ 32

/-- The tail of head `k` as one bit string (R260). -/
def lineTail (l : LineBits) (k : Nat) : Nat :=
  l.toNat / 2 ^ (16 * (32 - lineTl l k)) % 2 ^ (16 * headTl (lineHalf l k))

/-- The instruction at head `k` of a line. -/
def decodeAt (l : LineBits) (k : Nat) : Except Reject Instr := decode (lineHalf l k) (lineTail l k)

/-- The instruction the decoder reads from a head (bits 15:0) followed by its tail (the later words). -/
def decodeTableWord (_nbits w : Nat) : Option Instr :=
  match decode (w % 65536) (w / 65536) with
  | .ok i => some i
  | .error _ => none

/-- A line that holds one head and its tail, every other halfword zero (R258, R260). -/
def oneHeadLine (w : Nat) : LineBits :=
  BitVec.ofNat 512
    (1 + (w % 65536) * 2 ^ 16 +
      (w / 65536 % 2 ^ (16 * headTl (w % 65536))) * 2 ^ (16 * (32 - headTl (w % 65536))))

/-! The encoder, written from the same tables. -/

/-- Format A (R269). -/
def encA (f a d : Nat) : Nat := d + a * 2 ^ 6 + f * 2 ^ 12
/-- Format B. -/
def encB (f b a d : Nat) : Nat := d + a * 2 ^ 6 + b * 2 ^ 12 + f * 2 ^ 18
/-- Format I. -/
def encI (imm a d : Nat) : Nat := d + a * 2 ^ 6 + imm * 2 ^ 12
/-- Format J. -/
def encJ (h off : Nat) : Nat := off + h * 2 ^ 27
/-- Format K. -/
def encK (h off a : Nat) : Nat := a + off * 2 ^ 6 + h * 2 ^ 27
/-- Format C. -/
def encC (f c b a d : Nat) : Nat := d + a * 2 ^ 6 + b * 2 ^ 12 + c * 2 ^ 18 + f * 2 ^ 24
/-- Format M. -/
def encM (offset ty order scope space base d : Nat) : Nat :=
  d + base * 2 ^ 6 + space * 2 ^ 12 + scope * 2 ^ 15 + order * 2 ^ 18 + ty * 2 ^ 20 + offset * 2 ^ 24
/-- Format E. -/
def encE (offset f space queue b base d : Nat) : Nat :=
  d + base * 2 ^ 6 + b * 2 ^ 12 + queue * 2 ^ 18 + space * 2 ^ 21 + f * 2 ^ 24 + offset * 2 ^ 40
/-- Format W. -/
def encW (imm f d : Nat) : Nat := d + f * 2 ^ 6 + imm * 2 ^ 16

/-- A flag bit as a number. -/
def bit (b : Bool) : Nat := if b then 1 else 0

/-- The tail of an M access (R269). -/
def MemOp.tail (o : MemOp) : Nat :=
  encM o.offset.toNat o.ty.code.toNat o.order.code.toNat o.scope.code.toNat o.space.code.toNat o.base.toNat
    o.d.toNat

/-- The tail of RLD and RST (R321). -/
def HomeOp.tail (o : HomeOp) : Nat :=
  encM o.offset.toNat o.z.toNat o.order.code.toNat o.scope.code.toNat 0 o.base.toNat o.d.toNat

/-- The f field of the C-format memory forms (R316). -/
def encAtomF (off8 op ty order scope space : Nat) : Nat :=
  space + scope * 2 ^ 3 + order * 2 ^ 6 + ty * 2 ^ 8 + op * 2 ^ 12 + off8 * 2 ^ 16

/-- The tail of AMO, CAS and AMAXRS (R316, R325). -/
def AtomOp.tail (op : Nat) (o : AtomOp) : Nat :=
  encC (encAtomF o.off8.toNat op o.ty.code.toNat o.order.code.toNat o.scope.code.toNat o.space.code.toNat)
    o.c.toNat o.b.toNat o.a.toNat o.d.toNat

/-- The tail of WAITA: .acq is ORDER 1 with SCOPE 2 (R326). -/
def WaitaOp.tail (o : WaitaOp) : Nat :=
  encC (encAtomF o.off8.toNat 0 o.ty.code.toNat (bit o.acq) (2 * bit o.acq) o.space.code.toNat) 0 o.b.toNat
    o.a.toNat o.p.toNat

/-- The tail of SEND (R335). -/
def SendOp.tail (o : SendOp) : Nat :=
  encC (o.space.code.toNat + bit o.vec * 2 ^ 3 + o.len.toNat * 2 ^ 4 + bit o.rel * 2 ^ 9 + o.off8.toNat * 2 ^ 16)
    o.k.toNat o.b.toNat o.a.toNat 0

/-- The tail of a vector instruction (R344). -/
def VOp.tail (o : VOp) : Nat :=
  encC
    (o.ty.code.toNat + o.mask.toNat * 2 ^ 4 + o.rm.code.toNat * 2 ^ 8 + o.aux.toNat * 2 ^ 10 + bit o.flag * 2 ^ 14 +
      o.imm8.toNat * 2 ^ 15)
    o.c.toNat o.b.toNat o.a.toNat o.d.toNat

/-- The tail of the strided and indexed forms (R355). -/
def VMemOp.tail (o : VMemOp) : Nat :=
  encC
    (o.ty.code.toNat + o.mask.toNat * 2 ^ 4 + o.order.code.toNat * 2 ^ 8 + o.sc.toNat * 2 ^ 12 +
      o.scope.code.toNat * 2 ^ 15 + o.space.code.toNat * 2 ^ 18)
    0 o.b.toNat o.a.toNat o.d.toNat

/-- The tail of ENQ and ENQM (R373). -/
def EnqOp.tail (f b d : Nat) (o : EnqOp) : Nat :=
  encE o.offset.toNat f o.space.code.toNat o.queue.code.toNat b o.base.toNat d

/-- The typed f field of B-format scalar instructions and of FMA (R291). -/
def encTyped (cond ty rm sty : Nat) : Nat := cond + ty * 2 ^ 4 + rm * 2 ^ 8 + sty * 2 ^ 10

/-- The guard bits of a head (R262). -/
def Guard.code (g : Guard) : Nat := g.pred.toNat + bit g.neg * 8

/-- A head: TL, opcode and guard (R262). -/
def encHead (opc tl : Nat) (g : Guard) : Nat := g.code + opc * 16 + tl * 8192

/-- The head and the tail of an instruction; none for the steps that no head encodes. -/
def encode : Instr → Option (Nat × Nat)
  | .add g d a b => some (encHead 0x000 2 g, encB 0 b.toNat a.toNat d.toNat)
  | .sub g d a b => some (encHead 0x001 2 g, encB 0 b.toNat a.toNat d.toNat)
  | .and g d a b => some (encHead 0x002 2 g, encB 0 b.toNat a.toNat d.toNat)
  | .or g d a b => some (encHead 0x003 2 g, encB 0 b.toNat a.toNat d.toNat)
  | .xor g d a b => some (encHead 0x004 2 g, encB 0 b.toNat a.toNat d.toNat)
  | .andn g d a b => some (encHead 0x005 2 g, encB 0 b.toNat a.toNat d.toNat)
  | .orn g d a b => some (encHead 0x006 2 g, encB 0 b.toNat a.toNat d.toNat)
  | .shl g d a b => some (encHead 0x008 2 g, encB 0 b.toNat a.toNat d.toNat)
  | .shr g d a b => some (encHead 0x009 2 g, encB 0 b.toNat a.toNat d.toNat)
  | .sra g d a b => some (encHead 0x00A 2 g, encB 0 b.toNat a.toNat d.toNat)
  | .rol g d a b => some (encHead 0x00B 2 g, encB 0 b.toNat a.toNat d.toNat)
  | .mul g d a b => some (encHead 0x010 2 g, encB 0 b.toNat a.toNat d.toNat)
  | .mulh g d a b => some (encHead 0x011 2 g, encB 0 b.toNat a.toNat d.toNat)
  | .mulhz g d a b => some (encHead 0x012 2 g, encB 0 b.toNat a.toNat d.toNat)
  | .div g d a b => some (encHead 0x014 2 g, encB 0 b.toNat a.toNat d.toNat)
  | .divz g d a b => some (encHead 0x015 2 g, encB 0 b.toNat a.toNat d.toNat)
  | .rem g d a b => some (encHead 0x016 2 g, encB 0 b.toNat a.toNat d.toNat)
  | .remz g d a b => some (encHead 0x017 2 g, encB 0 b.toNat a.toNat d.toNat)
  | .min g d a b => some (encHead 0x018 2 g, encB 0 b.toNat a.toNat d.toNat)
  | .max g d a b => some (encHead 0x019 2 g, encB 0 b.toNat a.toNat d.toNat)
  | .minz g d a b => some (encHead 0x01A 2 g, encB 0 b.toNat a.toNat d.toNat)
  | .maxz g d a b => some (encHead 0x01B 2 g, encB 0 b.toNat a.toNat d.toNat)
  | .clz g d a => some (encHead 0x020 1 g, encA 0 a.toNat d.toNat)
  | .ctz g d a => some (encHead 0x021 1 g, encA 0 a.toNat d.toNat)
  | .popc g d a => some (encHead 0x022 1 g, encA 0 a.toNat d.toNat)
  | .brev g d a => some (encHead 0x023 1 g, encA 0 a.toNat d.toNat)
  | .sext g t d a => some (encHead 0x024 1 g, encA t.code.toNat a.toNat d.toNat)
  | .zext g t d a => some (encHead 0x025 1 g, encA t.code.toNat a.toNat d.toNat)
  | .cmp g c t d a b =>
    some (encHead 0x028 2 g, encB (encTyped c.code.toNat t.code.toNat 0 0) b.toNat a.toNat d.toNat)
  | .sel g q d a b => some (encHead 0x029 2 g, encB (q.pred.toNat + bit q.neg * 8) b.toNat a.toNat d.toNat)
  | .plog g tt d a b => some (encHead 0x030 2 g, encB tt.toNat b.toNat a.toNat d.toNat)
  | .pget g d => some (encHead 0x031 1 g, encA 0 0 d.toNat)
  | .pset g a => some (encHead 0x032 1 g, encA 0 a.toNat 0)
  | .addi g d a imm => some (encHead 0x040 2 g, encI imm.toNat a.toNat d.toNat)
  | .andi g d a imm => some (encHead 0x041 2 g, encI imm.toNat a.toNat d.toNat)
  | .ori g d a imm => some (encHead 0x042 2 g, encI imm.toNat a.toNat d.toNat)
  | .xori g d a imm => some (encHead 0x043 2 g, encI imm.toNat a.toNat d.toNat)
  | .shli g d a imm => some (encHead 0x044 2 g, encI imm.toNat a.toNat d.toNat)
  | .shri g d a imm => some (encHead 0x045 2 g, encI imm.toNat a.toNat d.toNat)
  | .srai g d a imm => some (encHead 0x046 2 g, encI imm.toNat a.toNat d.toNat)
  | .cmpi g c p a imm => some (encHead 0x048 2 g, encI imm.toNat a.toNat (p.toNat + c.code.toNat % 8 * 8))
  | .cmpiHi g c p a imm => some (encHead 0x049 2 g, encI imm.toNat a.toNat (p.toNat + c.code.toNat % 8 * 8))
  | .movi g d imm => some (encHead 0x04A 5 g, encW imm.toNat 0 d.toNat)
  | .addpc g d h imm => some (encHead 0x04B 2 g, encI imm.toNat h.toNat d.toNat)
  | .clmul g d a b => some (encHead 0x04C 2 g, encB 0 b.toNat a.toNat d.toNat)
  | .clmulh g d a b => some (encHead 0x04D 2 g, encB 0 b.toNat a.toNat d.toNat)
  | .fadd g t rm d a b =>
    some (encHead 0x050 2 g, encB (encTyped 0 t.code.toNat rm.code.toNat 0) b.toNat a.toNat d.toNat)
  | .fsub g t rm d a b =>
    some (encHead 0x051 2 g, encB (encTyped 0 t.code.toNat rm.code.toNat 0) b.toNat a.toNat d.toNat)
  | .fmul g t rm d a b =>
    some (encHead 0x052 2 g, encB (encTyped 0 t.code.toNat rm.code.toNat 0) b.toNat a.toNat d.toNat)
  | .fdiv g t rm d a b =>
    some (encHead 0x054 2 g, encB (encTyped 0 t.code.toNat rm.code.toNat 0) b.toNat a.toNat d.toNat)
  | .fma g t rm d a b c =>
    some (encHead 0x053 3 g, encC (encTyped 0 t.code.toNat rm.code.toNat 0) c.toNat b.toNat a.toNat d.toNat)
  | .fsqrt g w rm d a => some (encHead 0x055 1 g, encA (rm.code.toNat + bit w * 4) a.toNat d.toNat)
  | .fmin g t d a b => some (encHead 0x056 2 g, encB (encTyped 0 t.code.toNat 0 0) b.toNat a.toNat d.toNat)
  | .fmax g t d a b => some (encHead 0x057 2 g, encB (encTyped 0 t.code.toNat 0 0) b.toNat a.toNat d.toNat)
  | .fcmp g c t d a b =>
    some (encHead 0x058 2 g, encB (encTyped c.code.toNat t.code.toNat 0 0) b.toNat a.toNat d.toNat)
  | .fcvt g dt sty rm d a =>
    some (encHead 0x059 2 g, encB (encTyped 0 dt.code.toNat rm.code.toNat sty.code.toNat) 0 a.toNat d.toNat)
  | .fclass g w d a => some (encHead 0x05A 1 g, encA (bit w * 4) a.toNat d.toNat)
  | .nop g => some (encHead 0x080 0 g, 0)
  | .ret g => some (encHead 0x085 0 g, 0)
  | .exit g => some (encHead 0x088 0 g, 0)
  | .eret g => some (encHead 0x08A 0 g, 0)
  | .wfi g => some (encHead 0x08B 0 g, 0)
  | .halt g => some (encHead 0x08C 0 g, 0)
  | .ifence g => some (encHead 0x092 0 g, 0)
  | .sfence g => some (encHead 0x0DB 0 g, 0)
  | .detach g => some (encHead 0x119 0 g, 0)
  | .rejoin g => some (encHead 0x11A 0 g, 0)
  | .rfence g => some (encHead 0x1C4 0 g, 0)
  | .br g h off => some (encHead 0x081 2 g, encJ h.toNat off.toNat)
  | .call g h off => some (encHead 0x083 2 g, encJ h.toNat off.toNat)
  | .jmp g a => some (encHead 0x082 1 g, encA 0 a.toNat 0)
  | .calli g a => some (encHead 0x084 1 g, encA 0 a.toNat 0)
  | .loop g h off a => some (encHead 0x086 2 g, encK h.toNat off.toNat a.toNat)
  | .trap g imm => some (encHead 0x089 2 g, encI imm.toNat 0 0)
  | .srd g d idx => some (encHead 0x090 2 g, encI idx.toNat 0 d.toNat)
  | .swr g a idx => some (encHead 0x091 2 g, encI idx.toNat a.toNat 0)
  | .ld g o => some (encHead 0x0C0 3 g, o.tail)
  | .ldNc g o => some (encHead 0x0C1 3 g, o.tail)
  | .ldRo g o => some (encHead 0x0C2 3 g, o.tail)
  | .st g o => some (encHead 0x0C3 3 g, o.tail)
  | .ldfeFf g o => some (encHead 0x0C8 3 g, o.tail)
  | .ldfeFe g o => some (encHead 0x0C9 3 g, o.tail)
  | .stfeEf g o => some (encHead 0x0CA 3 g, o.tail)
  | .stfeSf g o => some (encHead 0x0CB 3 g, o.tail)
  | .stfeSe g o => some (encHead 0x0CC 3 g, o.tail)
  | .rld g o => some (encHead 0x0C4 3 g, o.tail)
  | .rst g o => some (encHead 0x0C5 3 g, o.tail)
  | .vld g o => some (encHead 0x180 3 g, o.tail)
  | .vst g o => some (encHead 0x181 3 g, o.tail)
  | .amo g op o => some (encHead 0x0D0 3 g, o.tail op.code.toNat)
  | .cas g o => some (encHead 0x0D1 3 g, o.tail 0)
  | .amaxrs g o => some (encHead 0x0D2 3 g, o.tail 0)
  | .fenceAcq g sc => some (encHead 0x0D8 1 g, encA sc.code.toNat 0 0)
  | .fenceRel g sc => some (encHead 0x0D9 1 g, encA sc.code.toNat 0 0)
  | .fenceAr g sc => some (encHead 0x0DA 1 g, encA sc.code.toNat 0 0)
  | .pref g offset sp base => some (encHead 0x0E0 3 g, encM offset.toNat 0 0 0 sp.code.toNat base.toNat 0)
  | .cinv g offset sp base d => some (encHead 0x0E1 3 g, encM offset.toNat 0 0 0 sp.code.toNat base.toNat d.toNat)
  | .cinvRo g offset sp base d => some (encHead 0x0E2 3 g, encM offset.toNat 0 0 0 sp.code.toNat base.toNat d.toNat)
  | .bara g rel a b => some (encHead 0x100 2 g, encB (bit rel) b.toNat a.toNat 0)
  | .barw g acq a => some (encHead 0x101 1 g, encA (bit acq) a.toNat 0)
  | .bar g rel acq a b => some (encHead 0x102 2 g, encB (bit rel + bit acq * 2) b.toNat a.toNat 0)
  | .evwait g acq d a => some (encHead 0x103 1 g, encA (bit acq) a.toNat d.toNat)
  | .evsig g rel a => some (encHead 0x104 1 g, encA (bit rel) a.toNat 0)
  | .mtxl g a => some (encHead 0x105 1 g, encA 0 a.toNat 0)
  | .mtxu g a => some (encHead 0x106 1 g, encA 0 a.toNat 0)
  | .sstep g l => some (encHead 0x107 1 g, encA l.toNat 0 0)
  | .waita g o => some (encHead 0x108 3 g, o.tail)
  | .waitc g acq k a imm => some (encHead 0x109 2 g, encI imm.toNat a.toNat (k.toNat + bit acq * 16))
  | .cadd g k a imm => some (encHead 0x10A 2 g, encI imm.toNat a.toNat k.toNat)
  | .send g o => some (encHead 0x110 3 g, o.tail)
  | .sendp g rel pipe a b => some (encHead 0x111 3 g, encC (pipe.toNat + bit rel * 16) 0 b.toNat a.toNat 0)
  | .recvp g acq pipe d p => some (encHead 0x112 3 g, encC (pipe.toNat + bit acq * 16) p.toNat 0 0 d.toNat)
  | .post g role rel a => some (encHead 0x113 2 g, encI (role.toNat + bit rel * 4) a.toNat 0)
  | .harn g d a b => some (encHead 0x118 2 g, encB 0 b.toNat a.toNat d.toNat)
  | .vadd g o => some (encHead 0x140 3 g, o.tail)
  | .vsub g o => some (encHead 0x141 3 g, o.tail)
  | .vmul g o => some (encHead 0x142 3 g, o.tail)
  | .vfma g o => some (encHead 0x143 3 g, o.tail)
  | .vmin g o => some (encHead 0x144 3 g, o.tail)
  | .vmax g o => some (encHead 0x145 3 g, o.tail)
  | .vabs g o => some (encHead 0x146 3 g, o.tail)
  | .vand g o => some (encHead 0x148 3 g, o.tail)
  | .vor g o => some (encHead 0x149 3 g, o.tail)
  | .vxor g o => some (encHead 0x14A 3 g, o.tail)
  | .vshl g o => some (encHead 0x14B 3 g, o.tail)
  | .vshr g o => some (encHead 0x14C 3 g, o.tail)
  | .vsra g o => some (encHead 0x14D 3 g, o.tail)
  | .vcmp g o => some (encHead 0x150 3 g, o.tail)
  | .vsel g o => some (encHead 0x151 3 g, o.tail)
  | .vcvt g o => some (encHead 0x152 3 g, o.tail)
  | .vrcp g o => some (encHead 0x158 3 g, o.tail)
  | .vrsq g o => some (encHead 0x159 3 g, o.tail)
  | .vexp2 g o => some (encHead 0x15A 3 g, o.tail)
  | .vlog2 g o => some (encHead 0x15B 3 g, o.tail)
  | .vclmul g o => some (encHead 0x15C 3 g, o.tail)
  | .vpopc g o => some (encHead 0x15D 3 g, o.tail)
  | .vbcast g o => some (encHead 0x188 3 g, o.tail)
  | .vperm g o => some (encHead 0x189 3 g, o.tail)
  | .vslide g o => some (encHead 0x18A 3 g, o.tail)
  | .vcomp g o => some (encHead 0x18B 3 g, o.tail)
  | .vexpd g o => some (encHead 0x18C 3 g, o.tail)
  | .vred g o => some (encHead 0x190 3 g, o.tail)
  | .vscan g o => some (encHead 0x191 3 g, o.tail)
  | .vtopk g o => some (encHead 0x192 3 g, o.tail)
  | .vmovs g o => some (encHead 0x193 3 g, o.tail)
  | .mlog g o => some (encHead 0x198 3 g, o.tail)
  | .mget g o => some (encHead 0x199 3 g, o.tail)
  | .mset g o => some (encHead 0x19A 3 g, o.tail)
  | .vlds g o => some (encHead 0x182 3 g, o.tail)
  | .vsts g o => some (encHead 0x183 3 g, o.tail)
  | .vldg g o => some (encHead 0x184 3 g, o.tail)
  | .vstg g o => some (encHead 0x185 3 g, o.tail)
  | .enq g tr p o => some (encHead 0x1C0 4 g, o.tail (bit tr) 0 p.toNat)
  | .enqm g b o => some (encHead 0x1C1 4 g, o.tail 0 b.toNat 0)
  | .deq g tr p d b => some (encHead 0x1C2 2 g, encB (p.toNat + bit tr * 8) b.toNat 0 d.toNat)
  | .eqstat g q d => some (encHead 0x1C3 1 g, encA q.code.toNat 0 d.toNat)
  | .qmov g dir d a => some (encHead 0x1C5 1 g, encA (bit dir) a.toNat d.toNat)
  | .mstat g w d a => some (encHead 0x1C6 2 g, encB (bit w) 0 a.toNat d.toNat)
  | .unassignedOpcode g opc tl => some (encHead opc.toNat tl.toNat g, 0)
  | .lsplitWrite .. | .bfmtWrite .. | .mthrWrite .. | .tlbinv .. | .regionTableWrite ..
  | .routeTableWrite .. | .sysregWrite .. | .mzero .. | .mldb .. | .mmul .. | .mepi .. | .miter ..
  | .miterPhase .. | .mrel .. | .mspill .. | .mfill .. | .copy .. | .fill .. | .pack .. | .unpack ..
  | .gather .. | .scatter .. | .fetchr .. | .fetchrUnitArrival .. | .fetchrReadTimeout .. | .vdec ..
  | .rsz .. | .bufferedLinePerform .. | .feRequestReissue .. | .postedStoreAck .. | .postedStoreRefusal ..
  | .xAccessArrival .. | .messageArrival .. | .foreignAtomic .. | .pageWalk .. | .parityDeltaApply ..
  | .deltaRetire .. | .remoteArrival .. | .remoteEvsig .. | .eventMessageReissue .. | .hobble ..
  | .claimAt .. | .releaseAt .. | .reserve .. | .hobbleRetryExpiry .. | .ageLimitExpiry .. | .taskIssue ..
  | .gangIssue .. | .balanceExchange .. | .preemptRequest .. | .taskSuspend .. | .taskResume ..
  | .taskRetire .. | .controlNodeEval .. | .gridEnd .. | .graphCompletionRecord ..
  | .completionCountReread .. | .hostRmaWrite .. | .hostRmaRead .. | .mailboxPageVisit .. | .mailboxNop ..
  | .regspace .. | .regwin .. | .unregwin .. | .submit .. | .graphHandoverTimeout .. | .launch ..
  | .release .. | .responseWrite .. | .flitReceive .. | .flitResendTimeout .. | .trainingFlit ..
  | .linkTraining .. | .linkRetrainTimer .. | .laneFailure .. | .memberLost .. | .stripeRebuild ..
  | .telemetryUpdate .. | .smbusBlockRead .. | .smbusOtherCommand .. | .clockStep .. | .unsupportedPacket ..
  | .hostAcknowledgement .. | .softError .. | .powerFailure .. | .asyncTrap | .rasSpill | .rasFill
  | .cimParityScrub | .bufferLineTimeout | .harnessForward | .moduleReset | .reportRequestPoll
  | .firmwareUpdate | .routeRecompute | .thermalReset => none

/-- The head and tail as one number, numbered as the opcode table numbers them. -/
def encodeWord (i : Instr) : Option Nat := (encode i).map fun p => p.1 + p.2 * 65536

end Sys2Proof
end

