-- ==== Sys2Proof/Machine/EngineState.lean ====
section
/-! DEFINITION. The state of a core's engines (05, 06, 07, 18): accumulator and compute-in-memory slots, handles,
queues of command records, the result queue and the shape-record cache. -/

namespace Sys2Proof.Machine

/-- State of a handle (R85). -/
inductive HState where
  | bound (slot : Nat)
  | spilled
deriving DecidableEq, Repr

/-- A held accumulator slot (R85): owner tag, overflow count (R77), FP32 elements by 128 i + j (unlisted +0.0) and the
words with a double-bit error (R94). -/
structure AccSlot where
  owner : Nat
  ovf   : Nat
  data  : List (Nat × BitVec 32)
  bad   : List Nat
deriving DecidableEq, Repr

/-- A loaded compute-in-memory slot (R82): owner tag, plane (0 whole tile, 1 high, 2 low), bad mark, the scale of its
source, the aligned integers by 128 k + j and the block exponents by 4 j + g (unlisted 0); `hurt` the rows whose
parity fails and which the read-back has not met yet (R94). -/
structure BSlot where
  owner : Nat
  plane : Nat
  bad   : Bool
  hurt  : List Nat
  scale : BitVec 8
  data  : List (Nat × BitVec 8)
  exps  : List (Nat × BitVec 8)
deriving DecidableEq, Repr

/-- Loop state of a MITER (R110); a SLOT field is 0xFF where unbound. -/
structure LoopState where
  phase : Nat
  iter  : Nat
  cnt   : Nat
  res   : BitVec 32
  hx    : Nat
  hw    : Nat
  hs    : Nat
  bp    : Nat
  slotx : Nat
  slotw : Nat
  slots : Nat
  slotb : Nat
deriving DecidableEq, Repr

/-- A unit of a FETCHR still to arrive (R135): its number, the physical address it goes to, the protected bit. -/
structure FetchUnit where
  unit : Nat
  pa   : Nat
  prot : Bool
deriving DecidableEq, Repr

/-- A queued or running command (R89, R118): its record, the pushing task's CTXID, whether it was pushed in handler mode,
whether it has begun, a MITER's loop state and a FETCHR's units, the number of the core's posted stores issued before it
(R121, R216), and for bytes of scratchpads that the core has stored to since its push the values that it may still take,
newest first (R91). -/
structure Cmd where
  record : LineBits
  ctx   : Nat
  handler : Bool
  begun : Bool
  loop  : Option LoopState
  units : List FetchUnit
  after : Nat
  missed : List (Nat × List Byte)
deriving DecidableEq, Repr

/-- A completion element (R370). -/
structure Elem where
  lo : Word
  hi : Word
deriving DecidableEq, Repr

/-- A cached shape record (R60): its space code, its address, its 192 bytes. -/
structure ShapeLine where
  space : Nat
  addr  : Nat
  data  : List Byte
deriving DecidableEq, Repr

/-- The engines of one core. -/
structure Engine where
  /-- bound and spilled handles of the current context; an unlisted handle is unbound -/
  handles : List (Nat × HState)
  /-- held accumulator slots; an unlisted slot is free -/
  acc     : List (Nat × AccSlot)
  /-- loaded compute-in-memory slots; an unlisted slot is empty -/
  bslots  : List (Nat × BSlot)
  /-- B slots of the current context that are spilled (R95) -/
  bspilled : List Nat
  /-- the matrix and copy queues, first to run first -/
  mat     : List Cmd
  cpy     : List Cmd
  /-- a grid-ending status has stopped the queue (R90, R120) -/
  matStop : Bool
  cpyStop : Bool
  /-- the result queue: held elements, oldest first, and reserved places (R372) -/
  held     : List Elem
  reserved : Nat
  /-- the shape-record cache, most recent first (R60) -/
  shapes  : List ShapeLine
deriving DecidableEq, Repr

/-- Empty engines: every slot free, every queue empty. -/
def Engine.reset : Engine := ⟨[], [], [], [], [], [], false, false, [], 0, []⟩

end Sys2Proof.Machine
end

