-- ==== Sys2Proof/Machine/CoreState.lean ====
section
/-! DEFINITION. The state of one core (02, 03, 11, 12, 13, 15, 22): registers, modes, the coalescing buffer, caches,
TLB, journal, waits, task and harness membership. -/

namespace Sys2Proof.Machine

/-- Task mode or handler mode (R308). -/
inductive Mode where
  | task | handler
deriving DecidableEq, Repr

/-- What a core does between instructions: held in reset (R479), without a task, running, clock-gated by WFI, or
stopped by HALT (R311). -/
inductive Run where
  | held | idle | running | gated | halted
deriving DecidableEq, Repr

/-- The register files of R30.  A register not listed holds zero. -/
structure Regs where
  s : List (Nat × Word)
  v : List (Nat × VWord)
  m : List (Nat × MWord)
  p : BitVec 8
  k : List (Nat × BitVec 32)
  q : List (Nat × BitVec 32)
deriving DecidableEq, Repr

/-- Graph and node number. -/
abbrev NodeKey := Nat × Nat

/-- A kernel header (R142, R422): scope 1 cluster, 2 die, 3 package. -/
structure Header where
  entry   : Word
  sregs   : Nat
  vregs   : Nat
  accs    : Nat
  bars    : Nat
  scratch : Nat
  pipes   : Nat
  radius  : Nat
  space   : Option Nat
  scope   : Nat
  prio    : Nat
deriving DecidableEq, Repr

/-- The task on a core (R143, R444): `id` is its key in the dispatcher's tasks; `role` is 0 for a kernel node and
1 to 3 for the loader, computer and storer of a gang (R155). -/
structure TaskCtx where
  id     : Nat
  taskid : Word
  elemid : Word
  graph  : Nat
  node   : Nat
  role   : Nat
  ctxid  : Nat
  hdr    : Header
deriving DecidableEq, Repr

/-- A line of the coalescing buffer (R50): its global physical line address, the bytes its mask holds by offset, and
the protected bit of its page (R251). -/
structure BufLine where
  line : Nat
  data : List (Nat × Byte)
  prot : Bool
deriving DecidableEq, Repr

/-- A line of the first-level data cache (R48, R53): `owner` is the owner's core index in the cluster. -/
structure CLine where
  line  : Nat
  ro    : Bool
  owner : Nat
  data  : LineBits
deriving DecidableEq, Repr

/-- A leaf of the page tables as a TLB entry holds it (R465, R471): the root it was read under, the page's base
address, its SIZE, its physical base and its bits. -/
structure Leaf where
  root : Nat
  base : Nat
  size : Nat
  pa   : Nat
  r : Bool
  w : Bool
  x : Bool
  k : Bool
  pr : Bool
  f : Bool
  hs : Bool
deriving DecidableEq, Repr

/-- Bytes of a posted store for one scratchpad (core number and L offset) or one storage window (window and offset). -/
structure Part where
  unit : Nat
  off  : Nat
  data : List Byte
deriving DecidableEq, Repr

/-- What a posted-store journal entry carries (R42, R243, R244, R336, R338, R470). -/
inductive Posted where
  /-- a buffered line homed in another package -/
  | line (l : BufLine)
  /-- an X store: package, bytes for scratchpads; a vector store is one entry (R358) -/
  | xstore (pkg : Nat) (parts : List Part)
  /-- an RST: global physical address -/
  | rst (pa : Nat) (data : List Byte) (prot : Bool)
  /-- a store to storage windows -/
  | foreign (parts : List Part)
  /-- a SEND: package, core number, L offset, counter -/
  | send (pkg core off counter : Nat) (data : List Byte)
  /-- a pipe message: package, core number, pipe number, receiving task -/
  | pipe (pkg core pipe task : Nat) (data : List Byte)
deriving DecidableEq, Repr

/-- What has become of a posted store (R244, R245). -/
inductive PostState where
  | pending
  | performed
  | refused (status : Nat) (info : Word)
deriving DecidableEq, Repr

/-- A journal entry: its index (R244), its number in the order of issue, its content, its issuer's node (R459), the lines
already answered with their status, 0 where performed (R243), the numbers of its protected writes (R253), and the parts
that are under way as link packets with the link that took them: a line, or 0 for a whole store (R240, R247). -/
structure JEntry where
  idx  : Nat
  num  : Nat
  what : Posted
  st   : PostState
  node : Option NodeKey
  lines  : List (Nat × Nat)
  writes : List Nat
  sent   : List (Nat × Nat)
deriving DecidableEq, Repr

/-- A trap: TRAPCAUSE's fields and TRAPINFO (R450, R451). -/
structure Trap where
  status : Nat
  source : Nat := 0
  queue  : Nat := 0
  elem   : Nat := 0
  info   : Word := 0
deriving DecidableEq, Repr

/-- Whether the trap that has reached the core is the refusal of this entry, which it frees when it is taken (R245). -/
def JEntry.heldBy (e : JEntry) (t : Option Trap) : Bool :=
  match e.st, t with
  | .refused status info, some t => t.source == 2 && t.status == status && t.info == info
  | _, _ => false

/-- What a changer answers to a foreign atomic (R200): the old word, or the status of its fault. -/
inductive ChangerAnswer where
  | word (old : Nat)
  | fault (status : Nat)
deriving DecidableEq, Repr

/-- The operations performed as one action at a home (R198). -/
inductive AtomicOp where
  | amo (op : AmoOp)
  | cas
  | amaxrs
deriving DecidableEq, Repr

/-- A foreign atomic on its way to the changers (R200): window, offset, the page's HS bit, the operation, its type, the
operand and the comparand. -/
structure ForeignReq where
  win : Nat
  off : Nat
  hs  : Bool
  op  : AtomicOp
  ty  : Ty
  v   : Nat
  cmp : Nat
deriving DecidableEq, Repr

/-- What a clock-gated instruction waits for, with what has been granted to it (R193, R195, R188, R189, R38, R230,
R223, R200). -/
inductive Wait where
  | none
  /-- a full-empty request in a list, or the word it was granted -/
  | fe (granted : Option Word)
  /-- a full-empty request that its home refused when it came to perform it (R10, R476) -/
  | failed (status : Nat)
  /-- parked in WAITA -/
  | watch (woken : Bool)
  /-- MTXL behind a holder -/
  | mutex (granted : Bool)
  /-- EVWAIT on a line, or the count it was granted -/
  | event (granted : Option Nat)
  /-- the arrival of a BAR or HARN is counted, its wait goes on -/
  | arrived
  /-- the barrier of a HARN has fired: the value of its destination, and where the core goes on once a dissolved harness has
  left forwarded instructions that it has not executed (R223, R231) -/
  | harn (dest : Word) (next : Option Word)
  /-- an SSTEP whose arrival is counted -/
  | sstep
  /-- an EXIT that waits for the conditions of R154 -/
  | exit
  /-- a REJOIN at the address -/
  | rejoin (addr : Word) (released : Bool)
  /-- an ENQ or ENQM whose release is performed, with the records it has read -/
  | push (recs : List LineBits)
  /-- a foreign atomic at the changer, with its outcome: the old word or a fault status -/
  | foreign (r : ForeignReq) (answer : Option ChangerAnswer)
deriving DecidableEq, Repr

/-- An instruction that the leader has issued, as it travels the forwarding network (R225): its address, the entered
line, the instruction, the address the leader executes next (R228), and whether it is a DETACH of the leader (R229). -/
structure Forwarded where
  addr : Word
  line : Option (Word × LineBits)
  ins  : Instr
  next : Word
  det  : Bool
deriving DecidableEq, Repr

/-- What of a core has begun and waits for a page walk (R472): nothing, the fetch of its next instruction, an access of the
instruction at its PC. -/
inductive Due where
  | no
  | fetch
  | access
deriving DecidableEq, Repr

/-- Membership of a harness (R223): an `attached` follower takes from `buf`; `fly` holds what the leader issued and has
not reached the buffer; `last` that a DETACH of the leader is under way to it, after which nothing is forwarded; `issued`
that the leader has forwarded the instruction at its PC; `start` the address after the leader's HARN. -/
structure Member where
  harness  : Nat
  rank     : Nat
  attached : Bool
  buf      : List Forwarded
  fly      : List Forwarded
  last     : Bool
  issued   : Bool
  start    : Word
deriving DecidableEq, Repr

/-- A message spilled for a suspended task (R459): offset, counter, pipe (255 none), payload. -/
structure SpillMsg where
  off     : Nat
  counter : Nat
  pipe    : Nat
  data    : List Byte
deriving DecidableEq, Repr

/-- An entry of the forwarding table (R454, R459): the suspended task, its node, the core it resumed on. -/
structure FwdEntry where
  task  : Nat
  node  : NodeKey
  core  : Option Nat
  spill : List SpillMsg
deriving DecidableEq, Repr

/-- A load that has issued and is performed later (R209): the instruction, its address and line, the registers it issued with,
and those that it would have left had it been performed then. -/
structure LateLoad where
  ins   : Instr
  pc    : Word
  fline : Option (Word × LineBits)
  regs  : Regs
  got   : Regs
deriving DecidableEq, Repr

/-- One core. -/
structure Core where
  run    : Run
  /-- takes tasks: false after a handler fault (R452) -/
  service : Bool
  mode   : Mode
  pc     : Word
  /-- the line entered (its address and bytes), none where the next head's line must be entered (R259, R266) -/
  fline  : Option (Word × LineBits)
  regs   : Regs
  /-- LSPLIT.SPBANKS (R26) -/
  spbanks : Nat
  /-- VGRP (R53) -/
  vgrpFirst : Nat
  vgrpSize  : Nat
  /-- BFMT0 to BFMT13, bits 15:0 (R54) -/
  bfmt    : List (Nat × BitVec 16)
  /-- BARBASE.BASE (R182) -/
  barbase : Nat
  domreg  : Word
  mthr    : Word
  rasbase : Word
  trapCause : Word
  trapPc    : Word
  trapInfo  : Word
  ptroot0 : Word
  ptroot1 : Word
  task    : Option TaskCtx
  /-- depth D of the return-address store, and its newest entries, newest first (R305) -/
  rasD   : Nat
  ras    : List Word
  /-- Join of each barrier name (R184) -/
  join   : List (Nat × BitVec 16)
  eng    : Engine
  /-- the coalescing buffer, oldest first, and the lines that left it and are not yet performed (R50, R203) -/
  sbuf   : List BufLine
  sfly   : List BufLine
  /-- cached lines, most recent first (R48, R53) -/
  dcache : List CLine
  icache : List (Nat × LineBits)
  tlb    : List Leaf
  journal : List JEntry
  /-- posted stores issued so far (the model's own: it numbers them in the order of issue) -/
  posts   : Nat
  /-- protected writes not yet acknowledged (R254) -/
  prot    : Nat
  wait    : Wait
  /-- loads that have issued and are not performed (R209) -/
  loads   : List LateLoad
  asyncTrap : Option Trap
  laterTraps : Nat
  /-- the grid of the task has ended by a trap taken here, so that further causes are only counted (R446) -/
  trapped : Bool
  /-- parity groups in which a delta of one of its protected writes was dropped, the holder being lost (R257) -/
  dropped : List Nat
  /-- messages for the core's service endpoint, SVC 1, not yet taken (R239, R311) -/
  svc     : Nat
  preempt : Bool
  /-- what has begun and waits for its page walk, so that it completes before the core is pre-empted (R472) -/
  due     : Due
  /-- the stop of a grid that has ended has reached the core (R446) -/
  stopped : Bool
  member  : Option Member
  fwd     : List FwdEntry
deriving DecidableEq, Repr

/-- The register files at a task's first instruction, and the DESIGN CHOICE at reset (R30; log 5). -/
def Regs.zero : Regs := ⟨[], [], [], 0, [], []⟩

/-- Cluster that DOMREG of a core number gives (R19, R36): a purser reports the first cluster of its quadrant (R20), a
changer and the assay core the first of their die (log 21). -/
def clusterAt (n : Nat) : Nat :=
  if n < 1536 then n / 48 else if n < 1552 then 2 * (n - 1536) else if n < 1556 then 8 * (n - 1552) else 0

/-- DOMREG of a core at its place (R36): quadrant q is clusters 2q and 2q + 1, die d clusters 8d to 8d + 7 (R19). -/
def domregAt (part pkg n : Nat) : Word :=
  BitVec.ofNat 64
    (part % 4096 * 2 ^ 52 + pkg % 4096 * 2 ^ 40 + clusterAt n / 8 * 2 ^ 14 + clusterAt n / 2 * 2 ^ 10 +
      clusterAt n * 2 ^ 5)

/-- Whether the posted stores of a core that it issued before a command are performed (R121, R216). -/
def Core.performedTo (c : Core) (after : Nat) : Bool := c.journal.all fun e => after ≤ e.num || e.st == .performed

/-- Core number of a key of State's cores (R20). -/
def coreNo (n : Nat) : Nat := n % 2048

/-- Package of a key of State's cores. -/
def corePkg (n : Nat) : Nat := n / 2048

/-- Key of the cluster a compute core belongs to: 32 a package (R19). -/
def coreCluster (n : Nat) : Nat := corePkg n * 32 + coreNo n / 48

/-- Core index in the cluster (R19). -/
def coreIndex (n : Nat) : Nat := coreNo n % 48

/-- Key of the die a core belongs to: 4 a package (R20). -/
def coreDie (n : Nat) : Nat :=
  corePkg n * 4 +
    (if coreNo n < 1536 then coreNo n / 384
     else if coreNo n < 1552 then (coreNo n - 1536) / 4
     else if coreNo n < 1556 then coreNo n - 1552
     else 0)

/-- World of a core: the assay core is secure (R474). -/
def coreWorld (n : Nat) : Bool := coreNo n == 1556

/-- A core after reset (R479 step 1: every core but the assay core of CD0 is held; registers: log 5). -/
def Core.reset (n : Nat) : Core where
  run := if coreNo n = 1556 then .running else .held
  service := true
  mode := .handler
  pc := Config.handlerEntry 0
  fline := none
  regs := .zero
  spbanks := 14
  vgrpFirst := coreIndex n
  vgrpSize := 1
  bfmt := []
  barbase := 0
  domreg := domregAt 0 (corePkg n) (coreNo n)
  mthr := 0x0000_FFFF_FFFF_FFFF
  rasbase := 0
  trapCause := 0
  trapPc := 0
  trapInfo := 0
  ptroot0 := 0
  ptroot1 := 0
  task := none
  rasD := 0
  ras := []
  join := []
  eng := .reset
  sbuf := []
  sfly := []
  dcache := []
  icache := []
  tlb := []
  journal := []
  posts := 0
  prot := 0
  wait := .none
  loads := []
  asyncTrap := none
  laterTraps := 0
  trapped := false
  dropped := []
  svc := 0
  preempt := false
  due := .no
  stopped := false
  member := none
  fwd := []

end Sys2Proof.Machine
end

