-- ==== Sys2Proof/Machine/ClusterState.lean ====
section
/-! DEFINITION. The state of a cluster's event unit and TLB, of the lists kept at the homes, and of a die's media
engine (07, 09, 10, 13, 18, 23, 25). -/

namespace Sys2Proof.Machine

/-- A barrier entry (R184). -/
structure BarEntry where
  arr : Nat
  exp : Nat
  gen : BitVec 16
deriving DecidableEq, Repr

/-- An event message (R187): the sending core, then a remote arrival for a node or a remote EVSIG. -/
inductive EventMsg where
  | arrival (core : Nat) (node : NodeKey) (name count : Nat) (addr : Word)
  | evsig (core line : Nat)
deriving DecidableEq, Repr

/-- An arrival that a HARN made in the current generation of an entry (R223): the entry, the core, its task, and the address
at which execution goes on after the HARN (R231). -/
structure HarnArrival where
  entry : Nat
  core  : Nat
  task  : Option Nat
  next  : Word
deriving DecidableEq, Repr

/-- The event unit and the TLB of a cluster. -/
structure Cluster where
  /-- windows in use and their nodes (R181) -/
  windows : List (Nat × NodeKey)
  /-- barrier entries, unlisted ARR 0, EXP 0, GEN 0 -/
  entries : List (Nat × BarEntry)
  /-- arrivals by HARN -/
  harns   : List HarnArrival
  /-- held mutexes and the CTXID of the holder (R188) -/
  mutexes : List (Nat × Nat)
  /-- waiting MTXLs, in arrival order: mutex, core -/
  mutexWait : List (Nat × Nat)
  /-- pending counts of the event lines (R189) -/
  events : List (Nat × Nat)
  /-- waiting EVWAITs, in arrival order: line, core -/
  eventWait : List (Nat × Nat)
  /-- messages under way, waiting at the event unit for a window, and refused (R187) -/
  fly     : List EventMsg
  waiting : List EventMsg
  refused : List EventMsg
  /-- the cluster TLB, most recent first (R471) -/
  tlb : List Leaf
deriving DecidableEq, Repr

/-- An event unit after reset: every entry, mutex and line free. -/
def Cluster.reset : Cluster := ⟨[], [], [], [], [], [], [], [], [], [], []⟩

/-- Form of a full-empty access (R192). -/
inductive FeForm where
  | ff | fe | ef | sf | se
deriving DecidableEq, Repr

/-- A page walk that waits or runs (R472): the cluster whose misses it serves (none for a media engine), the root, the
world, the 4 KiB unit, the cores whose accesses it answers, and the status of its fault once it has faulted. -/
structure Walk where
  cluster : Option Nat
  root    : Nat
  secure  : Bool
  unit    : Nat
  cores   : List Nat
  fault   : Option Nat
deriving DecidableEq, Repr

/-- A waiting full-empty request (R193): the core, the word's global physical address, the form, the data and the
protected bit of its page; `nack` marks a request refused for a full list, until its interface reissues it; `node` is the
issuer's node where the request is an X access of a task, which its target admits only for that node (R459). -/
structure FeReq where
  core : Nat
  word : Nat
  form : FeForm
  data : Word
  prot : Bool
  nack : Bool
  node : Option NodeKey
deriving DecidableEq, Repr

/-- An entry of a home slice's reservation table (R169): slice (256 a package), index, task (which holds the stamp and the
bound element), and the global physical address of the claim word that names it. -/
structure Resv where
  slice : Nat
  idx   : Nat
  task  : Nat
  word  : Nat
deriving DecidableEq, Repr

/-- A parity delta (R253, R255): the write it belongs to, the package id and the slice of its home, the core that counts
it, the holder's line (global physical line address) and the bytes to XOR; `applied` deltas stay as the holder's log until
retired. -/
structure Delta where
  write   : Nat
  home    : Nat
  slice   : Nat
  core    : Option Nat
  line    : Nat
  bits    : LineBits
  applied : Bool
deriving DecidableEq, Repr

/-- A command of the media queue (R136): its record, the pushing core and context, whether it was pushed in handler
mode, the number of the core's posted stores issued before it (R216). -/
structure MedCmd where
  record : LineBits
  core   : Nat
  ctx    : Nat
  handler : Bool
  after  : Nat
deriving DecidableEq, Repr

/-- An open decoder context (R392): codec, the bytes consumed since it opened, pictures decoded and not yet written,
the number of the next picture, the sequence's depth and size, and whether a unit has been corrupt (R138). -/
structure Decoder where
  codec   : Nat
  bytes   : List Byte
  pending : List Nat
  next    : Nat
  ten     : Bool
  width   : Nat
  height  : Nat
  corrupt : Bool
deriving DecidableEq, Repr

/-- A record of the refusal log (R477): address, endpoint, kind of access. -/
structure Refused where
  addr : Nat
  endpoint : Nat
  kind : Nat
deriving DecidableEq, Repr

/-- What a die holds beside its slices. -/
structure Die where
  /-- the media queue, the contexts whose commands no longer execute (R371), the cores whose pushes wait, in order
  (R376) -/
  med     : List MedCmd
  medStop : List Nat
  medWait : List Nat
  decoders : List (Nat × Decoder)
  tlb     : List Leaf
  /-- walks in order of their arrival: the first 64 run, the others wait (R472) -/
  walks   : List Walk
  log     : List Refused
  logMore : Nat
  /-- clock step 0 to 8 (R501) -/
  clock   : Nat
  /-- the junction temperature measured last, in degrees Celsius (R501) -/
  junction : Nat
deriving DecidableEq, Repr

/-- A die after reset. -/
def Die.reset : Die := ⟨[], [], [], [], [], [], [], 0, 0, 0⟩

end Sys2Proof.Machine
end

