-- ==== Sys2Proof/Machine/TaskState.lean ====
section
/-! DEFINITION. The state of graphs, launches, tasks, pipes, harnesses and requests (08, 09, 12, 21). -/

namespace Sys2Proof.Machine

/-- A pipe of a gang (R156, R423): message bytes, sending and receiving member, scratchpad ring entries and L offset,
overflow ring entries. -/
structure PipeDesc where
  num  : Nat
  size : Nat
  src  : Nat
  dst  : Nat
  ring : Nat
  at_  : Nat
  ovr : Nat
deriving DecidableEq, Repr

/-- Kind of a node with the fields its record gives (R147, R424, R425). -/
inductive NodeKind where
  | kernel (hdr : Header) (first count : Nat)
  | cond (word : Word)
  | switch (word : Word) (n : Nat)
  | loop (word : Word) (bfirst blast cap : Nat)
  | gang (hdrs : List Header) (counts : List Nat) (pipes : List PipeDesc)
deriving DecidableEq, Repr

/-- A node of a held graph: kind, edges (target, label), age limit, overflow tasks. -/
structure Node where
  kind  : NodeKind
  edges : List (Nat × Nat)
  age   : Nat
  ovfl  : Nat
deriving DecidableEq, Repr

/-- Progress of a node in a launch (R148, R149, R441). -/
inductive NodeRun where
  | idle | ready | running | done | skipped | faulted
deriving DecidableEq, Repr

/-- A node in a launch: progress, first fault status and TRAPINFO (R447), loop passes, the labels whose edges it has
taken once done, the next TASKID of each member (R143), an exclusive task's stop (R172), the cores that ran a task of
it (R154). -/
structure NodeSt where
  run    : NodeRun
  status : Nat
  info   : Word
  passes : Nat
  taken  : List Nat
  nextId : List (Nat × Nat)
  stopFor : Option Nat
  ran    : List Nat
deriving DecidableEq, Repr

/-- A node no launch has reached. -/
def NodeSt.idle : NodeSt := ⟨.idle, 0, 0, 0, [], [], none, []⟩

/-- How far a launch has come: begun, before its first node is ready (R473); running; or ended, with the CYCLES of its record
formed (R153, R440). -/
inductive LaunchEnd where
  | starting
  | running
  | formed (cycles : Nat)
deriving DecidableEq, Repr

/-- A launch under way. -/
structure Launch where
  num    : Nat
  nodes  : List (Nat × NodeSt)
  tasks  : Nat
  start  : Nat
  stage  : LaunchEnd
  faulted : Bool
deriving DecidableEq, Repr

/-- A held graph (R438, R440); its key holds its package and number, `opening` says in which opening of its page the SUBMIT
was taken.  `nextLaunch` is the number of the next launch to
begin, `pending` counts the launches queued and not begun, `full` that the purser has found the completion ring full,
`acks` holds the launches whose records are written and not acknowledged by the host: number and STATUS. -/
structure Graph where
  num    : Nat
  pkgs   : List Nat
  nodes  : List Node
  craddr : Nat
  crn    : Nat
  nsaddr : Nat
  crcaddr : Nat
  page   : Nat
  opening : Nat
  tag    : Word
  nextLaunch : Nat
  pending : Nat
  launch : Option Launch
  full   : Bool
  acks   : List (Nat × Nat)
deriving DecidableEq, Repr

/-- Where a task stands between its queueing and its retirement (R170 to R175, R454 to R461). -/
inductive TaskPhase where
  /-- in its ready queue -/
  | queued
  /-- reserving: elements left (R173) -/
  | reserving (left : List Nat)
  /-- hobbling: elements left to claim (R170) -/
  | hobbling (left : List Nat)
  /-- releasing its claims after a refusal, newest first; then waiting out 128 cycles (R171) -/
  | releasing
  | waiting
  /-- every claim granted -/
  | granted
  /-- exclusive (R172) -/
  | exclusive
  | issued (core : Nat)
  /-- suspended: the core left, the image; `arrived` that the instruction at its PC has had its first part performed
  and only its wait is reissued (R341) -/
  | suspended (core image : Nat) (arrived : Bool)
deriving DecidableEq, Repr

/-- A task (R143, R169): `cluster` is the key of the cluster whose slice holds it, `claims` the elements it has
claimed with the global physical addresses of their words, newest first, `old` whether it reserves (R173), `issues` the
order of its issue, `over` whether it stands in the node's overflow area (R151), `member` a suspended task's membership
of a harness (R233), `harn` the destination of its withdrawn HARN, whose barrier has fired (R223, R224), `dropped` the
parity groups of R257 that its core noted, `image` its context image while it holds one (R454). -/
structure Task where
  graph  : Nat
  node   : Nat
  role   : Nat
  hdr    : Header
  taskid : Nat
  elem   : Option Nat
  stamp  : Nat
  cluster : Nat
  phase  : TaskPhase
  claims : List (Nat × Nat)
  old    : Bool
  ctxid  : Nat
  issues : Nat
  excl   : Bool
  ovr   : Bool
  member : Option Member
  harn   : Option Word
  dropped : List Nat
  image  : Option Nat
deriving DecidableEq, Repr

/-- A pipe ring of one receiving task (R156): the position of the oldest message in the scratchpad ring, the number
held there, the overflow ring's messages, and the senders' messages under way. -/
structure PipeRing where
  task : Nat
  pipe : Nat
  head : Nat
  count : Nat
  ovr : List (List Byte)
  fly  : Nat
deriving DecidableEq, Repr

/-- A harness (R223, R233): its members' cores by rank, and those that have exited. -/
structure Harness where
  cores  : List Nat
  exited : List Nat
deriving DecidableEq, Repr

/-- An arrival of an SSTEP (R38): task, level, and whether the phase has ended for it. -/
structure StepArrival where
  task  : Nat
  level : Nat
  done  : Bool
deriving DecidableEq, Repr

/-- A graph descriptor (R438). -/
structure Desc where
  graph  : Nat
  nnodes : Nat
  nedges : Nat
  nodes  : Nat
  edges  : Nat
  craddr : Nat
  crn    : Nat
  npkg   : Nat
  zero   : Nat
  pkgs   : Nat
  nsaddr : Nat
  crcaddr : Nat
deriving DecidableEq, Repr

/-- A node record with the headers it names, loader first in a gang (R424, R422). -/
structure NodeRec where
  bytes   : List Byte
  headers : List (List Byte)
deriving DecidableEq, Repr

/-- Everything that SUBMIT reads after the descriptor (R437 step 2). -/
structure GraphObj where
  desc  : Desc
  nodes : List NodeRec
  edges : List Nat
  pkgs  : List Nat
deriving DecidableEq, Repr

/-- What a purser has read when it takes a request (R436, R437 step 2): nothing, where the request names no object; an
object that cannot be read; a record; a descriptor with a field out of range; a graph. -/
inductive ReqObj where
  | nothing
  | unreadable
  | record (bs : List Byte)
  | badDesc
  | graph (g : GraphObj)
deriving DecidableEq, Repr

/-- A taken request (R434). -/
structure Request where
  op  : Nat
  seq : Nat
  tag : Word
  args : List Word
  bad : Bool
  obj : ReqObj
deriving DecidableEq, Repr

/-- A response to be written (R435). -/
structure Response where
  tag : Word
  seq : Nat
  op  : Nat
  status : Nat
  value  : Nat
deriving DecidableEq, Repr

/-- A mailbox page as its purser sees it (R432 to R435): requests taken, responses produced and written, the request
being served, responses still to write, and how often the page has opened. -/
structure Page where
  isOpen  : Bool
  ver     : Nat
  rspaddr : Nat
  taken   : Nat
  current : Option Request
  queue   : List Response
  written : Nat
  opens   : Nat
deriving DecidableEq, Repr

/-- A closed page. -/
def Page.closed : Page := ⟨false, 0, 0, 0, none, [], 0, 0⟩

/-- A registered element space (R160). -/
structure ElemSpace where
  nelem : Nat
  offs  : Nat
  nbrs  : Nat
  claim : Nat
  graph : Nat
deriving DecidableEq, Repr

/-- A registered storage window (R439). -/
structure StorageWin where
  port : Nat
  mode : Nat
  job  : Nat
  peer : List Byte
  ri   : Nat
  mkey : Nat
  base : Nat
  len  : Nat
deriving DecidableEq, Repr

end Sys2Proof.Machine
end

