-- ==== Sys2Proof/Machine/PackageState.lean ====
section
/-! DEFINITION. The state of a package: boot, flash and fuses, mailbox pages, ports, storage windows, element spaces,
links, parity group, telemetry (13, 21, 24, 25). -/

namespace Sys2Proof.Machine

/-- A part of a posted store as a link packet (R240): the issuing core, the store's number in its order of issue, the part
(a line, or 0 for a whole store), and its home: package id and slice. -/
structure Packet where
  core : Nat
  num  : Nat
  part : Nat
  home : Nat × Nat
deriving DecidableEq, Repr

/-- A flit (R246, R247): KIND, SEQ, ACK, header-slot bytes 2 to 31 and the data bytes as numbers, and the posted store that
they carry, where they carry one (log 23). -/
structure Flit where
  kind : Nat
  seq  : Nat
  ack  : Nat
  hdr  : Nat
  data : Nat
  packet : Option Packet
deriving DecidableEq, Repr

/-- State of a link (R248). -/
inductive LinkUp where
  | out
  | healthy
  | erased (lane : Nat)
deriving DecidableEq, Repr

/-- How far a training has come (R486, R487). -/
inductive Training where
  | none
  /-- exchanging training flits at 106.25 Gb/s -/
  | exchange
  /-- test flits at the final rate: flits received so far -/
  | test (flits : Nat)
deriving DecidableEq, Repr

/-- One link: state, generation, partner (package, link) as its training flits name it, whether the partner has seen
ours and we theirs, symbol errors of each lane in the test flits of a training, flits received since the link entered
service and the places among them of each lane's newest symbol errors (R488), the sequence numbers to send and
to receive next, flits not acknowledged, flits arriving, packets delivered in order, counters of R496. -/
structure Link where
  up      : LinkUp
  gen     : Nat
  partner : Option (Nat × Nat)
  heard   : Bool
  seen    : Bool
  training : Training
  laneErr : List (Nat × Nat)
  flits   : Nat
  errAt   : List (Nat × List Nat)
  txSeq   : Nat
  rxSeq   : Nat
  unacked : List Flit
  arriving : List Flit
  delivered : List Flit
  prbs    : Nat
  retrain : Nat
  symErr  : Nat
  resent  : Nat
  laneFail : Nat
deriving DecidableEq, Repr

/-- A link after reset: out of service, untrained. -/
def Link.reset : Link :=
  ⟨.out, 0, none, false, false, .none, [], 0, [], 0, 0, [], [], [], 2 ^ 31 - 1, 0, 0, 0, 0⟩

/-- A parity group record (R492), with the ranks lost, those of them that the spare has taken over (R493), and the stripe
being rebuilt (R494). -/
structure ParityGroup where
  group : Nat
  m     : Nat
  state : Nat
  flags : Nat
  spare : Nat
  base  : Nat
  size  : Nat
  ranks : List Nat
  lost  : List Nat
  adopted : List Nat
  busy  : Option Nat
deriving DecidableEq, Repr

/-- A protected write deferred while its stripe is rebuilt (R494): the writing core, whose buffer or journal holds it until
it is performed, and the line's bytes. -/
structure Deferred where
  core : Option Nat
  line : Nat
  data : List (Nat × Byte)
deriving DecidableEq, Repr

/-- Counters of the telemetry block (R495). -/
structure Counters where
  cimpar : Nat
  accce  : Nat
  accue  : Nat
  memce  : Nat
  memue  : Nat
  dropped : Nat
  extra  : Nat
  hfault : Nat
deriving DecidableEq, Repr

/-- One package. -/
structure Package where
  /-- the package id it answers to (R36, R493) -/
  id      : Nat
  /-- boot status word fields (R499) -/
  step    : Nat
  svn     : Nat
  slot    : Nat
  faila   : Nat
  failb   : Nat
  /-- the package cycle counter less the turns taken by the machine, modulo 2^64 (R169, R491; log 7) -/
  cycles  : Nat
  /-- boot flash and fuses (R481, R482): unlisted flash bytes are zero -/
  flash   : List (Nat × Byte)
  revoked : List Nat
  minSvn  : Nat
  /-- digests of the components of the running image and its configuration component (R484) -/
  digests : List (List Byte)
  config  : List Byte
  /-- the components loaded at boot step 3: KIND and bytes (R479; where in memory they lie: log 24) -/
  loaded  : List (Nat × List Byte)
  /-- the device identity key pair of this boot: seed and public key (R483) -/
  idSeed  : List Byte
  idKey   : List Byte
  /-- sequence numbers last served (R484, R502) -/
  lastReq : Nat
  lastUpd : Nat
  /-- mailbox bytes and pages (R432) -/
  mail    : List (Nat × Byte)
  pages   : List (Nat × Page)
  /-- modes of ports 0 to 5 that are 1 (R428) -/
  mode1   : List Nat
  /-- power cap in watts (R500) -/
  cap     : Nat
  /-- the telemetry update in progress: the lines of its body that are still to be written (R498) -/
  update  : Option (List (Nat × List (Nat × Byte)))
  windows : List (Nat × StorageWin)
  spaces  : List (Nat × ElemSpace)
  links   : List (Nat × Link)
  parity  : Option ParityGroup
  joined  : Bool
  deferred : List Deferred
  /-- free images of the context pool are those not listed (R454) -/
  images  : List Nat
  ctxids  : List Nat
  counters : Counters
  /-- the last host RMA read's answer and the last management bus answer (outputs): none a refusal or
  not-acknowledge -/
  readOut : Option (List Byte)
  busOut  : Option (List Byte)
  /-- the sequence number to be performed next on each connection of host RMA whose writes are performed in order (R431) -/
  rod     : List (Nat × Nat)
  /-- acknowledgements sent for host RMA writes (R431) -/
  ackOut  : Nat
  /-- error responses sent to unsupported or refused packets (R429, R430) -/
  errorOut : Nat
deriving DecidableEq, Repr

/-- Counters at reset. -/
def Counters.zero : Counters := ⟨0, 0, 0, 0, 0, 0, 0, 0⟩

/-- A package after reset (R479 step 1). -/
def Package.reset (n : Nat) : Package where
  id := n
  step := 0
  svn := 0
  slot := 0
  faila := 0
  failb := 0
  cycles := 0
  flash := []
  revoked := []
  minSvn := 0
  digests := []
  config := []
  loaded := []
  idSeed := []
  idKey := []
  lastReq := 0
  lastUpd := 0
  mail := []
  pages := []
  mode1 := []
  cap := 2400
  update := none
  windows := []
  spaces := []
  links := []
  parity := none
  joined := false
  deferred := []
  images := []
  ctxids := []
  counters := .zero
  readOut := none
  busOut := none
  rod := []
  ackOut := 0
  errorOut := 0

end Sys2Proof.Machine
end

