-- ==== Sys2Proof/Machine/State.lean ====
section
/-! DEFINITION. The machine's state, its faults and refusals, and the state right after reset. -/

namespace Sys2Proof.Machine

/-- One turn of the schedule (R24, R206: the order in which agents move is not fixed, so it is data): a core goes on,
or a step of another agent happens, with `core` as the current core. -/
inductive Turn where
  | core (n : Nat)
  | event (n : Nat) (i : Instr)
  /-- a core goes on, and a page walk that its access needs takes its time (R472; log 1) -/
  | late (n : Nat)
  /-- a core issues its next instruction, and if it is a load, leaves it to be performed later (R209; log 2) -/
  | defer (n : Nat)
  /-- a load that has issued is performed (R209) -/
  | load (n i : Nat)
  /-- a gateway takes a posted store of a core as a link packet (R240, R247) -/
  | packet (n idx : Nat)
deriving DecidableEq, Repr

/-- The state.  Lists of numbered parts leave out what equals the part after reset. -/
structure State where
  /-- memory by global physical address (R43, R475, R489); an unlisted byte reads 0 (log 6) -/
  mem     : List Host.Cell
  /-- full words: global physical addresses divided by 8 (R57) -/
  fe      : List Nat
  /-- bytes with an uncorrectable error (R10, R94) -/
  ue      : List Nat
  /-- host memory (R435, R440) -/
  hostMem : List Host.Cell
  /-- memory behind storage windows: window times 2^48 plus offset, of a package times 2^56 (R470) -/
  winMem  : List Host.Cell
  cores    : List (Nat × Core)
  clusters : List (Nat × Cluster)
  dies     : List (Nat × Die)
  pkgs     : List (Nat × Package)
  graphs   : List (Nat × Graph)
  tasks    : List (Nat × Task)
  harnesses : List (Nat × Harness)
  rings    : List PipeRing
  steps    : List StepArrival
  /-- full-empty requests in arrival order (R193) -/
  feWait   : List FeReq
  /-- parked cores in parking order: line, core (R195) -/
  watch    : List (Nat × Nat)
  resv     : List Resv
  deltas   : List Delta
  /-- fresh numbers for tasks, harnesses, writes and issues -/
  fresh    : Nat
  /-- reads of free values so far (the model's own; log 8) -/
  free     : Nat
  /-- turns to come, the core whose turn it is, turns taken (the model's own; log 1) -/
  sched    : List Turn
  cur      : Nat
  tick     : Nat
  /-- whether the turn under way is one in which walks take their time (the model's own; log 1) -/
  late     : Bool
deriving DecidableEq, Repr

/-- Reasons the machine stops.  There is none: every exception of the spec is taken (R445, R446), and every error
response is the fault or refusal that the spec names (R43), so the type has no member. -/
inductive Fault where
deriving DecidableEq, Repr

/-- Reasons an instruction has no meaning. -/
inductive Refusal where
  /-- raised by Dispatch for an instruction without a meaning yet; safe -/
  | notModelled (mnemonic : String)
deriving DecidableEq, Repr

/-- The outcome of a step. -/
abbrev Out := Host.Outcome State Fault Refusal

/-- The machine right after reset (R479 step 1; memory: log 6; registers: log 5). -/
def State.reset : State where
  mem := []
  fe := []
  ue := []
  hostMem := []
  winMem := []
  cores := []
  clusters := []
  dies := []
  pkgs := []
  graphs := []
  tasks := []
  harnesses := []
  rings := []
  steps := []
  feWait := []
  watch := []
  resv := []
  deltas := []
  fresh := 0
  free := 0
  sched := []
  cur := 0
  tick := 0
  late := false

/-- The core with a key. -/
def State.core (s : State) (n : Nat) : Core := (find? s.cores n).getD (.reset n)

/-- The cluster with a key. -/
def State.cluster (s : State) (n : Nat) : Cluster := (find? s.clusters n).getD .reset

/-- The die with a key. -/
def State.die (s : State) (n : Nat) : Die := (find? s.dies n).getD .reset

/-- The package with a number. -/
def State.pkg (s : State) (n : Nat) : Package := (find? s.pkgs n).getD (.reset n)

/-- Write a core. -/
def State.setCore (s : State) (n : Nat) (c : Core) : State := { s with cores := insert s.cores n c }

/-- Write a cluster. -/
def State.setCluster (s : State) (n : Nat) (c : Cluster) : State := { s with clusters := insert s.clusters n c }

/-- Write a die. -/
def State.setDie (s : State) (n : Nat) (d : Die) : State := { s with dies := insert s.dies n d }

/-- Write a package. -/
def State.setPkg (s : State) (n : Nat) (p : Package) : State := { s with pkgs := insert s.pkgs n p }

end Sys2Proof.Machine
end

