-- ==== Sys2Proof/Machine/Ops.lean ====
section
/-! DEFINITION. The named operations over registers, memory bytes and cores, the monad of the memory and system
instructions, and the taking of an exception with the return from one (15, 16, 22). -/

namespace Sys2Proof.Machine

/-! Registers -/

/-- s[n] (R32, R281). -/
def Regs.rs (r : Regs) (n : Reg) : Word := if n = 0 then 0 else look r.s 0 n.toNat

/-- s[n] := x (R32, R281). -/
def Regs.ws (r : Regs) (n : Reg) (x : Word) : Regs := if n = 0 then r else { r with s := put r.s 0 n.toNat x }

/-- v[n] (R30). -/
def Regs.rv (r : Regs) (n : Nat) : VWord := look r.v 0 n

/-- v[n] := x. -/
def Regs.wv (r : Regs) (n : Nat) (x : VWord) : Regs := { r with v := put r.v 0 n x }

/-- m[n]; m0 reads all ones (R30, R32). -/
def Regs.rm (r : Regs) (n : Nat) : MWord := if n = 0 then BitVec.allOnes 256 else look r.m 0 n

/-- m[n] := x; no effect on m0 (R32). -/
def Regs.wm (r : Regs) (n : Nat) (x : MWord) : Regs := if n = 0 then r else { r with m := put r.m 0 n x }

/-- p[n]; p0 reads true (R30, R32). -/
def Regs.rp (r : Regs) (n : Nat) : Bool := n == 0 || r.p.getLsbD n

/-- p[n] := x; no effect on p0 (R32). -/
def Regs.wp (r : Regs) (n : Nat) (x : Bool) : Regs :=
  if n = 0 then r
  else { r with p := (r.p &&& ~~~(1#8 <<< n)) ||| (if x then 1#8 <<< n else 0) }

/-- k[n] (R30). -/
def Regs.rk (r : Regs) (n : Nat) : BitVec 32 := look r.k 0 n

/-- k[n] := x. -/
def Regs.wk (r : Regs) (n : Nat) (x : BitVec 32) : Regs := { r with k := put r.k 0 n x }

/-- q[n] (R30). -/
def Regs.rq (r : Regs) (n : Nat) : BitVec 32 := look r.q 0 n

/-- q[n] := x. -/
def Regs.wq (r : Regs) (n : Nat) (x : BitVec 32) : Regs := { r with q := put r.q 0 n x }

/-- The guard of an instruction (R263). -/
def Regs.guard (r : Regs) (g : Guard) : Bool := r.rp g.pred.toNat != g.neg

/-! Cores -/

/-- Head index of an address: bits 5:1 (R265). -/
def headIx (a : Word) : Nat := a.toNat / 2 % 32

/-- Line address of an address (R265). -/
def lineOf (a : Word) : Word := a &&& ~~~(63 : Word)

/-- Whether the head after `pc` lies in the entered line (R266). -/
def Core.more (c : Core) : Bool :=
  match c.fline with
  | some (_, l) => headIx c.pc < lineN l
  | none => false

/-- The address that execution reaches after the instruction (R266). -/
def Core.nextPc (c : Core) : Word := if c.more then c.pc + 2 else lineOf c.pc + 66

/-- Go on to the next head (R266); the instruction waits for nothing more. -/
def Core.advance (c : Core) : Core :=
  { c with pc := c.nextPc, fline := if c.more then c.fline else none, wait := .none }

/-- Go to a target, which is entered and checked when its head is fetched (R268). -/
def Core.goto (c : Core) (t : Word) : Core := { c with pc := t, fline := none, wait := .none }

/-- Scalar registers below sregs; handler mode and a core without a task have no header (R144; log 19). -/
def Core.declS (c : Core) (rs : List Reg) : Bool :=
  match c.mode, c.task with
  | .task, some t => rs.all fun r => r.toNat < t.hdr.sregs
  | _, _ => true

/-- Vector registers below vregs (R144). -/
def Core.declV (c : Core) (vs : List Reg) : Bool :=
  match c.mode, c.task with
  | .task, some t => vs.all fun r => r.toNat < t.hdr.vregs
  | _, _ => true

/-- The node of the task a core runs (R459). -/
def Core.node (c : Core) : Option NodeKey := c.task.map fun t => (t.graph, t.node)

/-- CTXID: 0 without a task (R444). -/
def Core.ctx (c : Core) : Nat := (c.task.map (·.ctxid)).getD 0

/-- The current core. -/
def State.me (s : State) : Core := s.core s.cur

/-- Change the current core. -/
def State.setMe (s : State) (c : Core) : State := s.setCore s.cur c

/-- Change a core. -/
def State.modCore (s : State) (n : Nat) (f : Core → Core) : State := s.setCore n (f (s.core n))

/-- Change a package. -/
def State.modPkg (s : State) (n : Nat) (f : Package → Package) : State := s.setPkg n (f (s.pkg n))

/-- Change a die. -/
def State.modDie (s : State) (n : Nat) (f : Die → Die) : State := s.setDie n (f (s.die n))

/-- Change a cluster. -/
def State.modCluster (s : State) (n : Nat) (f : Cluster → Cluster) : State := s.setCluster n (f (s.cluster n))

/-- Count an operator's counter, which stops at all ones (R495). -/
def bump (n : Nat) : Nat := if n < 2 ^ 64 - 1 then n + 1 else n

/-! Memory bytes -/

/-- A byte of memory (log 6). -/
def State.byte (s : State) (a : Nat) : Byte := look s.mem 0 a

/-- Write a byte of memory; a written byte holds no uncorrectable error. -/
def State.setByte (s : State) (a : Nat) (x : Byte) : State :=
  { s with mem := put s.mem 0 a x, ue := delNat s.ue a }

/-- `n` bytes from an address. -/
def State.bytes (s : State) (a : Nat) : Nat → List Byte
  | 0 => []
  | n + 1 => s.byte a :: s.bytes (a + 1) n

/-- Write bytes from an address. -/
def State.setBytes (s : State) (a : Nat) : List Byte → State
  | [] => s
  | b :: r => (s.setByte a b).setBytes (a + 1) r

/-- The little-endian number of `n` bytes (R4). -/
def State.num (s : State) (a n : Nat) : Nat := ofBytes (s.bytes a n)

/-- Global physical address of offset `off` in the window of a core (R43, R44). -/
def State.windowPa (s : State) (n off : Nat) : Nat :=
  (s.pkg (corePkg n)).id * 2 ^ 44 + 0x200_0000_0000 + coreNo n * 0x20_0000 + off

/-! Exceptions -/

/-- Saved cause (R450, TRAPCAUSE). -/
def Trap.cause (t : Trap) (hmode : Bool) : Word :=
  BitVec.ofNat 64
    (t.status % 256 + t.queue % 8 * 2 ^ 8 + (if hmode then 1 else 0) * 2 ^ 15 + t.source % 8 * 2 ^ 12 +
      t.elem % 256 * 2 ^ 16)

/-- The first fault report of a node fixes its status and INFO (R447, R152); later ones are discarded. -/
def NodeSt.report (n : NodeSt) (status : Nat) (info : Word) : NodeSt :=
  if n.run = .faulted then n else { n with run := .faulted, status := status, info := info }

/-- Report a fault of a node to its graph controller (R447). -/
def State.report (s : State) (node : NodeKey) (status : Nat) (info : Word) : State :=
  match find? s.graphs node.1 with
  | some g =>
    match g.launch with
    | some l =>
      let st := (find? l.nodes node.2).getD .idle
      let l := { l with nodes := insert l.nodes node.2 (st.report status info), faulted := true }
      { s with graphs := insert s.graphs node.1 { g with launch := some l } }
    | none => s
  | none => s

/-- Report a fault of the task on a core. -/
def State.reportTask (s : State) (c : Core) (status : Nat) (info : Word) : State :=
  match c.node with
  | some n => s.report n status info
  | none => s

/-- The registers an entry to the handler writes (R450), the mode, and the handler's entry (log 4). -/
def Core.enter (c : Core) (t : Trap) (pc : Word) : Core :=
  { c with
    trapCause := t.cause (c.mode = .handler)
    trapPc := pc
    trapInfo := t.info
    mode := .handler
    pc := Config.handlerEntry t.source
    fline := none
    wait := .none }

/-- Whether an instruction that waits has been granted what it waits for, so that it completes before a
trap or a suspension is taken (R446, R455 step 1). -/
def Wait.granted : Wait → Bool
  | .fe (some _) | .failed _ | .watch true | .mutex true | .event (some _) | .rejoin _ true | .foreign _ _ | .harn .. => true
  | _ => false

/-- The waiting instruction of a core is withdrawn from the list it waits in (R341, R376). -/
def State.withdraw (s : State) (k : Nat) : State :=
  let drop := fun (l : List (Nat × Nat)) => l.filter fun w => w.2 != k
  { s with
    feWait := s.feWait.filter fun r => r.core != k
    watch := drop s.watch
    clusters := s.clusters.map fun c =>
      (c.1, { c.2 with mutexWait := drop c.2.mutexWait, eventWait := drop c.2.eventWait })
    dies := s.dies.map fun d => (d.1, { d.2 with medWait := delNat d.2.medWait k }) }

/-- Take an exception on a core (R445, R446, R450 to R452).  A synchronous fault, an engine trap and a refused posted
store end the grid: the first report fixes the node's status; with the grid the core's matrix queue stops, a MITER behind
the phase that runs (R114).  In handler mode the grid served ends with status 0x1F
and the core takes no task. -/
def State.trapOn (s : State) (n : Nat) (t : Trap) (pc : Word) : State :=
  let s := if (s.core n).wait = .none then s else s.withdraw n
  let c := s.core n
  if c.mode = .handler then
    ((s.setCore n { c.enter { t with source := 0 } pc with service := false }).reportTask c 0x1F 0).modPkg (corePkg n)
      fun p => { p with counters := { p.counters with hfault := bump p.counters.hfault } }
  else if t.source < 3 then
    (s.setCore n
      { c.enter t pc with
        preempt := false
        asyncTrap := none
        trapped := true
        eng := { c.eng with matStop := true }
        journal := c.journal.filter fun e => !e.heldBy c.asyncTrap }).reportTask c t.status t.info
  else s.setCore n { c.enter t pc with trapped := true, eng := { c.eng with matStop := true } }

/-- Take an exception of the current core's instruction. -/
def State.trap (s : State) (t : Trap) : State := s.trapOn s.cur t s.me.pc

/-- Return from handler mode: task mode, at TRAPPC (R311). -/
def Core.eret (c : Core) : Core := { c.goto c.trapPc with mode := .task }

/-- An asynchronous cause reaches a core: only the first for a task is recorded (R446); later ones are counted (R495). -/
def State.asyncCause (s : State) (n : Nat) (t : Trap) : State :=
  let c := s.core n
  if c.asyncTrap.isNone && !c.trapped then s.setCore n { c with asyncTrap := some t }
  else
    (s.setCore n { c with laterTraps := c.laterTraps + 1 }).modPkg (corePkg n) fun p =>
      { p with counters := { p.counters with extra := bump p.counters.extra } }

/-! The monad of instructions -/

/-- What a fault leaves with the operator although the instruction has no effect: a record of a world refusal in a
die's log (R477), or an uncorrectable memory error counted for a package (R495). -/
inductive Note where
  | none
  | refusal (die : Nat) (r : Refused)
  | memue (pkg : Nat)
deriving DecidableEq, Repr

/-- Keep a note: 16 records are kept, further ones counted (R477). -/
def State.note (s : State) : Note → State
  | .none => s
  | .refusal d r =>
    s.modDie d fun x =>
      if x.log.length < 16 then { x with log := x.log ++ [r] } else { x with logMore := bump x.logMore }
  | .memue p => s.modPkg p fun x => { x with counters := { x.counters with memue := bump x.counters.memue } }

/-- How an instruction ends early: a synchronous fault without effect but its note (R445) and what the TLBs keep of the
state at the fault (R471), a fault after which what the state shows stays performed, or a state from which the core goes
on without advancing (a wait, or a transfer of control), or nothing done but what the TLBs and the walkers keep, to be
taken up again. -/
inductive Exit where
  | fault (t : Trap) (n : Note) (s : State)
  | faultKeep (t : Trap) (n : Note) (s : State)
  | leave (s : State)
  | retry (s : State)
deriving DecidableEq, Repr

/-- A state with the TLBs and the walks that another one holds for a core, and the core's wait for one: a walk that succeeds
fills the TLBs although its access faults, and a walk that waits stays queued although its access is taken up again (R471,
R472). -/
def State.keepTlbs (s : State) (k : Nat) (u : State) : State :=
  let c := u.core k
  let l := u.cluster (coreCluster k)
  let d := u.die (coreDie k)
  let s :=
    if c.tlb = (s.core k).tlb ∧ c.due = (s.core k).due then s
    else s.modCore k fun x => { x with tlb := c.tlb, due := c.due }
  let s :=
    if l.tlb = (s.cluster (coreCluster k)).tlb then s
    else s.modCluster (coreCluster k) fun x => { x with tlb := l.tlb }
  if d.tlb = (s.die (coreDie k)).tlb ∧ d.walks = (s.die (coreDie k)).walks then s
  else s.modDie (coreDie k) fun x => { x with tlb := d.tlb, walks := d.walks }

/-- Instructions that read and write the whole state. -/
abbrev M := StateT State (Except Exit)

/-- The state. -/
def theState : M State := fun s => .ok (s, s)

/-- Replace the state. -/
def setState (s : State) : M Unit := fun _ => .ok ((), s)

/-- Change the state. -/
def modState (f : State → State) : M Unit := fun s => .ok ((), f s)

/-- The current core. -/
def theCore : M Core := fun s => .ok (s.me, s)

/-- Change the current core. -/
def modMe (f : Core → Core) : M Unit := modState fun s => s.setMe (f s.me)

/-- Fault(code) (R7, R445). -/
def faultWith {α : Type} (t : Trap) (n : Note := .none) : M α := fun s => .error (.fault t n s)

/-- TRAPINFO of an access that fails with a status: the address for the statuses that R451 lists, otherwise 0. -/
def addrInfo (status a : Nat) : Word :=
  if (0x20 ≤ status ∧ status ≤ 0x29) ∨ status = 0x2B ∨ status = 0x60 then BitVec.ofNat 64 a else 0

/-- Fault with a status and TRAPINFO. -/
def fault {α : Type} (status : Nat) (info : Word := 0) : M α := faultWith { status := status, info := info }

/-- The fault of an access at an address whose home answers with a status (R451). -/
def homeFault {α : Type} (r : Nat × Note) (a : Nat) : M α :=
  faultWith { status := r.1, info := addrInfo r.1 a } r.2

/-- Fault after a release that stays performed (R445). -/
def faultAfter {α : Type} (status : Nat) (info : Word := 0) : M α :=
  fun s => .error (.faultKeep { status := status, info := info } .none s)

/-- End here, without advancing. -/
def leave {α : Type} : M α := fun s => .error (.leave s)

/-- Nothing done: the instruction is taken up again from the start at the core's next turn. -/
def retry {α : Type} : M α := fun s => .error (.retry s)

/-- An access has begun and waits for its page walk (R472). -/
def awaitWalk {α : Type} : M α := do
  modMe fun c => { c with due := .access }
  retry

/-- Wait: the instruction is taken up again at the core's next turn (R341; log 3). -/
def waitFor {α : Type} (w : Wait) : M α := do
  modMe fun c => { c with wait := w }
  leave

/-- A check. -/
def require (b : Bool) (status : Nat) (info : Word := 0) : M Unit := if b then pure () else fault status info

/-- Do something for each element in turn. -/
def each {α : Type} (l : List α) (f : α → M Unit) : M Unit :=
  match l with
  | [] => pure ()
  | x :: r => do f x; each r f

/-- Results for each element in turn. -/
def collect {α β : Type} (l : List α) (f : α → M β) : M (List β) :=
  match l with
  | [] => pure []
  | x :: r => do
    let y ← f x
    let ys ← collect r f
    pure (y :: ys)

/-- The outcome of an instruction: it retires and execution goes on (R266), or it faults, waits or transfers. -/
def finish (s0 : State) : Except Exit (Unit × State) → Out
  | .ok ((), s) => .next (s.setMe s.me.advance)
  | .error (.fault t n s) => .next (((s0.keepTlbs s0.cur s).note n).trap t)
  | .error (.faultKeep t n s) => .next ((s.note n).trapOn s.cur t s0.me.pc)
  | .error (.leave s) => .next s
  | .error (.retry s) => .next (s0.keepTlbs s0.cur s)

/-- Steps 4 and 5 of R264: a false guard ends the instruction; the register checks of R144 come first. -/
def instr (g : Guard) (ss vs : List Reg) (m : M Unit) (s : State) : Out :=
  if !s.me.regs.guard g then .next (s.setMe s.me.advance)
  else if !(s.me.declS ss && s.me.declV vs) then .next (s.trap { status := 0x15 })
  else finish s (m s)

/-- An instruction that only reads and writes the register files of its core. -/
def regInstr (g : Guard) (ss vs : List Reg) (f : Regs → Regs) (s : State) : Out :=
  if !s.me.regs.guard g then .next (s.setMe s.me.advance)
  else if !(s.me.declS ss && s.me.declV vs) then .next (s.trap { status := 0x15 })
  else .next (s.setMe { s.me with regs := f s.me.regs }.advance)

/-- An instruction of handler mode only (R311). -/
def handlerOnly : M Unit := do
  let c ← theCore
  require (c.mode = .handler) 0x1B

/-- Read s[n]. -/
def rdS (n : Reg) : M Word := do
  let c ← theCore
  pure (c.regs.rs n)

/-- Write s[n]. -/
def wrS (n : Reg) (x : Word) : M Unit := modMe fun c => { c with regs := c.regs.ws n x }

/-- Write p[n]. -/
def wrP (n : Nat) (x : Bool) : M Unit := modMe fun c => { c with regs := c.regs.wp n x }

end Sys2Proof.Machine
end

