-- ==== Sys2Proof/Machine/Translate.lean ====
section
/-! DEFINITION. The physical map and the homes (03, R43 to R45), the two worlds (23, R474 to R478), and address
translation with its TLBs and walks (23, R463 to R473). -/

namespace Sys2Proof.Machine

/-- Regions of a package's local physical map (R43): a vault with its die and offset, a window with its core number
and offset. -/
inductive Region where
  | hbm
  | vault (die off : Nat)
  | window (n off : Nat)
  | control
  | parity
  | nothing
deriving DecidableEq, Repr

/-- The region of a local physical address (R43). -/
def region (a : Nat) : Region :=
  if a < 0x080_0000_0000 then .hbm
  else if 0x100_0000_0000 ≤ a ∧ a < 0x102_0000_0000 then
    .vault ((a - 0x100_0000_0000) / 0x8000_0000) ((a - 0x100_0000_0000) % 0x8000_0000)
  else if 0x200_0000_0000 ≤ a ∧ a < 0x200_C2A0_0000 then
    .window ((a - 0x200_0000_0000) / 0x20_0000) ((a - 0x200_0000_0000) % 0x20_0000)
  else if 0x300_0000_0000 ≤ a ∧ a < 0x380_0000_0000 then .control
  else if 0x380_0000_0000 ≤ a ∧ a < 0x400_0000_0000 then .parity
  else .nothing

/-- Whether two regions are the same one of R43. -/
def Region.same : Region → Region → Bool
  | .hbm, .hbm | .vault .., .vault .. | .window .., .window .. | .control, .control | .parity, .parity => true
  | _, _ => false

/-- Die whose slice or interface answers a local address (R45). -/
def homeDie (a : Nat) : Nat :=
  match region a with
  | .hbm => a / 2 ^ 12 % 8 / 2
  | .vault d _ => d
  | .window n _ => coreDie n
  | .control => (a - 0x300_0000_0000) / 0x100_0000 % 4
  | _ => 0

/-- Home slice of a local address, its package number (R45); a window's interface counts as 256 plus its core. -/
def homeSlice (a : Nat) : Nat :=
  match region a with
  | .hbm => 64 * homeDie a + ((a / 2 ^ 6 % 64) ^^^ (a / 2 ^ 15 % 64))
  | .vault d o => 64 * d + 8 * (o / 2 ^ 28 % 8) + o / 2 ^ 6 % 8
  | .window n _ => 256 + n
  | _ => 2048

/-- Home of a global physical address: package id and slice. -/
def homeOf (pa : Nat) : Nat × Nat := (pa / 2 ^ 44, homeSlice (pa % 2 ^ 44))

/-- Package id of the package a core belongs to. -/
def State.idOf (s : State) (k : Nat) : Nat := (s.pkg (corePkg k)).id

/-- The package that answers to an id (R493). -/
def State.ownerOf (s : State) (id : Nat) : Nat :=
  ((s.pkgs.find? fun p => p.2.id == id).map (·.1)).getD id

/-- A route table entry as die `d` of a package holds it (R489): COUNT is 0 where the entry is malformed. -/
def State.route (s : State) (pkg d dst : Nat) : List Nat :=
  let e := s.num ((s.pkg pkg).id * 2 ^ 44 + 0x300_0002_0000 + 0x100_0000 * d + 4 * dst) 4
  let n := e / 2 ^ 16 % 8
  let ls := (upFrom 0 n).map fun i => e / 2 ^ (4 * i) % 16
  if 4 < n || ls.any (11 < ·) then [] else ls

/-- A link of a package. -/
def Package.link (p : Package) (i : Nat) : Link := look p.links .reset i

/-- Whether a link is in service (R248). -/
def Link.inService (l : Link) : Bool := l.up != .out

/-- Package and link at the other end, as its training flits named it. -/
def State.otherEnd (s : State) (l : Link) : Option (Nat × Nat) := l.partner.map fun p => (s.ownerOf p.1, p.2)

/-- Whether a link can carry a packet: it is in service to a package that has booted (R249, R479). -/
def State.carries (s : State) (pkg i : Nat) : Bool :=
  let l := (s.pkg pkg).link i
  l.inService && (s.otherEnd l).any fun o => (s.pkg o.1).step == 8

/-- Links that a package's table at a die lists for a destination and that can carry a packet (R240, R249). -/
def State.open_ (s : State) (pkg die dst : Nat) : List Nat := (s.route pkg die dst).filter (s.carries pkg)

/-- Whether the route tables lead from a die of a package to another id within `n` links, each of them in service between
packages that have booted (R240, R250, R479). -/
def State.leadsTo (s : State) (id : Nat) : Nat → Nat → Nat → Bool
  | 0, _, _ => false
  | n + 1, pkg, die =>
    (s.open_ pkg die id).any fun i =>
      (s.otherEnd ((s.pkg pkg).link i)).any fun o => (s.pkg o.1).id == id || s.leadsTo id n o.1 (o.2 / 3)

/-- Whether a core's request reaches a package: its own, or one that has booted and to which routes from the core's die lead
(R241, R250, R479). -/
def State.reaches (s : State) (k id : Nat) : Bool :=
  s.idOf k == id || s.leadsTo id (s.pkgs.length + 1) (corePkg k) (coreDie k % 4)

/-- The SEC of an address as its home's region table gives it (R475). -/
def State.secure (s : State) (pa : Nat) : Bool :=
  let lo := pa / 2 ^ 44 * 2 ^ 44 + 0x300_0001_0000 + 0x100_0000 * homeDie (pa % 2 ^ 44)
  let cells := s.mem.filter fun c => lo ≤ c.1 && c.1 < lo + 512
  if cells.isEmpty then false
  else
    let unit := pa % 2 ^ 44 / 2 ^ 21
    let entries := (upFrom 0 64).map fun n => ofBytes ((upFrom (lo + 8 * n) 8).map (look cells 0))
    match entries.find? fun e => e / 2 ^ 63 == 1 && e % 2 ^ 23 ≤ unit && unit ≤ e / 2 ^ 23 % 2 ^ 23 with
    | some e => e / 2 ^ 62 % 2 == 1
    | none => false

/-- Kinds of access in the refusal log (R497); WAITA counts with the atomics. -/
inductive AccKind where
  | load | store | atomic | walk | engine | host
deriving DecidableEq, Repr

/-- Code of a kind (R497). -/
def AccKind.code : AccKind → Nat
  | .load => 0 | .store => 1 | .atomic => 2 | .walk => 3 | .engine => 4 | .host => 5

/-- Fabric endpoint identifier of a core's interface (R239). -/
def State.endpoint (s : State) (k : Nat) : Nat := s.idOf k * 2 ^ 12 + coreNo k * 2

/-- Who asks a home: the core, whether in handler mode, its world. -/
structure Who where
  core    : Nat
  handler : Bool
  secure  : Bool
deriving DecidableEq, Repr

/-- A core as a requester (R474). -/
def State.who (s : State) (k : Nat) : Who := ⟨k, (s.core k).mode = .handler, coreWorld k⟩

/-- The answer of the home to `n` bytes at a global physical address: 0, or the status of its error response, with
the note it leaves (R43, R44, R241, R476, R477).  Addresses beyond the ranges a requester may reach give an error
response: status 0x20 in the own package, 0x50 in another, 0x51 where no route leads. -/
def State.answer (s : State) (w : Who) (kind : AccKind) (pa n : Nat) : Nat × Note :=
  let id := pa / 2 ^ 44
  let loc := pa % 2 ^ 44
  if !s.reaches w.core id then (0x51, .none)
  else
    let o := s.ownerOf id
    let ok :=
      match region loc with
      | .hbm | .vault .. => true
      | .window m off =>
        (m < 1536 || w.handler) &&
          (off + n ≤ (s.core (o * 2048 + m)).spbanks * 0x1_0000 ||
            (w.handler && 0x18_0000 ≤ off && off + n ≤ 0x19_0000))
      | .control | .parity => w.handler
      | .nothing => false
    if !ok then (if s.idOf w.core == id then 0x20 else 0x50, .none)
    else
      let sec :=
        match region loc with
        | .window m _ => coreWorld m
        | _ => s.secure pa
      if sec && !w.secure then
        (0x60, .refusal (o * 4 + homeDie loc) ⟨pa, s.endpoint w.core, kind.code⟩)
      else (0, .none)

/-- A core's firmware as a requester: in handler mode, in the core's world (R474). -/
def firmware (k : Nat) : Who := ⟨k, true, coreWorld k⟩

/-- Whether an address lies in a region table (R475). -/
def inRegions (a : Nat) : Bool :=
  let off := a % 2 ^ 44 - 0x300_0000_0000
  0x300_0000_0000 ≤ a % 2 ^ 44 && off < 0x400_0000 && 0x1_0000 ≤ off % 0x100_0000 && off % 0x100_0000 < 0x1_0200

/-- The refusal, because of the requester's world, of an access of firmware to one of `n` bytes: the first one (R476, R477).
Where no region table lists anything no address is secure. -/
def State.shut (s : State) (w : Who) (kind : AccKind) (pa n : Nat) : Option Note :=
  if !s.mem.any fun c => inRegions c.1 then none
  else
    (upFrom (pa / 64) ((pa + n + 63) / 64 - pa / 64)).findSome? fun l =>
      match s.answer w kind (max pa (64 * l)) 1 with
      | (0x60, x) => some x
      | _ => none

/-- Whether some of `n` bytes hold an uncorrectable error (R10; the extent of one error: log 67). -/
def State.bad (s : State) (pa n : Nat) : Bool := s.ue.any fun a => pa ≤ a && a < pa + n

/-- A read at the home: the bytes, or a status with its note (R10, R43, R476).  An uncorrectable error covers the bytes
listed and no others (log 67). -/
def State.homeRead (s : State) (w : Who) (kind : AccKind) (pa n : Nat) : Except (Nat × Note) (List Byte) :=
  match s.answer w kind pa n with
  | (0, _) => if s.bad pa n then .error (0x26, .memue (corePkg w.core)) else .ok (s.bytes pa n)
  | r => .error r

/-- A read at the home that fills a line, which is read whole (R10, R49). -/
def State.fillRead (s : State) (w : Who) (kind : AccKind) (pa n : Nat) : Except (Nat × Note) (List Byte) :=
  match s.homeRead w kind pa n with
  | .ok bs => if s.bad (pa / 64 * 64) 64 then .error (0x26, .memue (corePkg w.core)) else .ok bs
  | r => r

/-! Translation -/

/-- Bytes of a page (R466). -/
def Leaf.bytes (l : Leaf) : Nat := 4096 * 4 ^ l.size

/-- Levels at which a SIZE may stand (R466). -/
def sizeOk (level size : Nat) : Bool :=
  match level with
  | 1 => size ≤ 4
  | 2 => 5 ≤ size && size ≤ 8
  | 3 => 9 ≤ size && size ≤ 13
  | 4 => 14 ≤ size
  | _ => false

/-- One bit of a number. -/
def bitOf (x i : Nat) : Bool := x / 2 ^ i % 2 == 1

/-- The leaf an entry describes for the page that holds an address (R465, R467). -/
def leafOf (root va e : Nat) : Leaf :=
  let size := e / 2 ^ 60
  let bytes := 4096 * 4 ^ size
  { root := root, base := va - va % bytes, size := size, pa := e / 2 ^ 12 % 2 ^ 44 * 4096
    r := bitOf e 3, w := bitOf e 4, x := bitOf e 5, k := bitOf e 7, pr := bitOf e 57, f := bitOf e 59, hs := bitOf e 58 }

/-- WellFormed(e, L) of R467 for a leaf, with R470 for a foreign one. -/
def State.leafOk (s : State) (pkg level : Nat) (e : Nat) (l : Leaf) : Bool :=
  let zero := !(bitOf e 56) && e / 2 ^ 8 % 16 == 0 && !(bitOf e 6) && e / 2 % 4 == 0
  let shape := zero && !(l.w && !l.r) && sizeOk level l.size && l.pa % l.bytes == 0
  if l.f then
    let off := l.pa % 2 ^ 48
    shape && !l.pr &&
      (match find? (s.pkg pkg).windows (l.pa / 2 ^ 48) with
       | some w => off + l.bytes ≤ w.len
       | none => false)
  else
    let loc := l.pa % 2 ^ 44
    let reg := region loc
    let last := region (loc + l.bytes - 1)
    shape && !l.hs && reg.same last &&
      !(l.k && (reg.same .control || reg.same .parity)) &&
      !(l.k && loc < 0x200_C2A0_0000 && 0x200_C000_0000 < loc + l.bytes) &&
      !(l.pr && !(reg.same .hbm))

/-- Whether a global physical address names a 4 KiB unit of a package's own HBM (R464). -/
def State.tableOk (s : State) (pkg pa : Nat) : Bool :=
  pa / 2 ^ 44 == (s.pkg pkg).id && pa % 2 ^ 44 < 0x080_0000_0000

/-- Walk(va, root) of R467 from a level down; every read is performed at the entry's home. -/
def State.walkFrom (s : State) (w : Who) (root va : Nat) : Nat → Nat → Except (Nat × Note) Leaf
  | 0, _ => .error (0x20, .none)
  | level + 1, t =>
    if !s.tableOk (corePkg w.core) t then .error (0x20, .none)
    else
      match s.homeRead w .walk (t + 8 * (va / 2 ^ (9 * level + 12) % 512)) 8 with
      | .error e => .error e
      | .ok bs =>
        let e := ofBytes bs
        if !bitOf e 0 then .error (0x20, .none)
        else if bitOf e 3 || bitOf e 4 || bitOf e 5 then
          let l := leafOf root va e
          if s.leafOk (corePkg w.core) (level + 1) e l then .ok l else .error (0x20, .none)
        else if e / 2 ^ 56 != 0 && e / 2 ^ 56 != 2 then .error (0x20, .none)
        else if e / 2 ^ 8 % 16 != 0 || bitOf e 6 || e / 2 % 4 != 0 then .error (0x20, .none)
        else s.walkFrom w root va level (e / 2 ^ 12 % 2 ^ 44 * 4096)

/-- Local physical address of the root a requester walks from (R464). -/
def Core.root (c : Core) (secure : Bool) : Nat :=
  (if secure then c.ptroot1 else c.ptroot0).toNat / 2 ^ 12 % 2 ^ 32 * 4096

/-- A page walk of five levels (R463). -/
def State.walk (s : State) (w : Who) (root va : Nat) : Except (Nat × Note) Leaf :=
  s.walkFrom w root va 5 (s.idOf w.core * 2 ^ 44 + root)

/-- Whether a TLB entry translates an address under a root (R471). -/
def Leaf.hits (l : Leaf) (root va : Nat) : Bool := l.root == root && l.base ≤ va && va < l.base + l.bytes

/-- Put an entry first, keeping at most `n` (R471, least recently used). -/
def lruPut (n : Nat) (x : Leaf) (l : List Leaf) : List Leaf := (x :: l.filter (· ≠ x)).take n

/-- Set of the cluster TLB in which an entry lies (R471). -/
def Leaf.set (l : Leaf) : Nat := l.base / l.bytes % 256

/-- Put an entry first in the cluster TLB, keeping 8 of its set (R471). -/
def clusterPut (x : Leaf) (l : List Leaf) : List Leaf :=
  let same := (l.filter fun y => y.set == x.set && y ≠ x).take 7
  x :: l.filter fun y => y.set != x.set || same.contains y

/-- Fill a core's TLB and its cluster's (R471); a service core has no cluster. -/
def State.fillTlb (s : State) (k : Nat) (l : Leaf) : State :=
  let s := s.modCore k fun c => { c with tlb := lruPut 64 l c.tlb }
  if coreNo k < 1536 then s.modCluster (coreCluster k) fun c => { c with tlb := clusterPut l c.tlb } else s

/-! The walkers of a die -/

/-- Whether a queued walk serves the misses of a core's cluster, or of the media engine, at an address under a root (R472):
misses of one cluster in one 4 KiB unit share a walk. -/
def Walk.serves (x : Walk) (cluster : Option Nat) (root : Nat) (secure : Bool) (va : Nat) : Bool :=
  x.cluster == cluster && cluster.isSome && x.root == root && x.secure == secure && x.unit == va / 4096 &&
    x.fault.isNone

/-- Whether a walk that waits or runs answers an access of a core. -/
def State.walking (s : State) (k : Nat) : Bool := (s.die (coreDie k)).walks.any fun x => has x.cores k

/-- Whether a walk is that of an access of a core at an address under a root. -/
def Walk.isFor (x : Walk) (k root : Nat) (secure : Bool) (va : Nat) : Bool :=
  has x.cores k && x.root == root && x.secure == secure && x.unit == va / 4096

/-- An access of a core waits for its walk no more: a walk that nobody waits for is dropped. -/
def State.unwalk (s : State) (k root : Nat) (secure : Bool) (va : Nat) : State :=
  if (s.die (coreDie k)).walks.any (·.isFor k root secure va) then
    s.modDie (coreDie k) fun d =>
      { d with walks :=
          (d.walks.map fun x =>
            if x.isFor k root secure va then { x with cores := delNat x.cores k } else x).filter (·.cores != []) }
  else s

/-- A miss joins the walk of its cluster and unit, or a new one behind those already there (R472). -/
def State.askWalk (s : State) (k : Nat) (cluster : Option Nat) (root : Nat) (secure : Bool) (va : Nat) : State :=
  s.modDie (coreDie k) fun d =>
    if d.walks.any (·.serves cluster root secure va) then
      { d with walks := d.walks.map fun x =>
          if x.serves cluster root secure va then { x with cores := addNat x.cores k } else x }
    else { d with walks := d.walks ++ [⟨cluster, root, secure, va / 4096, [k], none⟩] }

/-- What a look-up of a page gives: the page, a fault, or a walk to be waited for. -/
inductive Found where
  | page (l : Leaf)
  | bad (status : Nat) (n : Note)
  | walks
deriving DecidableEq, Repr

/-- A miss of a core at an address (R472).  It waits for a walk where all 64 walkers are busy, where one for its cluster
and unit is under way, and in a turn whose walks take their time; otherwise its walk begins and ends here. -/
def State.miss (s : State) (w : Who) (cluster : Option Nat) (root va : Nat) : State × Found :=
  let k := w.core
  let walks := (s.die (coreDie k)).walks
  match walks.find? (·.isFor k root w.secure va) with
  | some x =>
    match x.fault with
    | some st => (s.unwalk k root w.secure va, .bad st .none)
    | none => (s, .walks)
  | none =>
    if s.late || 64 ≤ (walks.filter (·.fault.isNone)).length || walks.any (·.serves cluster root w.secure va) then
      (s.askWalk k cluster root w.secure va, .walks)
    else
      match s.walk w root va with
      | .ok l => (s, .page l)
      | .error (st, n) => (s, .bad st n)

/-- The page of an address, from the core's TLB, its cluster's, or a walk (R471); a service core's walks begin and end at
once, since the walkers' queue is that of the clusters and the media engine (R472). -/
def State.pageOf (s : State) (w : Who) (va : Nat) : State × Found :=
  let c := s.core w.core
  let root := c.root w.secure
  let inCluster := coreNo w.core < 1536
  match c.tlb.find? (·.hits root va) with
  | some l => ((s.setCore w.core { c with tlb := lruPut 64 l c.tlb }).unwalk w.core root w.secure va, .page l)
  | none =>
    match (if inCluster then (s.cluster (coreCluster w.core)).tlb else []).find? (·.hits root va) with
    | some l => ((s.fillTlb w.core l).unwalk w.core root w.secure va, .page l)
    | none =>
      if inCluster then
        match s.miss w (some (coreCluster w.core)) root va with
        | (s, .page l) => (s.fillTlb w.core l, .page l)
        | r => r
      else
        match s.walk w root va with
        | .ok l => (s.fillTlb w.core l, .page l)
        | .error (st, n) => (s, .bad st n)

/-- What an access needs of its page (R468). -/
inductive Need where
  | r | w | rw | x
deriving DecidableEq, Repr

/-- Permission check (R468); handler mode ignores K. -/
def Leaf.allows (l : Leaf) (handler : Bool) (n : Need) : Bool :=
  (handler || l.k) &&
    match n with
    | .r => l.r
    | .w => l.w
    | .rw => l.r && l.w
    | .x => l.x

/-- Canonical form: bits 63:57 all equal bit 56 (R41). -/
def canonical (va : Nat) : Bool := va / 2 ^ 56 == 0 || va / 2 ^ 56 == 255

/-- Whether an address lies in a 4 KiB unit of the claim array of an element space. -/
def ElemSpace.claimUnit (x : ElemSpace) (va : Nat) : Bool :=
  x.claim / 4096 ≤ va / 4096 && va / 4096 ≤ (x.claim + 2 * x.nelem - 1) / 4096

/-- Whether an address lies in the claim array of an element space registered in a package, or of one registered for a
graph that spans it, which kernels may not write (R162; log 26). -/
def State.claimArray (s : State) (pkg va : Nat) : Bool :=
  ((s.pkg pkg).spaces.any fun x => x.2.claimUnit va) ||
    s.graphs.any fun g => has g.2.pkgs (s.pkg pkg).id &&
      (s.pkg (g.1 / 1024)).spaces.any fun x => x.2.graph == g.2.num && x.2.claimUnit va

/-- Whether a requester may have what it needs of a page at an address (R162, R468, R492). -/
def State.permits (s : State) (w : Who) (l : Leaf) (need : Need) (va : Nat) : Bool :=
  l.allows w.handler need && (!l.pr || (s.pkg (s.ownerOf (l.pa / 2 ^ 44))).joined) &&
    (w.handler || need = .r || need = .x || !s.claimArray (corePkg w.core) va)

/-- What a translation gives: the physical address (within the window of a foreign page) and the page, a fault, or a walk
to be waited for. -/
inductive Placed where
  | at_ (pa : Nat) (l : Leaf)
  | bad (status : Nat) (n : Note)
  | walks
deriving DecidableEq, Repr

/-- The permission check of R468 on what a look-up gave at an address. -/
def State.checkPage (s : State) (w : Who) (need : Need) (va : Nat) : Found → Placed
  | .bad st n => .bad st n
  | .walks => .walks
  | .page l => if s.permits w l need va then .at_ (l.pa + (va % 2 ^ 57 - l.base)) l else .bad 0x20 .none

/-- Checks 1 and 2 of R41: canonical form, then translation with the needed permission; a protected page of a package
that has not joined its group faults (R492).  The TLBs keep the page although its access faults (R471). -/
def State.translate (s : State) (w : Who) (need : Need) (va : Nat) : State × Placed :=
  if !canonical va then (s, .bad 0x25 .none)
  else
    let r := s.pageOf w (va % 2 ^ 57)
    (r.1, r.1.checkPage w need va r.2)

/-- Translate in an instruction of the current core; a failure is exact, with the address of the first byte. -/
def translate (need : Need) (va : Nat) : M (Nat × Leaf) := fun s =>
  match s.translate (s.who s.cur) need va with
  | (s, .at_ pa l) => .ok ((pa, l), s)
  | (s, .bad st n) => .error (.fault { status := st, info := addrInfo st va } n s)
  | (s, .walks) => awaitWalk s

end Sys2Proof.Machine
end

