-- ==== Sys2Proof/Machine/Parity.lean ====
section
/-! DEFINITION. Writes at the homes: the waking of parked cores (10, R196) and the parity of protected pages (13, R251
to R257; 24, R492 to R494). -/

namespace Sys2Proof.Machine

/-- Product by g = 0x02 in GF(2^8) modulo x^8 + x^4 + x^3 + x^2 + 1 (R252). -/
def gfDouble (x : Nat) : Nat := if 128 ≤ x then (2 * x - 256) ^^^ 0x1D else 2 * x

/-- g^i · x (R252). -/
def gfScale : Nat → Nat → Nat
  | 0, x => x
  | i + 1, x => gfScale i (gfDouble x)

/-- Members of a group. -/
def ParityGroup.n (g : ParityGroup) : Nat := g.ranks.length

/-- Whether rank `i` holds a parity unit of stripe `t` (R252). -/
def ParityGroup.holds (g : ParityGroup) (t i : Nat) : Bool :=
  t % g.n == i || (g.m == 2 && (t + 1) % g.n == i)

/-- The stripe of data unit `u` of rank `i`: the u-th in which it holds no parity (R252). -/
def ParityGroup.stripe (g : ParityGroup) (i u : Nat) : Nat :=
  let free := (upFrom 0 g.n).filter fun t => !g.holds t i
  u / free.length * g.n + free.getD (u % free.length) 0

/-- The data unit of rank `i` in a stripe in which it holds no parity (R252). -/
def ParityGroup.unit (g : ParityGroup) (i t : Nat) : Nat :=
  let free := (upFrom 0 g.n).filter fun t => !g.holds t i
  t / g.n * free.length + (free.filter (· < t % g.n)).length

/-- Local address of the parity unit of a stripe on its holder (R252; placement: log 13). -/
def parityUnit (t : Nat) : Nat := 0x380_0000_0000 + 4096 * t

/-- The 64 bytes of a line as one pattern. -/
def State.line (s : State) (line : Nat) : LineBits := BitVec.ofNat 512 (s.num (64 * line) 64)

/-- Each byte of a line times g^i. -/
def gfLine (i : Nat) (x : LineBits) : LineBits :=
  BitVec.ofNat 512 (ofBytes ((toBytes 64 x.toNat).map fun b => BitVec.ofNat 8 (gfScale i b.toNat)))

/-- Wake every core parked on a line, in parking order, and empty its watch list (R196). -/
def State.wake (s : State) (line : Nat) : State :=
  let s' := s.watch.foldl
    (fun s w => if w.1 = line then s.modCore w.2 fun c => { c with wait := .watch true } else s) s
  { s' with watch := s.watch.filter (·.1 ≠ line) }

/-- The bits of a byte that a write changes: reserved bits of a region table or route table entry stay zero (R475,
R489). -/
def writable (a : Nat) : Byte :=
  let off := a % 2 ^ 44 - 0x300_0000_0000
  let o := off % 0x100_0000
  if a % 2 ^ 44 < 0x300_0000_0000 ∨ 0x400_0000 ≤ off then 0xFF
  else if 0x1_0000 ≤ o ∧ o < 0x1_0200 then [0xFF, 0xFF, 0xFF, 0xFF, 0xFF, 0x3F, 0, 0xC0].getD (o % 8) 0xFF
  else if 0x2_0000 ≤ o ∧ o < 0x2_4000 then [0xFF, 0xFF, 0x07, 0].getD (o % 4) 0xFF
  else 0xFF

/-- Bytes at offsets of a line land at its home (R202, R205, R196). -/
def State.land (s : State) (line : Nat) (data : List (Nat × Byte)) : State :=
  (data.foldl (fun s d => s.setByte (64 * line + d.1) (d.2 &&& writable (64 * line + d.1))) s).wake line

/-- Whether the deltas of a stripe for a holder are dropped: it is lost, and the spare has not rebuilt its unit of the
stripe (R257, R494). -/
def ParityGroup.drops (g : ParityGroup) (t h : Nat) : Bool :=
  has g.lost h && !(has g.adopted h && g.busy.any (t < ·))

/-- The delta of one write to a line for one holder (R253, R257). -/
def State.delta (s : State) (g : ParityGroup) (t h line : Nat) (core : Option Nat) (off : Nat) (bits : LineBits) :
    List Delta :=
  if g.drops t h then []
  else
    [⟨s.fresh, (homeOf (64 * line)).1, (homeOf (64 * line)).2, core,
      (g.ranks.getD h 0 * 2 ^ 44 + parityUnit t + off) / 64, bits, false⟩]

/-- The group whose protected region holds a line: it must have been joined (R251, R492). -/
def State.groupOf (s : State) (line : Nat) : Option (ParityGroup × Nat) :=
  let id := 64 * line / 2 ^ 44
  let p := s.pkg (s.ownerOf id)
  let loc := 64 * line % 2 ^ 44
  match p.parity with
  | some g =>
    if p.joined && g.base ≤ loc && loc < g.base + g.size then
      (indexOf? (· == id) g.ranks).map fun i => (g, i)
    else none
  | none => none

/-- The stripe of a protected line: its group, the rank of its home, the stripe's number (R252). -/
def State.stripeOf (s : State) (line : Nat) : Option (ParityGroup × Nat × Nat) :=
  (s.groupOf line).map fun x => (x.1, x.2, x.1.stripe x.2 ((64 * line % 2 ^ 44 - x.1.base) / 4096))

/-- Whether the home of a line defers a write to it: the line is protected and its stripe is being rebuilt (R494), or the
home is the spare and has yet to be given its unit of the stripe, which a write is to follow (R256; log 70). -/
def State.defers (s : State) (prot : Bool) (line : Nat) : Bool :=
  prot && (s.stripeOf line).any fun x =>
    x.1.busy.any fun b => b == x.2.2 || (b < x.2.2 && has x.1.adopted x.2.1)

/-- A write that its home defers waits at its source, its place in the home order being kept (R494). -/
def State.defer (s : State) (core : Option Nat) (line : Nat) (data : List (Nat × Byte)) : State :=
  let o := s.ownerOf (64 * line / 2 ^ 44)
  if (s.pkg o).deferred.contains ⟨core, line, data⟩ then s
  else s.modPkg o fun p => { p with deferred := p.deferred ++ [⟨core, line, data⟩] }

/-- A protected write counts once more on its core (R254). -/
def State.countProt (s : State) : Option Nat → State
  | some k => s.modCore k fun c => { c with prot := c.prot + 1 }
  | none => s

/-- A delta of a core's write in a group has been dropped (R257). -/
def State.noteDrop (s : State) (group : Nat) : Option Nat → State
  | some k => s.modCore k fun c => { c with dropped := addNat c.dropped group }
  | none => s

/-- ProtectedWrite (R253): the line's bytes change and each holder is sent its delta, one action.  The write counts on
its core until every delta is acknowledged (R254); a delta for a lost holder is dropped (R257). -/
def State.protectedWrite (s : State) (core : Option Nat) (line : Nat) (data : List (Nat × Byte)) : State :=
  match s.stripeOf line with
  | none => s.land line data
  | some (g, i, t) =>
    let off := (64 * line % 2 ^ 44 - g.base) % 4096
    let old := s.line line
    let s := s.land line data
    let d := old ^^^ s.line line
    let ds := s.delta g t (t % g.n) line core off d ++
      (if g.m = 2 then s.delta g t ((t + 1) % g.n) line core off (gfLine i d) else [])
    let s := { s with fresh := s.fresh + 1, deltas := s.deltas ++ ds }
    let s := if g.drops t (t % g.n) || (g.m == 2 && g.drops t ((t + 1) % g.n)) then s.noteDrop g.group core else s
    if ds.isEmpty then s else s.countProt core

/-- A write to a line of a page, protected or not, at its home. -/
def State.homeWrite (s : State) (core : Option Nat) (prot : Bool) (line : Nat) (data : List (Nat × Byte)) : State :=
  if prot then s.protectedWrite core line data else s.land line data

/-- Bytes with the lines and offsets they lie at. -/
def byLine (pa : Nat) : List Byte → List (Nat × List (Nat × Byte))
  | [] => []
  | b :: r =>
    match byLine (pa + 1) r with
    | (l, ds) :: rest =>
      if l = pa / 64 then (l, (pa % 64, b) :: ds) :: rest else (pa / 64, [(pa % 64, b)]) :: (l, ds) :: rest
    | [] => [(pa / 64, [(pa % 64, b)])]

/-- A write at its homes, one action for each 64-byte line spanned (R7, Home.Write). -/
def State.homeBytes (s : State) (core : Option Nat) (prot : Bool) (pa : Nat) (data : List Byte) : State :=
  (byLine pa data).foldl (fun s l => s.homeWrite core prot l.1 l.2) s

/-- Package id of the holder that a delta goes to. -/
def Delta.holder (d : Delta) : Nat := 64 * d.line / 2 ^ 44

/-- Whether two deltas go from one home to one holder, which applies them in the home's order (R253). -/
def Delta.sameWay (d e : Delta) : Bool := d.home == e.home && d.slice == e.slice && d.holder == e.holder

/-- A delta is acknowledged: with the last one of its write the write counts no more on its core (R254). -/
def State.ackDelta (s : State) (i : Nat) (d : Delta) : State :=
  let s := { s with deltas := modifyAt s.deltas i fun d => { d with applied := true } }
  if s.deltas.any fun e => e.write == d.write && !e.applied then s
  else
    match d.core with
    | some k => s.modCore k fun c => { c with prot := c.prot - 1 }
    | none => s

/-- A delta is applied by its holder, after the earlier ones of its home, and acknowledged (R253): a package that has been
reset holds nothing until it has joined the group again. -/
def State.applyDelta (s : State) (i : Nat) : State :=
  match s.deltas[i]? with
  | some d =>
    if d.applied || !(s.pkg (s.ownerOf d.holder)).joined || (s.deltas.take i).any fun e => !e.applied && e.sameWay d then s
    else (s.setBytes (64 * d.line) (toBytes 64 (s.line d.line ^^^ d.bits).toNat)).ackDelta i d
  | none => s

/-- Whether some of the writes with the numbers given has a delta that is not acknowledged (R253). -/
def State.unacked (s : State) (writes : List Nat) : Bool := s.deltas.any fun d => !d.applied && has writes d.write

/-- The deltas of an acknowledged write are retired from the holders' logs (R255). -/
def State.retireDelta (s : State) (i : Nat) : State :=
  match s.deltas[i]? with
  | some d =>
    if s.deltas.any fun e => e.write == d.write && !e.applied then s
    else { s with deltas := removeAt s.deltas i }
  | none => s

/-- PARITY_DELTA_APPLY (R253). -/
def execParityDeltaApply (idx : Nat) (s : State) : Out := .next (s.applyDelta idx)

/-- DELTA_RETIRE (R255). -/
def execDeltaRetire (idx : Nat) (s : State) : Out := .next (s.retireDelta idx)

end Sys2Proof.Machine
end

