-- ==== Sys2Proof/Machine/Access.lean ====
section
/-! DEFINITION. How a core's accesses reach memory (03, R48 to R53; 11, R203 to R208; 13, R243 to R245): the
first-level cache with victim pooling, the coalescing buffer, the posted-store journal, releases and acquires. -/

namespace Sys2Proof.Machine

/-! The first-level cache -/

/-- Sets of a core's cache (R48). -/
def Core.sets (c : Core) : Nat := (24 - c.spbanks) * 64

/-- Put a line first in a cache of 16 ways; the answer is the line it replaces (R48). -/
def cachePut (sets : Nat) (x : CLine) (l : List CLine) : List CLine × Option CLine :=
  let same := l.filter fun y => y.line % sets == x.line % sets
  if same.length < 16 then (x :: l, none)
  else
    match same.getLast? with
    | some v => (x :: l.erase v, some v)
    | none => (x :: l, none)

/-- Key of the core with an index in the cluster of another. -/
def sibling (k i : Nat) : Nat := k - coreIndex k + i

/-- Whether a core can be a member of the victim-pool group of `size` cores from `first` on (R53). -/
def vgrpOk (k first size : Nat) : Bool := has [1, 2, 4, 8] size && first == coreIndex k / size * size

/-- Change a core's victim-pool group: the lines that it hosts for others are discarded (log 67). -/
def Core.regroup (c : Core) (own first size : Nat) : Core :=
  { c with vgrpFirst := first, vgrpSize := size, dcache := c.dcache.filter (·.owner == own) }

/-- The member of a core's victim-pool group that hosts a line (R53). -/
def State.poolHost (s : State) (k line : Nat) : Nat :=
  let c := s.core k
  sibling k (c.vgrpFirst + line % max 1 c.vgrpSize)

/-- Fill a line into a core's cache; a victim of its own moves to the pool, where it enters as the line used last (log 67),
and a pooled victim is discarded (R48, R53). -/
def State.cacheFill (s : State) (k : Nat) (x : CLine) : Nat → State
  | 0 => s
  | n + 1 =>
    let c := s.core k
    let (l, victim) := cachePut c.sets x c.dcache
    let s := s.setCore k { c with dcache := l }
    match victim with
    | some v =>
      if v.owner = coreIndex k && 1 < c.vgrpSize && s.poolHost k v.line ≠ k then
        s.cacheFill (s.poolHost k v.line) v n
      else s
    | none => s

/-- Fill a line of a core's own (R49). -/
def State.fillLine (s : State) (k line : Nat) (ro : Bool) (data : LineBits) : State :=
  s.cacheFill k ⟨line, ro, coreIndex k, data⟩ 16

/-- Whether an entry is a core's line of a kind. -/
def CLine.is (x : CLine) (k line : Nat) (ro : Bool) : Bool :=
  x.line == line && x.ro == ro && x.owner == coreIndex k

/-- A hit on a core's own or own pooled line of a kind: it becomes the most recent, and a pooled line moves back
(R48, R49, R53). -/
def State.cacheHit (s : State) (k line : Nat) (ro : Bool) : Option (State × LineBits) :=
  let c := s.core k
  match c.dcache.find? (·.is k line ro) with
  | some x => some (s.setCore k { c with dcache := x :: c.dcache.erase x }, x.data)
  | none =>
    let h := s.poolHost k line
    if h = k || c.vgrpSize ≤ 1 then none
    else
      match (s.core h).dcache.find? (·.is k line ro) with
      | some x => some ((s.modCore h fun d => { d with dcache := d.dcache.erase x }).cacheFill k x 16, x.data)
      | none => none

/-- Write bytes into a line's pattern. -/
def patch (x : LineBits) (data : List (Nat × Byte)) : LineBits :=
  data.foldl
    (fun x d => (x &&& ~~~((0xFF : LineBits) <<< (8 * d.1))) ||| ((d.2.setWidth 512 : LineBits) <<< (8 * d.1))) x

/-- A store updates the core's ordinary line and its own pooled ordinary line (R49, R53); it is no use for the order of
replacement (log 67). -/
def State.updateLines (s : State) (k line : Nat) (data : List (Nat × Byte)) : State :=
  let f := fun (c : Core) =>
    { c with dcache := c.dcache.map fun x => if x.is k line false then { x with data := patch x.data data } else x }
  let s := s.modCore k f
  let h := s.poolHost k line
  if h = k || (s.core k).vgrpSize ≤ 1 then s else s.modCore h f

/-- The cores of a core's victim-pool group. -/
def State.pool (s : State) (k : Nat) : List Nat :=
  let c := s.core k
  if c.vgrpSize ≤ 1 then [k] else k :: ((upFrom c.vgrpFirst c.vgrpSize).map (sibling k)).filter (· ≠ k)

/-- Invalidate those of a core's lines, own and pooled, that a test picks (R51 to R53, R324). -/
def State.invalidate (s : State) (k : Nat) (p : CLine → Bool) : State :=
  (s.pool k).foldl
    (fun s h => s.modCore h fun c =>
      { c with dcache := c.dcache.filter fun x => !(x.owner == coreIndex k && p x) }) s

/-- Acquire at cluster scope or wider: ordinary lines, own and pooled, are invalidated (R51, R207). -/
def State.acquire (s : State) (k : Nat) (scope : Nat) : State :=
  if scope = 0 then s else s.invalidate k fun x => !x.ro

/-! The posted-store journal -/

/-- The lowest free entry of a journal of 64 (R244). -/
def Core.journalFree (c : Core) : Option Nat := leastFrom (fun i => c.journal.all (·.idx ≠ i)) 0 64

/-- Hold a journal entry. -/
def Core.post (c : Core) (i : Nat) (p : Posted) : Core :=
  { c with journal := c.journal ++ [⟨i, c.posts, p, .pending, c.node, [], [], []⟩], posts := c.posts + 1 }

/-- Post a store: without a free entry the core stalls (R244). -/
def post (p : Posted) : M Unit := do
  let c ← theCore
  match c.journalFree with
  | some i => modMe fun c => c.post i p
  | none => retry

/-- Lines that a posted store covers (global physical lines). -/
def State.postedLines (s : State) : Posted → List Nat
  | .line l => [l.line]
  | .rst pa data _ => (byLine pa data).map (·.1)
  | .xstore pkg parts => parts.flatMap fun p => (byLine (s.windowPa (pkg * 2048 + p.unit) p.off) p.data).map (·.1)
  | .send pkg core off _ data => (byLine (s.windowPa (pkg * 2048 + core) off) data).map (·.1)
  | _ => []

/-- Whether a core has a posted store not yet performed or refused. -/
def Core.posting (c : Core) (p : Posted → Bool) : Bool := c.journal.any fun e => e.st == .pending && p e.what

/-- Whether a core has a posted store that is not performed: a refused one never is, so that what waits for it does not
complete (R245). -/
def Core.unperformed (c : Core) (p : Posted → Bool) : Bool := c.journal.any fun e => e.st != .performed && p e.what

/-- Whether a pending RST of a core covers a line (R243). -/
def State.rstOver (s : State) (c : Core) (line : Nat) : Bool :=
  c.posting fun p =>
    match p with
    | .rst .. => (s.postedLines p).contains line
    | _ => false

/-! The coalescing buffer -/

/-- Merge bytes under a line's mask (R50). -/
def BufLine.merge (b : BufLine) (data : List (Nat × Byte)) : BufLine :=
  { b with data := data.foldl (fun l d => insert l d.1 d.2) b.data }

/-- Refusal of a store: the status, and TRAPINFO of R245. -/
def refusal (pa : Nat) (entry : Option Nat) : Word :=
  BitVec.ofNat 64
    (pa % 2 ^ 56 / 64 * 64 +
      match entry with
      | some i => 2 ^ 63 + i
      | none => 0)

/-- A buffered line is applied at its home as one action, or refused there with no effect (R205, R245). -/
def State.performLine (s : State) (w : Who) (b : BufLine) : Except (Nat × Note) State :=
  match s.answer w .store (64 * b.line + (b.data.head?.map (·.1)).getD 0) 1 with
  | (0, _) => .ok (s.homeWrite (some w.core) b.prot b.line b.data)
  | r => .error r

/-- The oldest buffered line leaves the buffer (R50): towards a home of its own package it is under way until it is
performed; towards another package it becomes a posted store, which needs a free entry (R241, R244). -/
def State.leaveOne (s : State) (k : Nat) : Option State :=
  let c := s.core k
  match c.sbuf with
  | [] => some s
  | b :: r =>
    if s.rstOver c b.line then none
    else if 64 * b.line / 2 ^ 44 = s.idOf k then some (s.setCore k { c with sbuf := r, sfly := c.sfly ++ [b] })
    else
      match c.journalFree with
      | some i => some (s.setCore k ({ c with sbuf := r }.post i (.line b)))
      | none => none

/-- Lines leave the buffer in entry order until `n` have left or one must wait. -/
def State.leaveMany (s : State) (k : Nat) : Nat → State
  | 0 => s
  | n + 1 =>
    match s.leaveOne k with
    | some s' => s'.leaveMany k n
    | none => s

/-- The `idx`-th line under way is performed at its home; an earlier line under way to the same home goes first (R206),
and a line whose home defers it stays under way (R494).  A refusal raises the asynchronous trap (R245). -/
def State.performFly (s : State) (k idx : Nat) : State :=
  let c := s.core k
  match c.sfly[idx]? with
  | none => s
  | some b =>
    if (c.sfly.take idx).any fun a => homeOf (64 * a.line) == homeOf (64 * b.line) then s
    else if s.defers b.prot b.line then s.defer (some k) b.line b.data
    else
      let s := s.setCore k { c with sfly := removeAt c.sfly idx }
      match s.performLine (s.who k) b with
      | .ok s => s
      | .error (st, n) =>
        (s.note n).asyncCause k
          { status := st, source := 2, info := refusal (64 * b.line + (b.data.head?.map (·.1)).getD 0) none }

/-- Perform every line under way, in the order in which they left, up to one that its home defers. -/
def State.performAll (s : State) (k : Nat) : Nat → State
  | 0 => s
  | n + 1 => if (s.core k).sfly.isEmpty then s else (s.performFly k 0).performAll k n

/-- Drain the buffer as far as it goes: lines of the own package are performed, others posted (R50, R207). -/
def State.drain (s : State) (k : Nat) : State :=
  let s := s.leaveMany k (s.core k).sbuf.length
  s.performAll k (s.core k).sfly.length

/-- Whether the buffer has drained. -/
def Core.drained (c : Core) : Bool := c.sbuf.isEmpty && c.sfly.isEmpty

/-- Number of buffered lines up to the last one that holds a byte of the lines given. -/
def Core.upTo (c : Core) (lines : List Nat) : Nat :=
  let hits := c.sbuf.zipIdx.filter fun b => lines.contains b.1.line
  match hits.getLast? with
  | some b => b.2 + 1
  | none => 0

/-- Force home the buffered lines that hold bytes of the lines given, with every line that entered before them
(R50, R198, R243, R374); the instruction waits while one cannot be performed yet. -/
def forceHome (lines : List Nat) : M Unit := do
  modState fun s =>
    let s := s.leaveMany s.cur (s.me.upTo lines)
    s.performAll s.cur s.me.sfly.length
  let s ← theState
  let busy := (s.me.sbuf ++ s.me.sfly).any (fun b => lines.contains b.line) || s.me.posting fun p =>
    match p with
    | .line l => lines.contains l.line
    | _ => false
  if busy then leave else pure ()

/-- Place bytes of one line in the buffer (R50). -/
def State.buffer (s : State) (k line : Nat) (prot : Bool) (data : List (Nat × Byte)) : State :=
  s.modCore k fun c =>
    match indexOf? (fun b => b.line == line) c.sbuf with
    | some i => { c with sbuf := modifyAt c.sbuf i (·.merge data) }
    | none => { c with sbuf := c.sbuf ++ [BufLine.merge ⟨line, [], prot⟩ data] }

/-- A store that needs a 33rd line sends the oldest lines home, and stalls while one of them finds no journal entry
(R50, R244): `wait` marks that its bytes are placed. -/
def settle : M Unit := do
  modState fun s => s.leaveMany s.cur (s.me.sbuf.length - 32)
  let c ← theCore
  if 32 < c.sbuf.length then
    modMe fun c => { c with wait := .arrived }
    leave

/-! Releases and acquires -/

/-- Whether the stores that a release at a scope waits for are performed (R207): the buffer, at scope 1 and wider X
stores and posted stores homed in this package, at scope 4 and wider the whole journal (R244). -/
def State.released (s : State) (k scope : Nat) : Bool :=
  let c := s.core k
  c.drained &&
    if 4 ≤ scope then c.journal.isEmpty
    else
      !c.unperformed fun p =>
        match p with
        | .xstore .. | .send .. | .pipe .. => true
        | .rst pa .. => pa / 2 ^ 44 == s.idOf k
        | _ => false

/-- FENCE.rel at a scope (R207).  At scope 0 every buffered line sets out for its home (R50), the release stalling while one
finds no journal entry (R244), and is not waited for there: loads and L accesses are performed by then (log 2).  A refusal
that has reached the core keeps a wider release from completing (R245). -/
def fenceRel (scope : Nat) : M Unit := do
  if scope = 0 then
    modState fun s => s.leaveMany s.cur s.me.sbuf.length
    let c ← theCore
    if c.sbuf.isEmpty then pure () else leave
  else
    modState fun s => s.drain s.cur
    let s ← theState
    if s.released s.cur scope && s.me.asyncTrap.isNone then pure () else leave

/-- FENCE.acq at a scope (R207). -/
def fenceAcq (scope : Nat) : M Unit := modState fun s => s.acquire s.cur scope

/-- Numeric code of a scope (R207). -/
def scopeNum (s : Scope) : Nat := s.code.toNat

/-- The release of an order (R208). -/
def orderRel (o : Ord) (sc : Scope) : M Unit :=
  match o with
  | .rel | .ar => fenceRel (scopeNum sc)
  | _ => pure ()

/-- The acquire of an order (R208). -/
def orderAcq (o : Ord) (sc : Scope) : M Unit :=
  match o with
  | .acq | .ar => fenceAcq (scopeNum sc)
  | _ => pure ()

end Sys2Proof.Machine
end

