-- ==== Sys2Proof/Machine/Operands.lean ====
section
/-! DEFINITION. Operand forms: effective addresses and the checks of R41, R144 and R317 in the four spaces, the places
they name, and the loading and storing of bytes there (16, R316 to R321); the elements and masks of vector registers
(12, R235, R236). -/

namespace Sys2Proof.Machine

/-- Where an access reaches: bytes of memory through the cache (with the page's protected bit), a storage window
(R470), the scratchpad of the issuing core, the scratchpad of a peer (R40). -/
inductive Place where
  | mem (pa : Nat) (prot : Bool)
  | foreign (win off : Nat) (hs : Bool)
  | own (off : Nat)
  | peer (core off : Nat)
deriving DecidableEq, Repr

/-- Effective address of an M tail: s[base] + SignExt(offset) (R316). -/
def memEa (o : MemOp) (r : Regs) : Word := r.rs o.base + signExt o.offset

/-- Effective address of RLD and RST (R321). -/
def homeEa (o : HomeOp) (r : Regs) : Word := r.rs o.base + signExt o.offset

/-- Effective address of a C-format atomic (R316). -/
def atomEa (o : AtomOp) (r : Regs) : Word := r.rs o.a + signExt o.off8

/-- Effective address of WAITA (R316). -/
def waitaEa (o : WaitaOp) (r : Regs) : Word := r.rs o.a + signExt o.off8

/-- Effective address of SEND (R336). -/
def sendEa (o : SendOp) (r : Regs) : Word := r.rs o.a + signExt o.off8

/-- Effective address of ENQ and ENQM (R374). -/
def enqEa (o : EnqOp) (r : Regs) : Word := r.rs o.base + signExt o.offset

/-- Fault with the address of the first byte that failed (R451). -/
def badAddr {α : Type} (status a : Nat) : M α := fault status (addrInfo status a)

/-- DeclCheck: bytes of L space below scratch (R144). -/
def declCheck (ea n : Nat) : M Unit := do
  let c ← theCore
  match c.mode, c.task with
  | .task, some t => if t.hdr.scratch < ea + n then badAddr 0x21 (max ea t.hdr.scratch) else pure ()
  | _, _ => pure ()

/-- Where an X access of a core goes: the target serves a task of the issuer's node, or forwards it, or makes it wait,
or refuses it (R459); an issuer without a task is served (log 20). -/
inductive XRoute where
  | here (core : Nat)
  | later (core : Nat)
  | refused
deriving DecidableEq, Repr

/-- R459 at a target core, for accesses issued by a task of a node, along at most `n` forwarding entries. -/
def State.xRouteFrom (s : State) (nd : NodeKey) : Nat → Nat → XRoute
  | 0, _ => .refused
  | n + 1, target =>
    if (s.core target).node = some nd then .here target
    else
      match (s.core target).fwd.find? (·.node == nd) with
      | some e =>
        match e.core with
        | some c => s.xRouteFrom nd n c
        | none => .later target
      | none => .refused

/-- R459 at a target core. -/
def State.xRoute (s : State) (node : Option NodeKey) (target : Nat) : XRoute :=
  match node with
  | none => .here target
  | some nd => s.xRouteFrom nd 64 target

/-- Local base of a die's vault window (R43). -/
def vaultBase (die : Nat) : Nat := 0x100_0000_0000 + die * 0x8000_0000

/-- The checks of R41 on `n` bytes at an address of a space, in order, and the place they name.  Check 5 is made for an
X access that waits for its answer (R42); a posted one passes `posted`. -/
def resolve (space : Space) (need : Need) (posted : Bool) (ea n : Nat) : M Place := do
  let s ← theState
  match space with
  | .g =>
    let (pa, l) ← translate need ea
    if l.f then pure (.foreign (pa / 2 ^ 48) (pa % 2 ^ 48) l.hs) else pure (.mem pa l.pr)
  | .l =>
    let top := s.me.spbanks * 0x1_0000
    if 2 ^ 20 ≤ ea then badAddr 0x22 ea
    else if top < ea + n then badAddr 0x22 (max ea top)
    else pure (.own ea)
  | .x =>
    if 2 ^ 26 ≤ ea ∨ 47 < ea / 2 ^ 20 then badAddr 0x23 ea
    else
      let k := sibling s.cur (ea / 2 ^ 20)
      let off := ea % 2 ^ 20
      if posted then pure (.peer k off)
      else
        match s.xRoute s.me.node k with
        | .later _ => retry
        | .refused => badAddr 0x2A ea
        | .here k =>
          let top := (s.core k).spbanks * 0x1_0000
          if top < off + n then badAddr 0x22 (ea - off + max off top) else pure (.peer k off)
  | .v =>
    if 2 ^ 31 ≤ ea then badAddr 0x24 ea
    else if 0x8000_0000 < ea + n then badAddr 0x24 0x8000_0000
    else pure (.mem (s.idOf s.cur * 2 ^ 44 + vaultBase (coreDie s.cur % 4) + ea) false)

/-- CheckAccess(ea, n, space) (R317). -/
def checkAccess (space : Space) (need : Need) (posted : Bool) (ea : Word) (n : Nat) : M Place := do
  if space = .l then declCheck ea.toNat n
  if ea.toNat % n ≠ 0 then badAddr 0x29 ea.toNat
  resolve space need posted ea.toNat n

/-! Loading -/

/-- Kinds of load (R318). -/
inductive Kind where
  | plain | nc | ro
deriving DecidableEq, Repr

/-- The bytes of a line that the core's own stores hold on their way: lines that left the buffer, then the buffer
(R203). -/
def State.ownBytes (s : State) (k line : Nat) : List (Nat × Byte) :=
  let c := s.core k
  let fly := (c.sfly.filter (·.line == line)).map (·.data)
  let posted := c.journal.filterMap fun e =>
    match e.what, e.st with
    | .line b, .pending => if b.line = line then some b.data else none
    | _, _ => none
  let held := (c.sbuf.filter (·.line == line)).map (·.data)
  (posted ++ fly ++ held).foldl (fun l d => d.foldl (fun l x => insert l x.1 x.2) l) []

/-- Bytes of a line's pattern. -/
def lineBytes (x : LineBits) (off n : Nat) : List Byte := toBytes n (x.toNat / 2 ^ (8 * off))

/-- Whether the core has a posted store under way that a load of the line must follow (R243). -/
def State.mustFollow (s : State) (k line : Nat) (kind : Kind) : Bool :=
  (s.core k).posting fun p =>
    match p with
    | .line b => kind == .ro && b.line == line
    | p => (s.postedLines p).contains line

/-- Whether the current core has a posted store under way over bytes of a core's scratchpad, which its own later accesses
to them follow (R243, R211). -/
def State.postedOver (s : State) (k off n : Nat) : Bool :=
  let a := s.windowPa k off
  (upFrom (a / 64) ((a + n + 63) / 64 - a / 64)).any fun l => s.mustFollow s.cur l .plain

/-- Load `n` bytes within one line from the sources of R203 that the kind consults (R49).  A filled line takes the
core's own buffered bytes with it, and a load all of whose bytes the core's own buffer holds neither misses nor counts as a
use of a line (DESIGN CHOICE, log 15). -/
def loadLine (kind : Kind) (pa n va : Nat) : M (List Byte) := do
  let s ← theState
  let k := s.cur
  let line := pa / 64
  if s.mustFollow k line kind then retry
  else
    let own := if kind = .ro then [] else s.ownBytes k line
    let mine := (upFrom (pa % 64) n).all fun i => (find? own i).isSome
    let ovr := fun (x : LineBits) => lineBytes (patch x own) (pa % 64) n
    match (if kind = .nc then none else s.cacheHit k line (kind = .ro)) with
    | some (s, x) => do
      setState s
      pure (ovr x)
    | none =>
      if mine then pure (ovr 0)
      else
        match (if kind = .nc then s.homeRead (s.who k) .load pa n else s.fillRead (s.who k) .load pa n) with
        | .error e => homeFault e va
        | .ok _ => do
          let x := s.line line
          if kind ≠ .nc then setState (s.fillLine k line (kind = .ro) (patch x own))
          pure (ovr x)

/-- Key of a byte behind a storage window. -/
def winKey (pkg win off : Nat) : Nat := pkg * 2 ^ 56 + win * 2 ^ 48 + off

/-- Bytes behind a storage window (R470). -/
def State.winBytes (s : State) (pkg win off n : Nat) : List Byte :=
  (upFrom (winKey pkg win off) n).map (look s.winMem 0)

/-- Write bytes behind a storage window. -/
def State.setWin (s : State) (pkg win off : Nat) (data : List Byte) : State :=
  { s with
    winMem := ((upFrom (winKey pkg win off) data.length).zip data).foldl (fun m c => put m 0 c.1 c.2) s.winMem }

/-- Read a scratchpad: its interface answers (R42), an uncorrectable error faults (R10). -/
def readSpad (k off n va : Nat) : M (List Byte) := do
  let s ← theState
  let pa := s.windowPa k off
  if s.bad pa n then homeFault (0x26, .memue (corePkg k)) va
  else pure (s.bytes pa n)

/-- Load(kind, ea, n, space) of bytes that lie in one line (R318). -/
def loadPlace (kind : Kind) (n va : Nat) : Place → M (List Byte)
  | .mem pa _ => loadLine kind pa n va
  | .own off => do
    let s ← theState
    if s.postedOver s.cur off n then retry else readSpad s.cur off n va
  | .peer k off => do
    let s ← theState
    if s.postedOver k off n then retry else readSpad k off n va
  | .foreign w off _ => do
    let s ← theState
    let ovr := s.me.posting fun p =>
      match p with
      | .foreign ps => ps.any fun q => q.unit == w && q.off < off + n && off < q.off + q.data.length
      | _ => false
    if ovr then retry else pure (s.winBytes (corePkg s.cur) w off n)

/-! Storing -/

/-- Merge the bytes that a store places in memory lines: the last value of a byte counts (R358); the answer lists, for
each line, its page's protected bit and its bytes. -/
def memLines : List (Place × List Byte) → List (Nat × Bool × List (Nat × Byte)) → List (Nat × Bool × List (Nat × Byte))
  | [], acc => acc
  | (.mem pa prot, data) :: r, acc =>
    memLines r
      ((byLine pa data).foldl
        (fun acc l =>
          let old := ((find? acc l.1).map (·.2)).getD []
          insert acc l.1 (prot, l.2.foldl (fun m d => insert m d.1 d.2) old))
        acc)
  | _ :: r, acc => memLines r acc

/-- A command that may miss a store of its core to `n` bytes of its scratchpad keeps what they held (R91). -/
def Cmd.miss (c : Cmd) (s : State) (pa n : Nat) : Cmd :=
  { c with missed := (upFrom pa n).foldl (fun m a => insert m a (s.byte a :: (find? m a).getD [])) c.missed }

/-- A store of a core to `n` bytes at a physical address of a scratchpad is about to be performed: those of its queued and
running commands that were pushed before it see or miss it byte by byte (R91, R216). -/
def State.missAt (s : State) (k pa n : Nat) (pushed : Cmd → Bool) : State :=
  let e := (s.core k).eng
  if e.mat.isEmpty && e.cpy.isEmpty then s
  else
    let f := fun (c : Cmd) => if pushed c then c.miss s pa n else c
    s.modCore k fun c => { c with eng := { c.eng with mat := c.eng.mat.map f, cpy := c.eng.cpy.map f } }

/-- A store of a core to `n` bytes of its own scratchpad is about to be performed (R91). -/
def State.missStore (s : State) (k off n : Nat) : State := s.missAt k (s.windowPa k off) n fun _ => true

/-- The core is about to store to the places in its scratchpad that a store instruction names: what its commands may miss is
what stood there before the instruction, so that none observes a lower element's value (R91, R358). -/
def State.missAll (s : State) (k : Nat) (l : List (Place × List Byte)) : State :=
  l.foldl
    (fun s x => match x.1 with
      | .own off => s.missStore k off x.2.length
      | _ => s) s

/-- The places of a store instruction in the scratchpad are written. -/
def State.ownStores (s : State) (k : Nat) (l : List (Place × List Byte)) : State :=
  l.foldl
    (fun s x => match x.1 with
      | .own off => s.homeBytes none false (s.windowPa k off) x.2
      | _ => s) s

/-- Store(ea, n, space, data) at the places of one store instruction (R318, R49, R50, R358): memory lines enter the
buffer and update the core's own lines, the scratchpad is written, after the core's own posted stores to the same bytes
(R243), peers and storage windows are posted to as one store. -/
def storePlaces (l : List (Place × List Byte)) : M Unit := do
  let s ← theState
  let k := s.cur
  let held := l.any fun x => match x.1 with
    | .own off => s.postedOver k off x.2.length
    | _ => false
  if held then retry
  let peers := l.filterMap fun x => match x.1 with
    | .peer c off => some (c, (⟨coreNo c, off, x.2⟩ : Part))
    | _ => none
  let wins := l.filterMap fun x => match x.1 with
    | .foreign w off _ => some (⟨w, off, x.2⟩ : Part)
    | _ => none
  match peers with
  | [] => pure ()
  | p :: _ => post (.xstore (corePkg p.1) (peers.map (·.2)))
  match wins with
  | [] => pure ()
  | ps => post (.foreign ps)
  modState fun s => (s.missAll k l).ownStores k l
  modState fun s => (memLines l []).foldl
    (fun s x => (s.updateLines k x.1 x.2.2).buffer k x.1 x.2.1 x.2.2) s
  settle

/-! Vector operands -/

/-- Element i of a register at width w (R235). -/
def elemAt (w : Nat) (x : VWord) (i : Nat) : Nat := x.toNat / 2 ^ (w * i) % 2 ^ w

/-- The elements of a register at width w, element 0 first (R235). -/
def elems (w : Nat) (x : VWord) : List Nat := (upFrom 0 (2048 / w)).map (elemAt w x)

/-- A register from its elements (R235). -/
def ofElems (w : Nat) : List Nat → Nat
  | [] => 0
  | x :: r => x % 2 ^ w + 2 ^ w * ofElems w r

/-- A register from its elements. -/
def vword (w : Nat) (l : List Nat) : VWord := BitVec.ofNat 2048 (ofElems w l)

/-- The first `n` mask bits (R236). -/
def maskBits (m : MWord) (n : Nat) : List Bool := (upFrom 0 n).map m.getLsbD

/-- Elements where the mask bit is 1, the old ones elsewhere (R236). -/
def blend : List Bool → List Nat → List Nat → List Nat
  | b :: bs, x :: xs, y :: ys => (if b then x else y) :: blend bs xs ys
  | _, _, _ => []

/-- Number whose bit i is the i-th truth value. -/
def ofBools : List Bool → Nat
  | [] => 0
  | b :: r => (if b then 1 else 0) + 2 * ofBools r

/-- A mask whose low `n` bits are given and whose other bits are kept (R32, R236). -/
def maskWith (old : MWord) (bs : List Bool) : MWord :=
  BitVec.ofNat 256 (old.toNat / 2 ^ bs.length * 2 ^ bs.length + ofBools bs)

/-- The bytes of a register from byte 0 on (R336). -/
def vbytes (x : VWord) (n : Nat) : List Byte := toBytes n x.toNat

/-- A register whose low bytes are given, zero above (R321, R338). -/
def ofVbytes (bs : List Byte) : VWord := BitVec.ofNat 2048 (ofBytes bs)

end Sys2Proof.Machine
end

