-- ==== Sys2Proof/Machine/Memory.lean ====
section
/-! DEFINITION. Loads, stores, accesses at the home, full-empty words, prefetch and invalidation, fences (16, R319 to
R324, R329, R330; 10, R192 to R194; 13, R242, R243, R254, R257). -/

namespace Sys2Proof.Machine

/-! Loads and stores -/

/-- R319 for a load. -/
def loadInstr (kind : Kind) (o : MemOp) : M Unit := do
  let c ← theCore
  let ea := memEa o c.regs
  let p ← checkAccess o.space .r false ea o.ty.size
  orderRel o.order o.scope
  let bs ← loadPlace kind o.ty.size ea.toNat p
  wrS o.d (extend (ofBytes bs) o.ty)
  orderAcq o.order o.scope

/-- LD (R319). -/
def execLd (g : Guard) (o : MemOp) (s : State) : Out := instr g [o.base, o.d] [] (loadInstr .plain o) s

/-- LD.nc (R319). -/
def execLdNc (g : Guard) (o : MemOp) (s : State) : Out := instr g [o.base, o.d] [] (loadInstr .nc o) s

/-- LD.ro (R319). -/
def execLdRo (g : Guard) (o : MemOp) (s : State) : Out := instr g [o.base, o.d] [] (loadInstr .ro o) s

/-- ST.acq and ST.ar acquire only after the store is performed at its homes (R319): its lines are sent home, and the
instruction waits until nothing of it is under way. -/
def awaitStore (ps : List Place) : M Unit := do
  forceHome (ps.filterMap fun p => match p with
    | .mem pa _ => some (pa / 64)
    | _ => none)
  let s ← theState
  let under := fun (q : Posted) => match q with
    | .xstore .. => ps.any fun p => match p with
      | .peer k off => (s.postedLines q).contains (s.windowPa k off / 64)
      | _ => false
    | .foreign qs => ps.any fun p => match p with
      | .foreign w .. => qs.any fun x => x.unit == w
      | _ => false
    | _ => false
  if s.me.unperformed under then leave else pure ()

/-- The acquire of a store: `wait` of the core marks a store already made, whose performance is awaited. -/
def acquireStore (order : Ord) (scope : Scope) (ps : List Place) : M Unit :=
  match order with
  | .acq | .ar => do
    modMe fun c => { c with wait := .arrived }
    awaitStore ps
    fenceAcq (scopeNum scope)
  | _ => pure ()

/-- The release, the store and the acquire of a store instruction. -/
def storeWith (order : Ord) (scope : Scope) (l : List (Place × List Byte)) : M Unit := do
  let c ← theCore
  if c.wait = .arrived then settle
  else
    orderRel order scope
    storePlaces l
  acquireStore order scope (l.map (·.1))

/-- R319 for a store. -/
def storeInstr (o : MemOp) : M Unit := do
  let c ← theCore
  let ea := memEa o c.regs
  let p ← checkAccess o.space .w true ea o.ty.size
  storeWith o.order o.scope [(p, toBytes o.ty.size (c.regs.rs o.d).toNat)]

/-- ST (R319). -/
def execSt (g : Guard) (o : MemOp) (s : State) : Out := instr g [o.base, o.d] [] (storeInstr o) s

/-! Reads and writes at the home -/

/-- Access size of RLD and RST (R321). -/
def sizeHome (o : HomeOp) : Nat := 8 * 2 ^ o.z.toNat

/-- Registers of RLD and RST: scalar for 8 bytes, else vector (R321). -/
def regsHome (o : HomeOp) : List Reg × List Reg :=
  if o.z = 0 then ([o.base, o.d], []) else ([o.base], [o.d])

/-- RLD (R242, R321): read at the homes, nothing forwarded; it follows the core's own posted stores (R243). -/
def rldInstr (o : HomeOp) : M Unit := do
  let c ← theCore
  let ea := homeEa o c.regs
  let p ← checkAccess .g .r false ea (sizeHome o)
  orderRel o.order o.scope
  let s ← theState
  let bs ←
    match p with
    | .mem pa _ =>
      if ((byLine pa (s.bytes pa (sizeHome o))).any fun l => s.mustFollow s.cur l.1 .ro) then retry
      else
        match s.homeRead (s.who s.cur) .load pa (sizeHome o) with
        | .ok bs => pure bs
        | .error e => homeFault e ea.toNat
    | p => loadPlace .nc (sizeHome o) ea.toNat p
  if o.z = 0 then wrS o.d (BitVec.ofNat 64 (ofBytes bs))
  else modMe fun c => { c with regs := c.regs.wv o.d.toNat (ofVbytes bs) }
  orderAcq o.order o.scope

/-- RLD. -/
def execRld (g : Guard) (o : HomeOp) (s : State) : Out := instr g (regsHome o).1 (regsHome o).2 (rldInstr o) s

/-- RST (R243, R321): buffered lines of the same lines go home first, then one journal entry is posted. -/
def rstInstr (o : HomeOp) : M Unit := do
  let c ← theCore
  let ea := homeEa o c.regs
  let p ← checkAccess .g .w true ea (sizeHome o)
  let data := if o.z = 0 then toBytes 8 (c.regs.rs o.d).toNat else vbytes (c.regs.rv o.d.toNat) (sizeHome o)
  match p with
  | .mem pa prot => do
    if c.wait ≠ .arrived then
      orderRel o.order o.scope
      forceHome ((byLine pa data).map (·.1))
      post (.rst pa data prot)
    match o.order with
    | .acq | .ar => do
      modMe fun c => { c with wait := .arrived }
      let s ← theState
      if (byLine pa data).any fun l => s.rstOver s.me l.1 then leave else fenceAcq (scopeNum o.scope)
    | _ => pure ()
  | p => storeWith o.order o.scope [(p, data)]

/-- RST. -/
def execRst (g : Guard) (o : HomeOp) (s : State) : Out := instr g (regsHome o).1 (regsHome o).2 (rstInstr o) s

/-! Full-empty words -/

/-- Whether a form is admitted by the word's bit (R192). -/
def FeForm.admits (f : FeForm) (full : Bool) : Bool :=
  match f with
  | .ff | .fe => full
  | .ef => !full
  | .sf | .se => true

/-- The bit after a form (R192). -/
def FeForm.after : FeForm → Bool
  | .ff | .ef | .sf => true
  | .fe | .se => false

/-- Whether a form writes the word. -/
def FeForm.stores : FeForm → Bool
  | .ef | .sf | .se => true
  | _ => false

/-- Full-empty bit of the word at an address (R57). -/
def State.full (s : State) (pa : Nat) : Bool := has s.fe (pa / 8)

/-- One full-empty action at the home (R192): the state and the word read.  Every STFE and an LDFE.fe land in the line
(R196). -/
def State.feDo (s : State) (core : Nat) (prot : Bool) (pa : Nat) (f : FeForm) (data : Word) : State × Word :=
  let old := BitVec.ofNat 64 (s.num pa 8)
  let s :=
    if f.stores then s.homeBytes (some core) prot pa (toBytes 8 data.toNat)
    else if f = .fe then s.wake (pa / 64)
    else s
  ({ s with fe := putNat s.fe (pa / 8) f.after }, old)

/-- Whether the home defers a request that it would perform (R494). -/
def State.feDefers (s : State) (r : FeReq) : Bool := r.form.stores && s.defers r.prot (r.word / 64)

/-- Whether `n` bytes at a scratchpad offset pass check 5 of R41 at a core. -/
def State.spadOk (s : State) (k off n : Nat) : Bool := off + n ≤ (s.core k).spbanks * 0x1_0000

/-- The core in whose window a physical address lies (R43). -/
def State.coreAt (s : State) (pa : Nat) : Nat := s.ownerOf (pa / 2 ^ 44) * 2048 + (homeSlice (pa % 2 ^ 44) - 256)

/-- Where a request goes now: the one of an X access is served against the running task of its issuer's node (R459). -/
def State.feRoute (s : State) (r : FeReq) : XRoute := s.xRoute r.node (s.coreAt r.word)

/-- Whether a request stands where it is served (R459). -/
def State.feHere (s : State) (r : FeReq) : Bool := r.node.isNone || decide (s.feRoute r = .here (s.coreAt r.word))

/-- An admitted request is performed at its home, which checks it as it performs it: the core has its word, or the status
of its fault (R10, R192, R476, R478). -/
def State.feGrant (s : State) (r : FeReq) : State :=
  match s.homeRead (s.who r.core) .atomic r.word 8 with
  | .ok _ =>
    let (s, old) := s.feDo r.core r.prot r.word r.form r.data
    s.modCore r.core fun c => { c with wait := .fe (some old) }
  | .error (st, n) => (s.note n).modCore r.core fun c => { c with wait := .failed st }

/-- Serve(w): while a waiting request on the word is admitted, the earliest is performed (R193), unless its home defers
it (R494); one whose target's task has left its core waits (R459). -/
def State.serve (s : State) (pa : Nat) : Nat → State
  | 0 => s
  | n + 1 =>
    match indexOf? (fun r => !r.nack && r.word == pa && r.form.admits (s.full pa) && s.feHere r) s.feWait with
    | none => s
    | some i =>
      match s.feWait[i]? with
      | none => s
      | some r => if s.feDefers r then s else ({ s with feWait := removeAt s.feWait i }.feGrant r).serve pa n

/-- A request at the home: performed if the bit admits it, else it joins the list of its home, of 256 entries at a
slice and 64 at a network interface; a full list refuses it (R193). -/
def State.feRequest (s : State) (r : FeReq) : State :=
  if r.form.admits (s.full r.word) then
    let was := s.full r.word
    let s := s.feGrant r
    if was = s.full r.word then s else s.serve r.word s.feWait.length
  else
    let home := homeOf r.word
    let room := if home.2 < 256 then 256 else 64
    let held := s.feWait.filter fun q => !q.nack && homeOf q.word == home
    let s := s.modCore r.core fun c => { c with wait := .fe none }
    { s with feWait := s.feWait ++ [{ r with nack := room ≤ held.length }] }

/-- The core's own buffered line over bytes of a scratchpad window goes home before an atomic or a full-empty access to
them, with the lines before it (R198). -/
def windowHome (k off : Nat) : M Unit := do
  let s ← theState
  let line := s.windowPa k off / 64
  if (s.me.sbuf ++ s.me.sfly).any (·.line == line) then forceHome [line]

/-- Physical address of the word a full-empty access or atomic acts on: lines of the own buffer go home first (R198),
and posted stores over the line are performed first. -/
def atHome (p : Place) (kind : AccKind) (n : Nat) (ea : Word) : M (Nat × Bool) := do
  match p with
  | .mem pa prot => do
    forceHome [pa / 64]
    let s ← theState
    if s.mustFollow s.cur (pa / 64) .ro then leave
    else
      match s.homeRead (s.who s.cur) kind pa n with
      | .ok _ => pure (pa, prot)
      | .error e => homeFault e ea.toNat
  | .own off => do
    let s ← theState
    windowHome s.cur off
    let s ← theState
    if s.postedOver s.cur off n then leave
    else
      let _ ← readSpad s.cur off n ea.toNat
      pure (s.windowPa s.cur off, false)
  | .peer k off => do
    windowHome k off
    let s ← theState
    if s.postedOver k off n then leave
    else
      let _ ← readSpad k off n ea.toNat
      pure (s.windowPa k off, false)
  | .foreign .. => fault 0x2B ea

/-- Whether a place is the scratchpad of a peer, which an X access names. -/
def Place.isPeer : Place → Bool
  | .peer .. => true
  | _ => false

/-- LDFE and STFE (R322): checks, release, the action of R192, acquire.  A waiting access goes on when its list has
served it. -/
def feInstr (form : FeForm) (o : MemOp) : M Unit := do
  let c ← theCore
  let ea := memEa o c.regs
  match c.wait with
  | .fe (some v) => do
    if !form.stores then wrS o.d v
    orderAcq o.order o.scope
  | .fe none => leave
  | .failed st => fault st (addrInfo st ea.toNat)
  | _ => do
    let need : Need := if form.stores then .w else if form = .fe then .rw else .r
    let p ← checkAccess o.space need false ea 8
    match p with
    | .foreign .. => fault 0x2B ea
    | _ => pure ()
    orderRel o.order o.scope
    let (pa, prot) ← atHome p .atomic 8 ea
    let s ← theState
    let r : FeReq := ⟨s.cur, pa, form, c.regs.rs o.d, prot, false, if p.isPeer then c.node else none⟩
    if s.feDefers r then leave
    setState (s.feRequest r)
    let c ← theCore
    match c.wait with
    | .fe (some v) => do
      if !form.stores then wrS o.d v
      orderAcq o.order o.scope
    | _ => leave

/-- LDFE.ff (R192, R322). -/
def execLdfeFf (g : Guard) (o : MemOp) (s : State) : Out := instr g [o.base, o.d] [] (feInstr .ff o) s

/-- LDFE.fe (R192, R322). -/
def execLdfeFe (g : Guard) (o : MemOp) (s : State) : Out := instr g [o.base, o.d] [] (feInstr .fe o) s

/-- STFE.ef (R192, R322). -/
def execStfeEf (g : Guard) (o : MemOp) (s : State) : Out := instr g [o.base, o.d] [] (feInstr .ef o) s

/-- STFE.sf (R192, R322). -/
def execStfeSf (g : Guard) (o : MemOp) (s : State) : Out := instr g [o.base, o.d] [] (feInstr .sf o) s

/-- STFE.se (R192, R322). -/
def execStfeSe (g : Guard) (o : MemOp) (s : State) : Out := instr g [o.base, o.d] [] (feInstr .se o) s

/-- A waiting X request whose target's task has left its core is forwarded to the core where that task runs, or refused
where the core knows nothing of the node (R459). -/
def State.feForward (s : State) (idx : Nat) (r : FeReq) : State :=
  let s' : State := { s with feWait := removeAt s.feWait idx }
  let off := r.word % 0x20_0000
  match s.feRoute r with
  | .later _ => s
  | .refused => s'.modCore r.core fun c => { c with wait := .failed 0x2A }
  | .here k =>
    if s.spadOk k off 8 then s'.feRequest { r with word := s.windowPa k off, nack := false }
    else s'.modCore r.core fun c => { c with wait := .failed 0x22 }

/-- FE_REQUEST_REISSUE: a refused request is issued again and joins behind every request already there (R193), and one whose
target has moved goes on to it (R459). -/
def execFeRequestReissue (idx : Nat) (s : State) : Out :=
  match s.feWait[idx]? with
  | some r =>
    .next (if !s.feHere r then s.feForward idx r
      else if r.nack && !s.feDefers r then { s with feWait := removeAt s.feWait idx }.feRequest { r with nack := false }
      else s)
  | none => .next s

/-! Fences -/

/-- FENCE.acq (R207, R329). -/
def execFenceAcq (g : Guard) (scope : Scope) (s : State) : Out := instr g [] [] (fenceAcq (scopeNum scope)) s

/-- Whether a core's group is degraded, so that SFENCE faults (R257, R494). -/
def State.degraded (s : State) (k : Nat) : Bool :=
  match (s.pkg (corePkg k)).parity with
  | some g => (s.pkg (corePkg k)).joined && g.state != 0
  | none => false

/-- The wait of SFENCE (R254): it faults where the core's own group is degraded, or where a delta of one of the core's
writes was dropped (R257). -/
def survive : M Unit := do
  let s ← theState
  if s.degraded s.cur || s.me.dropped != [] then faultAfter 0x52
  else if s.me.prot = 0 then pure ()
  else leave

/-- FENCE.rel (R207, R329). -/
def execFenceRel (g : Guard) (scope : Scope) (s : State) : Out :=
  instr g [] []
    (do
      fenceRel (scopeNum scope)
      if scope = .surv then survive)
    s

/-- FENCE.ar (R207, R329). -/
def execFenceAr (g : Guard) (scope : Scope) (s : State) : Out :=
  instr g [] []
    (do
      fenceRel (scopeNum scope)
      if scope = .surv then survive
      fenceAcq (scopeNum scope))
    s

/-- SFENCE (R254, R330). -/
def execSfence (g : Guard) (s : State) : Out :=
  instr g [] []
    (do
      fenceRel 4
      survive)
    s

/-! Prefetch and invalidation -/

/-- A prefetch of the line at a physical address: an ordinary load, which follows the core's own posted stores (R243); an
uncorrectable error and a refusal raise nothing, a world refusal is logged (R323). -/
def prefetchAt (pa : Nat) : M Unit := do
  let s ← theState
  let k := s.cur
  if s.mustFollow k (pa / 64) .plain then retry
  else
    match s.cacheHit k (pa / 64) false with
    | some (s, _) => setState s
    | none =>
      match s.homeRead (s.who k) .load (pa / 64 * 64) 64 with
      | .ok _ => setState (s.fillLine k (pa / 64) false (patch (s.line (pa / 64)) (s.ownBytes k (pa / 64))))
      | .error (0x60, n) => setState (s.note n)
      | .error _ => pure ()

/-- PREF (R323): the line in G and V; what does not translate is ignored, L and X do nothing. -/
def prefetch (space : Space) (ea : Word) : M Unit := do
  let s ← theState
  let k := s.cur
  match space with
  | .g =>
    match s.translate (s.who k) .r ea.toNat with
    | (s, .at_ pa l) => do
      setState s
      if !l.f then prefetchAt pa
    | (s, .bad _ n) => setState (s.note n)
    | (s, .walks) => do
      setState s
      awaitWalk
  | .v => if ea.toNat < 2 ^ 31 then prefetchAt (s.idOf k * 2 ^ 44 + vaultBase (coreDie k % 4) + ea.toNat) else pure ()
  | _ => pure ()

/-- PREF. -/
def execPref (g : Guard) (offset : BitVec 24) (space : Space) (base : Reg) (s : State) : Out :=
  instr g [base] [] (prefetch space (s.me.regs.rs base + signExt offset)) s

/-- The physical ranges of a range of virtual addresses, unit of 4 KiB by unit from `unit` on, `n` of them, with what
the TLBs keep of the walks; what does not translate or is foreign is skipped (R324), a world refusal of a walk is logged
(R477). -/
def cinvRanges (lo hi : Nat) : Nat → Nat → M (List (Nat × Nat))
  | 0, _ => pure []
  | n + 1, unit => do
    let va := unit % 2 ^ 52 * 4096
    let s ← theState
    let (t, page) := if canonical va then s.pageOf (s.who s.cur) (va % 2 ^ 57) else (s, .bad 0x25 .none)
    setState t
    match page with
    | .page l => do
      let pa := l.pa + (va % 2 ^ 57 - l.base)
      let r ← cinvRanges lo hi n (unit + 1)
      pure (if l.f then r else (pa + (lo - unit * 4096), pa + min 4096 (hi - unit * 4096)) :: r)
    | .bad _ note => do
      modState (·.note note)
      cinvRanges lo hi n (unit + 1)
    | .walks => awaitWalk

/-- The physical ranges that CINV names: the whole of G or V for a length of 0, nothing in L and X (R324). -/
def cinvArea (space : Space) (ea len : Word) : M (List (Nat × Nat)) := do
  let s ← theState
  let lo := ea.toNat
  let hi := lo + len.toNat
  match space with
  | .l | .x => pure []
  | .v =>
    let base := s.idOf s.cur * 2 ^ 44 + vaultBase (coreDie s.cur % 4)
    pure (if len = 0 then [(0, 2 ^ 56)]
      else if lo < 0x8000_0000 then [(base + lo, base + min 0x8000_0000 hi)] else [])
  | .g =>
    if len = 0 then pure [(0, 2 ^ 56)]
    else cinvRanges lo hi ((hi + 4095) / 4096 - lo / 4096) (lo / 4096)

/-- Whether a line holds a byte of some range. -/
def lineIn (line : Nat) (rs : List (Nat × Nat)) : Bool :=
  rs.any fun r => r.1 < r.2 && r.1 < 64 * line + 64 && 64 * line < r.2

/-- Invalidate the lines of ranges that a core owns: its own lines of one kind, its pooled lines of the kinds given. -/
def State.cinv (s : State) (ownRo : Bool) (pooled : CLine → Bool) (area : List (Nat × Nat)) : State :=
  (s.pool s.cur).foldl
    (fun t h => t.modCore h fun c =>
      { c with dcache := c.dcache.filter fun x =>
          !(x.owner == coreIndex s.cur && lineIn x.line area && if h = s.cur then x.ro == ownRo else pooled x) }) s

/-- Execution of CINV: EA and the length in s[d] (R324). -/
def cinvInstr (ownRo : Bool) (pooled : CLine → Bool) (offset : BitVec 24) (space : Space) (base d : Reg) : M Unit := do
  let c ← theCore
  let area ← cinvArea space (c.regs.rs base + signExt offset) (c.regs.rs d)
  modState fun s => s.cinv ownRo pooled area

/-- CINV: ordinary lines, and pooled lines of either kind (R324). -/
def execCinv (g : Guard) (offset : BitVec 24) (space : Space) (base d : Reg) (s : State) : Out :=
  instr g [base, d] [] (cinvInstr false (fun _ => true) offset space base d) s

/-- CINV.ro: read-only lines, own and pooled (R324). -/
def execCinvRo (g : Guard) (offset : BitVec 24) (space : Space) (base d : Reg) (s : State) : Out :=
  instr g [base, d] [] (cinvInstr true (fun x => x.ro) offset space base d) s

end Sys2Proof.Machine
end

