-- ==== Sys2Proof/Machine/Atomic.lean ====
section
/-! DEFINITION. Atomics at the home, foreign atomics and parking (10, R195 to R200; 16, R325 to R328). -/

namespace Sys2Proof.Machine

/-- The word an AMO leaves (R198). -/
def amoNew (op : AmoOp) (t : Ty) (m v : Nat) : Nat :=
  match op with
  | .add => m + v
  | .and => m &&& v
  | .or => m ||| v
  | .xor => m ^^^ v
  | .min => if intVal t v < intVal t m then v else m
  | .max => if intVal t m < intVal t v then v else m
  | .swap => v
  | .fadd => (fconv t .near ((val t m).add .near (val t v))).bits
  | .fmax => fminmax t true m v

/-- The word an operation leaves, none where it does not write: a CAS whose comparand differs (R196, R198). -/
def AtomicOp.new (op : AtomicOp) (t : Ty) (m v cmp : Nat) : Option Nat :=
  match op with
  | .amo o => some (amoNew o t m v % 2 ^ t.width)
  | .cas => if m = cmp then some v else none
  | .amaxrs => some v

/-- An atomic as one action at the home of `n` bytes of device memory (R198, R199). -/
def State.atomicAt (s : State) (core : Nat) (prot : Bool) (pa : Nat) (op : AtomicOp) (t : Ty) (v cmp : Nat) :
    State × Nat :=
  let m := s.num pa t.size
  match op.new t m v cmp with
  | some x => (s.homeBytes (some core) prot pa (toBytes t.size x), m)
  | none => (s, m)

/-- Whether a core has a posted store under way over bytes of a window. -/
def Core.foreignOver (c : Core) (win off n : Nat) : Bool :=
  c.posting fun p =>
    match p with
    | .foreign ps => ps.any fun q => q.unit == win && q.off < off + n && off < q.off + q.data.length
    | _ => false

/-- The atomic of R327 on `v` and a comparand: checks, release, the action at the home or at the changers, acquire; it
waits while its home defers writes to the line (R494). -/
def atomicInstr (op : AtomicOp) (o : AtomOp) (v cmp : Word) : M Unit := do
  let c ← theCore
  let ea := atomEa o c.regs
  match c.wait with
  | .foreign _ (some (.word old)) => do
    wrS o.d (extend old o.ty)
    orderAcq o.order o.scope
  | .foreign _ (some (.fault st)) => fault st ea
  | .foreign _ none => leave
  | _ => do
    let p ← checkAccess o.space .rw false ea o.ty.size
    orderRel o.order o.scope
    let v := v.toNat % 2 ^ o.ty.width
    let cmp := cmp.toNat % 2 ^ o.ty.width
    match p with
    | .foreign win off hs => do
      let c ← theCore
      if !c.foreignOver win off o.ty.size then
        modMe fun c => { c with wait := .foreign ⟨win, off, hs, op, o.ty, v, cmp⟩ none }
      leave
    | p => do
      let (pa, prot) ← atHome p .atomic o.ty.size ea
      let s ← theState
      if s.defers prot (pa / 64) then leave
      let (s, old) := s.atomicAt s.cur prot pa op o.ty v cmp
      setState s
      wrS o.d (extend old o.ty)
      orderAcq o.order o.scope

/-- AMO (R327). -/
def execAmo (g : Guard) (op : AmoOp) (o : AtomOp) (s : State) : Out :=
  instr g [o.d, o.a, o.b] [] (atomicInstr (.amo op) o (s.me.regs.rs o.b) 0) s

/-- CAS (R327). -/
def execCas (g : Guard) (o : AtomOp) (s : State) : Out :=
  instr g [o.d, o.a, o.b, o.c] [] (atomicInstr .cas o (s.me.regs.rs o.c) (s.me.regs.rs o.b)) s

/-- AMAXRS (R327). -/
def execAmaxrs (g : Guard) (o : AtomOp) (s : State) : Out :=
  instr g [o.d, o.a, o.b] [] (atomicInstr .amaxrs o (s.me.regs.rs o.b) 0) s

/-- FOREIGN_ATOMIC: the changer of the line performs the atomic of a core (R200).  `adv` is what the target advertises at
the width; `fails` that the transport fails, after which the word holds either value (log 8). -/
def execForeignAtomic (core : Nat) (adv : Advert) (fails : Bool) (s : State) : Out :=
  match (s.core core).wait with
  | .foreign r none =>
    let answer := fun (s : State) (a : ChangerAnswer) =>
      s.modCore core fun c => { c with wait := .foreign r (some a) }
    let old := ofBytes (s.winBytes (corePkg core) r.win r.off r.ty.size)
    let wrote :=
      match r.op.new r.ty old r.v r.cmp with
      | some x => s.setWin (corePkg core) r.win r.off (toBytes r.ty.size x)
      | none => s
    if adv = .neither && r.hs then .next (answer s (.fault 0x27))
    else if fails then
      let s' := if Config.foreignFailKeepsOld s.free then s else wrote
      .next (answer { s' with free := s.free + 1 } (.fault 0x28))
    else .next (answer wrote (.word old))
  | _ => .next s

/-- WAITA (R195, R328). -/
def waitaInstr (o : WaitaOp) : M Unit := do
  let c ← theCore
  let ea := waitaEa o c.regs
  let n := o.ty.size
  let done := fun (x : Bool) => do
    wrP o.p.toNat x
    if o.acq then fenceAcq 2
  match c.wait with
  | .watch true => done true
  | .watch false => leave
  | _ => do
    let p ← checkAccess o.space .r false ea n
    let (pa, _) ← atHome p .atomic n ea
    let s ← theState
    if s.num pa n ≠ (c.regs.rs o.b).toNat % 2 ^ (8 * n) then done true
    else if (s.watch.filter (·.1 = pa / 64)).length = 16 then done false
    else
      setState { s with watch := s.watch ++ [(pa / 64, s.cur)] }
      waitFor (.watch false)

/-- WAITA. -/
def execWaita (g : Guard) (o : WaitaOp) (s : State) : Out := instr g [o.a, o.b] [] (waitaInstr o) s

end Sys2Proof.Machine
end

