-- ==== Sys2Proof/Machine/Tasks.lean ====
section
/-! DEFINITION. Graph, node and task look-ups and the queueing of tasks (08, R142 to R151; 09, R169, R175, R176). -/

namespace Sys2Proof.Machine

/-- The package cycle counter (R169, R491; log 7). -/
def State.cycle (s : State) (pkg : Nat) : Nat := (s.tick + (s.pkg pkg).cycles) % 2 ^ 64

/-- A node of a held graph. -/
def State.node (s : State) (k : NodeKey) : Option Node :=
  match find? s.graphs k.1 with
  | some g => g.nodes[k.2]?
  | none => none

/-- The launch under way of a graph. -/
def State.launchOf (s : State) (g : Nat) : Option Launch :=
  match find? s.graphs g with
  | some x => x.launch
  | none => none

/-- Change the launch under way of a graph. -/
def State.modLaunch (s : State) (g : Nat) (f : Launch → Launch) : State :=
  match find? s.graphs g with
  | some x => { s with graphs := insert s.graphs g { x with launch := x.launch.map f } }
  | none => s

/-- Progress of a node in the launch under way. -/
def State.nodeSt (s : State) (k : NodeKey) : NodeSt :=
  match s.launchOf k.1 with
  | some l => (find? l.nodes k.2).getD .idle
  | none => .idle

/-- Change the progress of a node. -/
def State.modNodeSt (s : State) (k : NodeKey) (f : NodeSt → NodeSt) : State :=
  s.modLaunch k.1 fun l => { l with nodes := insert l.nodes k.2 (f ((find? l.nodes k.2).getD .idle)) }

/-- Header of a node's kernel, or of a member of its gang (R155). -/
def Node.header (n : Node) (role : Nat) : Option Header :=
  match n.kind with
  | .kernel h _ _ => some h
  | .gang hs _ _ => hs[role - 1]?
  | _ => none

/-- Pipes of a gang. -/
def Node.pipes (n : Node) : List PipeDesc :=
  match n.kind with
  | .gang _ _ ps => ps
  | _ => []

/-- Instance counts of a gang. -/
def Node.counts (n : Node) : List Nat :=
  match n.kind with
  | .gang _ cs _ => cs
  | _ => []

/-- Package of a graph's key. -/
def graphPkg (g : Nat) : Nat := g / 1024

/-- Tasks of a node. -/
def State.tasksOf (s : State) (k : NodeKey) : List (Nat × Task) :=
  s.tasks.filter fun t => t.2.graph == k.1 && t.2.node == k.2

/-- Whether a task has not issued (R143). -/
def TaskPhase.waits : TaskPhase → Bool
  | .issued _ | .suspended .. => false
  | _ => true

/-- Whether a task stands in the ready queue of its cluster (R151). -/
def Task.ready (t : Task) : Bool := t.phase.waits && !t.ovr

/-- Number of tasks in a cluster's ready queue (R151). -/
def State.readyCount (s : State) (cl : Nat) : Nat := (s.tasks.filter fun t => t.2.cluster == cl && t.2.ready).length

/-- Older (R169): stamp, then bound element, then kernel order, then TASKID; of a bound and an unbound task with one stamp the
kernel order and the TASKID decide (log 68). -/
def Task.older (t u : Task) : Bool :=
  if t.stamp ≠ u.stamp then t.stamp < u.stamp
  else
    match t.elem, u.elem with
    | some a, some b =>
      if a ≠ b then a < b else if t.role ≠ u.role then t.role < u.role else t.taskid < u.taskid
    | _, _ => if t.role ≠ u.role then t.role < u.role else t.taskid < u.taskid

/-- Take the next TASKID of a kernel (R143). -/
def NodeSt.nextTask (n : NodeSt) (role : Nat) : Nat := look n.nextId 0 role

/-- Put a task into the ready queue of a cluster, or into the node's overflow area (R151). -/
def State.addTask (s : State) (k : NodeKey) (h : Header) (role : Nat) (elem : Option Nat) (taskid stamp cl : Nat)
    (ovr : Bool) : State :=
  let t : Task :=
    { graph := k.1, node := k.2, role := role, hdr := h, taskid := taskid, elem := elem, stamp := stamp
      cluster := cl, phase := .queued, claims := [], old := false, ctxid := 0, issues := 0, excl := false
      ovr := ovr, member := none, harn := none, dropped := [], image := none }
  { s with tasks := insert s.tasks s.fresh t, fresh := s.fresh + 1 }

/-- Whether a cluster's ready queue holds 4,096 tasks (R151). -/
def State.queueFull (s : State) (cl : Nat) : Bool := 4096 ≤ s.readyCount cl

/-- Queue a posted task on a cluster (R151, R176): none where the ready queue and the overflow area are full. -/
def State.queueTask (s : State) (k : NodeKey) (role : Nat) (elem : Option Nat) (taskid stamp cl : Nat) :
    Option State :=
  match s.node k with
  | none => none
  | some n =>
    match n.header role with
    | none => none
    | some h =>
      let held := ((s.tasksOf k).filter fun t => t.2.ovr).length
      if s.queueFull cl && n.ovfl ≤ held then none
      else some (s.addTask k h role elem taskid stamp cl (s.queueFull cl))

/-- When a place of a cluster's ready queue frees, the oldest task of the cluster in an overflow area enters (R151). -/
def State.refill (s : State) (cl : Nat) : State :=
  if 4096 ≤ s.readyCount cl then s
  else
    let ts := s.tasks.filter fun t => t.2.cluster == cl && t.2.ovr
    match ts with
    | [] => s
    | t :: r =>
      let o := r.foldl (fun a b => if b.2.older a.2 then b else a) t
      { s with tasks := insert s.tasks o.1 { o.2 with ovr := false } }

/-- Physical address of a context image of a package (R454; log 12). -/
def State.imageAt (s : State) (pkg i : Nat) : Nat :=
  (s.pkg pkg).id * 2 ^ 44 + Config.imagePoolUnit * 4096 + i * 0x22_5000

/-- The number of elements of the space a header names (R160). -/
def State.nelem (s : State) (pkg : Nat) (h : Header) : Option Nat :=
  match h.space with
  | some i => (find? (s.pkg pkg).spaces i).map (·.nelem)
  | none => none

end Sys2Proof.Machine
end

