-- ==== Sys2Proof/Machine/Message.lean ====
section
/-! DEFINITION. SEND, pipes and POST, and the arrival of posted stores and messages (08, R151, R156, R157; 13, R244,
R245; 16, R335 to R339; 22, R459). -/

namespace Sys2Proof.Machine

/-! SEND -/

/-- Core number and window offset of a physical address in the window of a compute core (R44). -/
def windowAt (pa n : Nat) : Option (Nat × Nat) :=
  match region (pa % 2 ^ 44) with
  | .window m off => if m < 1536 ∧ off + n ≤ 0xE_0000 then some (m, off) else none
  | _ => none

/-- Target of a SEND of `n` bytes at an address: package, core number, offset (R336). -/
def sendTarget (space : Space) (ea n : Nat) : M (Nat × Nat × Nat) := do
  match space with
  | .x =>
    let p ← resolve .x .w true ea n
    match p with
    | .peer k off => pure (corePkg k, coreNo k, off)
    | _ => fault 0x2A
  | _ => do
    let (pa, l) ← translate .w ea
    let (pb, m) ← translate .w (ea + n - 1)
    let s ← theState
    if l.f || m.f then fault 0x2A
    else
      match windowAt pa 1, windowAt pb 1 with
      | some (c, off), some (d, _) =>
        if c = d ∧ pa / 2 ^ 44 = pb / 2 ^ 44 ∧ off + n ≤ 0xE_0000 then pure (s.ownerOf (pa / 2 ^ 44), c, off)
        else fault 0x2A
      | _, _ => fault 0x2A

/-- SEND (R336). -/
def sendInstr (o : SendOp) : M Unit := do
  let c ← theCore
  let ea := (sendEa o c.regs).toNat
  let n := 8 * (o.len.toNat + 1)
  if ea % 8 ≠ 0 then badAddr 0x29 ea
  let (pkg, core, off) ← sendTarget o.space ea n
  if o.rel then fenceRel 3
  let data := if o.vec then vbytes (c.regs.rv o.b.toNat) n else toBytes 8 (c.regs.rs o.b).toNat
  post (.send pkg core off o.k.toNat data)

/-- SEND. -/
def execSend (g : Guard) (o : SendOp) (s : State) : Out :=
  instr g (if o.vec then [o.a] else [o.a, o.b]) (if o.vec then [o.b] else []) (sendInstr o) s

/-! Pipes -/

/-- The checks of R144 and R337 on a pipe number: its description in the gang of the task's node. -/
def pipeOf (pipe : Nat) : M (TaskCtx × PipeDesc) := do
  let s ← theState
  match s.me.task with
  | none => fault 0x1C
  | some t => do
    if s.me.mode = .task ∧ t.hdr.pipes ≤ pipe then fault 0x17
    match ((s.node (t.graph, t.node)).map Node.pipes).bind fun ps => ps.find? (·.num = pipe) with
    | some d => pure (t, d)
    | none => fault 0x1C

/-- The rings of a receiving task (R156). -/
def State.ring (s : State) (task pipe : Nat) : PipeRing :=
  (s.rings.find? fun r => r.task == task && r.pipe == pipe).getD ⟨task, pipe, 0, 0, [], 0⟩

/-- Change the rings of a receiving task. -/
def State.setRing (s : State) (r : PipeRing) : State :=
  { s with rings := s.rings.filter (fun x => !(x.task == r.task && x.pipe == r.pipe)) ++ [r] }

/-- The task that is an instance of a gang's member (R155). -/
def State.instanceOf (s : State) (k : NodeKey) (role idx : Nat) : Option (Nat × Task) :=
  (s.tasksOf k).find? fun t => t.2.role == role && t.2.taskid == idx

/-- Key of the core that a task's messages go to: the one it runs on, or left (R459). -/
def Task.place (t : Task) : Option Nat :=
  match t.phase with
  | .issued k | .suspended k _ _ => some k
  | _ => none

/-- SENDP (R156, R337, R338). -/
def sendpInstr (rel : Bool) (pipe : Nat) (a b : Reg) : M Unit := do
  let (t, d) ← pipeOf pipe
  let s ← theState
  let idx := (s.me.regs.rs a).toNat
  let counts := ((s.node (t.graph, t.node)).map Node.counts).getD []
  require (d.src = t.role ∧ idx < counts.getD (d.dst - 1) 0) 0x1C
  if rel then fenceRel 3
  let s ← theState
  match s.instanceOf (t.graph, t.node) d.dst idx with
  | none => retry
  | some (id, u) =>
    match u.place with
    | none => retry
    | some k => do
      let r := s.ring id pipe
      if d.ring + d.ovr ≤ r.count + r.ovr.length + r.fly then retry
      post (.pipe (corePkg k) (coreNo k) pipe id (vbytes (s.me.regs.rv b.toNat) d.size))
      modState fun s => s.setRing { r with fly := r.fly + 1 }

/-- SENDP. -/
def execSendp (g : Guard) (rel : Bool) (pipe : BitVec 4) (a b : Reg) (s : State) : Out :=
  instr g [a] [b] (sendpInstr rel pipe.toNat a b) s

/-- A message enters the rings of a task on a core: the scratchpad ring if it has room and no older message waits in the
overflow ring (R156). -/
def State.pipeEnter (s : State) (k : Nat) (d : PipeDesc) (task : Nat) (data : List Byte) : State :=
  let r := s.ring task d.num
  if r.count < d.ring && r.ovr.isEmpty then
    (s.homeBytes none false (s.windowPa k (d.at_ + (r.head + r.count) % d.ring * d.size)) data).setRing
      { r with count := r.count + 1 }
  else s.setRing { r with ovr := r.ovr ++ [data] }

/-- Whether every instance of a pipe's sending kernel has exited (R157); a task posted to the kernel counts as one (log
68). -/
def State.pipeClosed (s : State) (k : NodeKey) (d : PipeDesc) : Bool :=
  (s.tasksOf k).all fun t => t.2.role ≠ d.src

/-- RECVP (R156, R157, R338): the oldest message, whose place the oldest of the overflow ring then takes. -/
def recvpInstr (acq : Bool) (pipe : Nat) (d : Reg) (p : Nat) : M Unit := do
  let (t, pd) ← pipeOf pipe
  require (pd.dst = t.role) 0x1C
  let s ← theState
  let r := s.ring t.id pipe
  if 0 < r.count then
    let bs ← readSpad s.cur (pd.at_ + r.head * pd.size) pd.size (pd.at_ + r.head * pd.size)
    modMe fun c => { c with regs := (c.regs.wv d.toNat (ofVbytes bs)).wp p true }
    modState fun s =>
      let r := { r with head := (r.head + 1) % pd.ring, count := r.count - 1 }
      match r.ovr with
      | [] => s.setRing r
      | m :: rest => (s.setRing { r with ovr := [] }).pipeEnter s.cur pd t.id m |>.setRing
          { r with count := r.count + 1, ovr := rest }
    if acq then fenceAcq 3
  else if s.pipeClosed (t.graph, t.node) pd && r.fly = 0 then wrP p false
  else leave

/-- RECVP. -/
def execRecvp (g : Guard) (acq : Bool) (pipe : BitVec 4) (d : Reg) (p : BitVec 3) (s : State) : Out :=
  instr g [] [d] (recvpInstr acq pipe.toNat d p.toNat) s

/-! POST -/

/-- POST (R151, R339). -/
def postInstr (role : Nat) (rel : Bool) (a : Reg) : M Unit := do
  let s ← theState
  match s.me.task with
  | none => fault 0x47
  | some t => do
    let key := (t.graph, t.node)
    let gang := ((s.node key).map fun n => !n.counts.isEmpty).getD false
    if role ≠ 0 ∧ !gang then fault 0x47
    let r := if role = 0 then t.role else role
    match (s.node key).bind (Node.header · r) with
    | none => fault 0x47
    | some h => do
      let e := s.me.regs.rs a
      let n := s.nelem (graphPkg t.graph) h
      if h.space.isSome ∧ (2 ^ 40 ≤ e.toNat ∨ n.getD 0 ≤ e.toNat) then fault 0x47
      if rel then fenceRel 3
      let s ← theState
      let id := (s.nodeSt key).nextTask r
      let elem := if h.space.isSome then some e.toNat else none
      match s.queueTask key r elem id (s.cycle (corePkg s.cur)) (coreCluster s.cur) with
      | none => faultAfter 0x46
      | some s => setState (s.modNodeSt key fun st => { st with nextId := put st.nextId 0 r (id + 1) })

/-- POST. -/
def execPost (g : Guard) (role : BitVec 2) (rel : Bool) (a : Reg) (s : State) : Out :=
  instr g [a] [] (postInstr role.toNat rel a) s

/-! Posted stores on their way -/

/-- The lines of a posted store that memory homes perform, each as one action (R205, R243). -/
def Posted.lines : Posted → List (Nat × List (Nat × Byte))
  | .line b => [(b.line, b.data)]
  | .rst pa data _ => byLine pa data
  | _ => []

/-- Whether the page of a posted store is protected (R251). -/
def Posted.prot : Posted → Bool
  | .line b => b.prot
  | .rst _ _ p => p
  | _ => false

/-- The lines of an entry that their homes have not answered yet (R243). -/
def JEntry.left (e : JEntry) : List (Nat × List (Nat × Byte)) := e.what.lines.filter fun l => (find? e.lines l.1).isNone

/-- Whether an entry waits for the home of a line. -/
def JEntry.waitsFor (e : JEntry) (line : Nat) : Bool := e.left.any (·.1 == line)

/-- Homes that a posted store has yet to reach: package id with slice, or window of a core (R45); a storage window counts
as a home. -/
def State.homesLeft (s : State) (e : JEntry) : List (Nat × Nat) :=
  match e.what with
  | .xstore pkg ps => ps.map fun p => ((s.pkg pkg).id, 256 + p.unit)
  | .send pkg core .. | .pipe pkg core .. => [((s.pkg pkg).id, 256 + core)]
  | .foreign ps => ps.map fun p => (p.unit, 4096)
  | _ => e.left.map fun l => homeOf (64 * l.1)

/-- The entry of a journal with an index. -/
def Core.entry (c : Core) (i : Nat) : Option JEntry := c.journal.find? (·.idx = i)

/-- Whether an earlier pending entry has yet to reach one of some homes: posted stores to one home are performed in issue
order (R206, R190). -/
def State.behindAt (s : State) (c : Core) (e : JEntry) (homes : List (Nat × Nat)) : Bool :=
  (c.journal.takeWhile (·.idx ≠ e.idx)).any fun x =>
    x.st == .pending && (s.homesLeft x).any fun h => homes.contains h

/-- Whether an earlier pending entry goes to a home of this one. -/
def State.behind (s : State) (c : Core) (e : JEntry) : Bool := s.behindAt c e (s.homesLeft e)

/-- Free a journal entry. -/
def Core.free (c : Core) (i : Nat) : Core := { c with journal := c.journal.filter (·.idx ≠ i) }

/-- Change a journal entry. -/
def Core.modEntry (c : Core) (i : Nat) (f : JEntry → JEntry) : Core :=
  { c with journal := c.journal.map fun e => if e.idx = i then f e else e }

/-- Mark a journal entry. -/
def Core.mark (c : Core) (i : Nat) (st : PostState) : Core := c.modEntry i fun e => { e with st := st }

/-- A refusal reaches the core: the asynchronous trap of R245; the entry frees when it is taken, at once where the core
records no further cause. -/
def State.refused (s : State) (core idx st : Nat) (info : Word) : State :=
  let c := s.core core
  let held := c.asyncTrap.isNone && !c.trapped && c.mode = .task
  (s.setCore core (if held then c.mark idx (.refused st info) else c.free idx)).asyncCause core
    { status := st, source := 2, info := info }

/-- First byte of the lowest refused line of a posted store (R245). -/
def JEntry.refusedAt (e : JEntry) : Option (Nat × Nat) :=
  (e.what.lines.filterMap fun l =>
    match find? e.lines l.1 with
    | some st => if st = 0 then none else some (st, 64 * l.1 + (l.2.head?.map (·.1)).getD 0)
    | none => none).head?

/-- What becomes of an entry all of whose lines are answered: a refused line raises the trap (R245); otherwise the store is
performed, and the entry frees once no delta of its protected writes is outstanding (R244, R253). -/
def State.settlePost (s : State) (core idx : Nat) : State :=
  match (s.core core).entry idx with
  | none => s
  | some e =>
    if !e.left.isEmpty then s
    else
      match e.refusedAt with
      | some (st, pa) => s.refused core idx st (refusal pa (some idx))
      | none =>
        if s.unacked e.writes then s.modCore core fun c => c.mark idx .performed
        else s.modCore core fun c => c.free idx

/-- The answer that the home of a line of an entry gives now: 0 where it performs it, or its refusal. -/
def State.postAnswer (s : State) (core : Nat) (l : Nat × List (Nat × Byte)) : Nat × Note :=
  s.answer (s.who core) .store (64 * l.1 + (l.2.head?.map (·.1)).getD 0) 1

/-- Whether the home of a line of an entry answers it next: it is not under way as a link packet, and no earlier store of
the core to that home is outstanding (R206). -/
def State.postDue (s : State) (core : Nat) (e : JEntry) (l : Nat × List (Nat × Byte)) : Bool :=
  (find? e.sent l.1).isNone && !s.behindAt (s.core core) e [homeOf (64 * l.1)]

/-- A line of an entry is performed or refused at its home, one action (R205, R243, R245); a home that rebuilds the line's
stripe defers it (R494). -/
def State.answerLine (s : State) (core : Nat) (e : JEntry) (l : Nat × List (Nat × Byte)) : State :=
  let (st, n) := s.postAnswer core l
  if st = 0 && s.defers e.what.prot l.1 then s.defer (some core) l.1 l.2
  else
    let w := s.fresh
    let s := if st = 0 then s.homeWrite (some core) e.what.prot l.1 l.2 else s.note n
    (s.modCore core fun c => c.modEntry e.idx fun e =>
      { e with
        lines := e.lines ++ [(l.1, st)]
        writes := if e.what.prot && s.unacked [w] then e.writes ++ [w] else e.writes }).settlePost core e.idx

/-- The lowest line of an entry that its home answers next, if its answer is of a kind. -/
def State.answerNext (s : State) (core idx : Nat) (refusal : Bool) : State :=
  match (s.core core).entry idx with
  | some e =>
    match e.left.find? (s.postDue core e) with
    | some l => if decide ((s.postAnswer core l).1 = 0) != refusal then s.answerLine core e l else s
    | none => s
  | none => s

/-- A line of the entry that waits for it is performed, when its home no longer defers it (R494). -/
def State.answerPost (s : State) (core line : Nat) : State :=
  match (s.core core).journal.find? fun e => e.st == .pending && e.waitsFor line with
  | some e =>
    match e.left.find? (·.1 == line) with
    | some l => if s.postDue core e l then s.answerLine core e l else s
    | none => s
  | none => s

/-- The bytes of a posted store reach their storage windows, which perform them (R470). -/
def State.storeWindows (s : State) (k : Nat) (ps : List Part) : State :=
  ps.foldl (fun s p => s.setWin (corePkg k) p.unit p.off p.data) s

/-- BUFFERED_LINE_PERFORM: the `idx`-th line under way is performed at its home, or, counting on from them, line `n / 64` of
the journal entry `n % 64` (R205, R206, R243). -/
def execBufferedLinePerform (core idx : Nat) (s : State) : Out :=
  let c := s.core core
  if idx < c.sfly.length then .next (s.performFly core idx)
  else
    let n := idx - c.sfly.length
    match c.entry (n % 64) with
    | some e =>
      match e.left[n / 64]? with
      | some l => .next (if e.st == .pending && s.postDue core e l then s.answerLine core e l else s)
      | none => .next s
    | none => .next s

/-- POSTED_STORE_ACK: a home acknowledges a posted store, which it performs now unless it has, and with the last of its
lines the entry frees (R244), once the deltas of its protected writes are acknowledged (R253). -/
def execPostedStoreAck (core idx : Nat) (s : State) : Out :=
  let c := s.core core
  match c.entry idx with
  | some e =>
    match e.st with
    | .performed => .next (if s.unacked e.writes then s else s.setCore core (c.free idx))
    | .pending =>
      match e.what with
      | .line _ | .rst .. => .next (s.answerNext core idx false)
      | .foreign ps => .next (if s.behind c e then s else (s.storeWindows core ps).modCore core fun c => c.free idx)
      | _ => .next s
    | .refused .. => .next s
  | none => .next s

/-- POSTED_STORE_REFUSAL: the refusal of a posted store by its target, its home, or the network of a storage window
(R245, R470). -/
def execPostedStoreRefusal (core idx : Nat) (s : State) : Out :=
  let c := s.core core
  match c.entry idx with
  | some e =>
    match e.st with
    | .refused st info => .next (if e.heldBy c.asyncTrap then s else s.refused core idx st info)
    | .pending =>
      match e.what with
      | .line _ | .rst .. => .next (s.answerNext core idx true)
      | .foreign ps =>
        let p := ps.headD ⟨0, 0, []⟩
        .next (if s.behind c e then s else s.refused core idx 0x50 (refusal (p.unit * 2 ^ 48 + p.off) (some idx)))
      | _ => .next s
    | .performed => .next s
  | none => .next s

/-- TRAPINFO of a refused access to a window (R245). -/
def State.windowRefusal (s : State) (pkg core off idx : Nat) : Word :=
  refusal (s.windowPa (pkg * 2048 + core) off) (some idx)

/-- Where the parts of an X store go: 0 all to cores that take them, else what holds or refuses the store: 1 waits, or
a status (R358, R459). -/
def State.xVerdict (s : State) (node : Option NodeKey) (pkg : Nat) (ps : List Part) : Nat :=
  let one := fun (p : Part) =>
    match s.xRoute node (pkg * 2048 + p.unit) with
    | .later _ => 1
    | .refused => 0x2A
    | .here k => if s.spadOk k p.off p.data.length then 0 else 0x22
  let vs := ps.map one
  if has vs 1 then 1 else (vs.find? (· != 0)).getD 0

/-- Do something with each part of an X store at the core that takes it (R358, R459). -/
def State.atParts (s : State) (node : Option NodeKey) (pkg : Nat) (ps : List Part) (f : State → Nat → Part → State) : State :=
  ps.foldl
    (fun s p =>
      match s.xRoute node (pkg * 2048 + p.unit) with
      | .here k => f s k p
      | _ => s) s

/-- A posted X store reaches its targets' interfaces (R42, R358, R459): commands of its core that were pushed before it see or
miss it byte by byte (R91, R216). -/
def State.xArrive (s : State) (core idx : Nat) : State :=
  let c := s.core core
  match c.entry idx with
  | some e =>
    match e.what, e.st with
    | .xstore pkg ps, .pending =>
      if !e.sent.isEmpty || s.behind c e then s
      else
        match s.xVerdict e.node pkg ps with
        | 0 =>
          let missed := s.atParts e.node pkg ps fun s k p =>
            s.missAt core (s.windowPa k p.off) p.data.length fun c => decide (c.after ≤ e.num)
          (missed.atParts e.node pkg ps fun s k p => s.homeBytes none false (s.windowPa k p.off) p.data).modCore core fun c =>
            c.mark idx .performed
        | 1 => s
        | st =>
          let p := ps.foldl (fun a b => if b.unit < a.unit || (b.unit == a.unit && b.off < a.off) then b else a)
            (ps.headD ⟨0, 0, []⟩)
          s.modCore core fun c => c.mark idx (.refused st (s.windowRefusal pkg p.unit p.off idx))
    | _, _ => s
  | none => s

/-- X_ACCESS_ARRIVAL: a posted X store reaches its targets' interfaces (R42). -/
def execXAccessArrival (core idx : Nat) (s : State) : Out := .next (s.xArrive core idx)

/-- A SEND is delivered: its payload is written, then its counter incremented (R190). -/
def State.deliver (s : State) (k off counter : Nat) (data : List Byte) : State :=
  (s.homeBytes none false (s.windowPa k off) data).modCore k fun c =>
    { c with regs := c.regs.wk counter (c.regs.rk counter + 1) }

/-- A pipe message is delivered to a task on a core. -/
def State.deliverPipe (s : State) (k pipe task : Nat) (data : List Byte) : State :=
  match find? s.tasks task with
  | some t =>
    match ((s.node (t.graph, t.node)).map Node.pipes).bind fun ps => ps.find? (·.num = pipe) with
    | some d =>
      let r := s.ring task pipe
      (s.setRing { r with fly := r.fly - 1 }).pipeEnter k d task data
    | none => s
  | none => s

/-- A spill entry of a context image (R459). -/
def SpillMsg.bytes (m : SpillMsg) : List Byte :=
  toBytes 16 (m.off + m.data.length * 2 ^ 64 + m.counter * 2 ^ 80 + m.pipe * 2 ^ 88) ++ m.data

/-- Write message number `n` into the context image of a suspended task (R456, R457, R459), unless its home refuses it (R476). -/
def State.spillImage (s : State) (k task n : Nat) (m : SpillMsg) : State :=
  match (find? s.tasks task).bind (·.image) with
  | some i =>
    let a := s.imageAt (corePkg k) i
    match s.shut (firmware k) .store (a + 0x5000 + 272 * n) m.bytes.length with
    | some note => s.note note
    | none => (s.setBytes (a + 0x5000 + 272 * n) m.bytes).setByte (a + 0x2F) (BitVec.ofNat 8 (n + 1))
  | none => s

/-- Write a message into the spill of the entry a core holds for a node: none where it holds 64 already (R459). -/
def State.spillMsg (s : State) (k : Nat) (nd : NodeKey) (m : SpillMsg) : Option State :=
  let c := s.core k
  match indexOf? (fun e => decide (e.node = nd) && e.core.isNone) c.fwd with
  | some i =>
    match c.fwd[i]? with
    | some e =>
      if e.spill.length < 64 then
        some ((s.spillImage k e.task e.spill.length m).setCore k
          { c with fwd := modifyAt c.fwd i fun e => { e with spill := e.spill ++ [m] } })
      else none
    | none => none
  | none => none

/-- A SEND or pipe message reaches its target: it is delivered, forwarded, spilled, kept waiting or refused (R190, R336,
R459); at a halted core it stays queued (R311). -/
def State.messageArrive (s : State) (core idx : Nat) : State :=
  let c := s.core core
  match c.entry idx with
  | some e =>
    if e.st != .pending || !e.sent.isEmpty || s.behind c e then s
    else
      let done := fun (s : State) => s.modCore core fun c => c.mark idx .performed
      let arrive := fun (pkg n off counter pipe : Nat) (data : List Byte) (put_ : Nat → State) (ok : Nat → Bool) =>
        let refuse := fun st => s.modCore core fun c => c.mark idx (.refused st (s.windowRefusal pkg n off idx))
        if !s.reaches core (s.pkg pkg).id then refuse 0x51
        else
          match s.xRoute e.node (pkg * 2048 + n) with
          | .here k => if (s.core k).run = .halted then s else if ok k then done (put_ k) else refuse 0x22
          | .refused => refuse 0x2A
          | .later k =>
            match e.node with
            | some nd =>
              match s.spillMsg k nd ⟨off, counter, pipe, data⟩ with
              | some s => done s
              | none => s
            | none => s
      match e.what with
      | .send pkg n off counter data =>
        arrive pkg n off counter 255 data (fun k => s.deliver k off counter data)
          fun k => s.spadOk k off data.length
      | .pipe pkg n pipe task data =>
        arrive pkg n 0 0 pipe data (fun k => s.deliverPipe k pipe task data) fun _ => true
      | _ => s
  | none => s

/-- MESSAGE_ARRIVAL (R190). -/
def execMessageArrival (core idx : Nat) (s : State) : Out := .next (s.messageArrive core idx)

/-! Posted stores as link packets -/

/-- The parts of an entry that can travel as packets, with their homes: its unanswered lines, or the whole store (R240). -/
def State.parts (s : State) (e : JEntry) : List (Nat × Nat × Nat) :=
  match e.what with
  | .line _ | .rst .. => e.left.map fun l => (l.1, homeOf (64 * l.1))
  | .foreign _ => []
  | _ => (s.homesLeft e).map fun h => (0, h)

/-- A part of an entry is under way no longer (R247). -/
def State.landed (s : State) (p : Packet) : State :=
  s.modCore p.core fun c =>
    { c with journal := c.journal.map fun e =>
        if e.num = p.num then { e with sent := e.sent.filter (·.1 ≠ p.part) } else e }

/-- A packet has come to its destination: its part is performed or refused there, or waits there (R206, R459). -/
def State.arrivePacket (s : State) (p : Packet) : State :=
  let s := s.landed p
  match (s.core p.core).journal.find? (·.num = p.num) with
  | none => s
  | some e =>
    match e.what with
    | .line _ | .rst .. =>
      match e.left.find? (·.1 == p.part) with
      | some l => if e.st == .pending && s.postDue p.core e l then s.answerLine p.core e l else s
      | none => s
    | .xstore .. => s.xArrive p.core e.idx
    | _ => s.messageArrive p.core e.idx

/-- A gateway finds no route for a packet and refuses it with status 0x51 (R245, R250), unless its store has been answered
already. -/
def State.refusePacket (s : State) (p : Packet) : State :=
  let s := s.landed p
  match (s.core p.core).journal.find? (·.num = p.num) with
  | none => s
  | some e =>
    match e.what, e.st with
    | _, .performed | _, .refused .. => s
    | .line _, _ | .rst .., _ =>
      if (find? e.lines p.part).isSome then s
      else
        (s.modCore p.core fun c => c.modEntry e.idx fun e => { e with lines := e.lines ++ [(p.part, 0x51)] }).settlePost
          p.core e.idx
    | .xstore pkg ps, _ =>
      let q := ps.headD ⟨0, 0, []⟩
      s.refused p.core e.idx 0x51 (s.windowRefusal pkg q.unit q.off e.idx)
    | .send pkg n off .., _ => s.refused p.core e.idx 0x51 (s.windowRefusal pkg n off e.idx)
    | .pipe pkg n .., _ => s.refused p.core e.idx 0x51 (s.windowRefusal pkg n 0 e.idx)
    | .foreign _, _ => s

end Sys2Proof.Machine
end

