-- ==== Sys2Proof/Machine/Flags.lean ====
section
/-! DEFINITION. The condition computations of CMP, CMPI, FCMP and VCMP (R272).  The machine has no flag register: a
condition goes to a predicate or a mask bit. -/

namespace Sys2Proof.Machine

/-- An integer condition on two 64-bit patterns already read at their type (R272); `signed` is the type's sign. -/
def intCond (c : Cond) (x y : Int) (ux uy : Nat) : Bool :=
  match c with
  | .eq => ux == uy
  | .ne => ux != uy
  | .lt => x < y
  | .le => x ≤ y
  | .gt => x > y
  | .ge => x ≥ y
  | .ltz => ux < uy
  | .lez => ux ≤ uy
  | .gtz => ux > uy
  | .gez => ux ≥ uy
  | .un => false

/-- An integer condition on register contents read at a type (R272, R292). -/
def condAt (c : Cond) (t : Ty) (x y : Nat) : Bool := intCond c (intVal t x) (intVal t y) (rawVal t x) (rawVal t y)

/-- A floating condition (R272): with a NaN only .ne and .un hold. -/
def fltCond (c : Cond) (x y : Val) : Bool :=
  if x.isNan || y.isNan then c == .ne || c == .un
  else
    match c with
    | .eq => x.same y
    | .ne => !x.same y
    | .lt => x.lt y
    | .le => !y.lt x
    | .gt => y.lt x
    | .ge => !x.lt y
    | _ => false

/-- The truth table of PLOG and MLOG: bit 2a + b of tt (R294, R365). -/
def ttBit (tt : BitVec 4) (a b : Bool) : Bool := tt.getLsbD ((if a then 2 else 0) + if b then 1 else 0)

end Sys2Proof.Machine
end

