-- ==== Sys2Proof/Machine/Scalar.lean ====
section
/-! DEFINITION. The integer, compare, select and predicate instructions of classes 000 and 001 (15, R284 to R295). -/

namespace Sys2Proof.Machine

/-- A register form s[d] := f(s[a], s[b]). -/
def binary (g : Guard) (d a b : Reg) (f : Word → Word → Word) (s : State) : Out :=
  regInstr g [d, a, b] [] (fun r => r.ws d (f (r.rs a) (r.rs b))) s

/-- A register form s[d] := f(s[a]). -/
def unary (g : Guard) (d a : Reg) (f : Word → Word) (s : State) : Out :=
  regInstr g [d, a] [] (fun r => r.ws d (f (r.rs a))) s

/-- SignExt of an immediate of 20 bits (R269). -/
def imm20 (imm : BitVec 20) : Word := signExt imm

/-- Shift amount: bits 5:0 (R284). -/
def amount (x : Word) : Nat := x.toNat % 64

/-- ADD: s[a] + s[b] (R284). -/
def execAdd (g : Guard) (d a b : Reg) (s : State) : Out := binary g d a b (fun x y => x + y) s

/-- SUB: s[a] − s[b] (R284). -/
def execSub (g : Guard) (d a b : Reg) (s : State) : Out := binary g d a b (fun x y => x - y) s

/-- AND (R284). -/
def execAnd (g : Guard) (d a b : Reg) (s : State) : Out := binary g d a b (fun x y => x &&& y) s

/-- OR (R284). -/
def execOr (g : Guard) (d a b : Reg) (s : State) : Out := binary g d a b (fun x y => x ||| y) s

/-- XOR (R284). -/
def execXor (g : Guard) (d a b : Reg) (s : State) : Out := binary g d a b (fun x y => x ^^^ y) s

/-- ANDN: s[a] AND NOT s[b] (R284). -/
def execAndn (g : Guard) (d a b : Reg) (s : State) : Out := binary g d a b (fun x y => x &&& ~~~y) s

/-- ORN: s[a] OR NOT s[b] (R284). -/
def execOrn (g : Guard) (d a b : Reg) (s : State) : Out := binary g d a b (fun x y => x ||| ~~~y) s

/-- SHL (R284). -/
def execShl (g : Guard) (d a b : Reg) (s : State) : Out := binary g d a b (fun x y => x <<< amount y) s

/-- SHR (R284). -/
def execShr (g : Guard) (d a b : Reg) (s : State) : Out := binary g d a b (fun x y => x >>> amount y) s

/-- SRA (R284). -/
def execSra (g : Guard) (d a b : Reg) (s : State) : Out := binary g d a b (fun x y => x.sshiftRight (amount y)) s

/-- ROL (R284). -/
def execRol (g : Guard) (d a b : Reg) (s : State) : Out := binary g d a b (fun x y => x.rotateLeft (amount y)) s

/-- MUL: bits 63:0 of the product (R284). -/
def execMul (g : Guard) (d a b : Reg) (s : State) : Out := binary g d a b (fun x y => x * y) s

/-- MULH: bits 127:64 of the signed product (R284). -/
def execMulh (g : Guard) (d a b : Reg) (s : State) : Out := binary g d a b (fun x y => BitVec.ofInt 64 (x.toInt * y.toInt / 2 ^ 64)) s

/-- MULHZ: bits 127:64 of the unsigned product (R284). -/
def execMulhz (g : Guard) (d a b : Reg) (s : State) : Out := binary g d a b (fun x y => BitVec.ofNat 64 (x.toNat * y.toNat / 2 ^ 64)) s

/-- DIV (R285). -/
def execDiv (g : Guard) (d a b : Reg) (s : State) : Out := binary g d a b (fun x y => (divide true x y).1) s

/-- DIVZ (R285). -/
def execDivz (g : Guard) (d a b : Reg) (s : State) : Out := binary g d a b (fun x y => (divide false x y).1) s

/-- REM (R285). -/
def execRem (g : Guard) (d a b : Reg) (s : State) : Out := binary g d a b (fun x y => (divide true x y).2) s

/-- REMZ (R285). -/
def execRemz (g : Guard) (d a b : Reg) (s : State) : Out := binary g d a b (fun x y => (divide false x y).2) s

/-- MIN, signed (R284). -/
def execMin (g : Guard) (d a b : Reg) (s : State) : Out := binary g d a b (fun x y => if x.toInt ≤ y.toInt then x else y) s

/-- MAX, signed (R284). -/
def execMax (g : Guard) (d a b : Reg) (s : State) : Out := binary g d a b (fun x y => if x.toInt ≤ y.toInt then y else x) s

/-- MINZ, unsigned (R284). -/
def execMinz (g : Guard) (d a b : Reg) (s : State) : Out := binary g d a b (fun x y => if x.toNat ≤ y.toNat then x else y) s

/-- MAXZ, unsigned (R284). -/
def execMaxz (g : Guard) (d a b : Reg) (s : State) : Out := binary g d a b (fun x y => if x.toNat ≤ y.toNat then y else x) s

/-- CLZ: 64 for zero (R284). -/
def execClz (g : Guard) (d a : Reg) (s : State) : Out := unary g d a (fun x => BitVec.ofNat 64 (clz 64 x.toNat)) s

/-- CTZ: 64 for zero (R284). -/
def execCtz (g : Guard) (d a : Reg) (s : State) : Out := unary g d a (fun x => BitVec.ofNat 64 (ctz 64 x.toNat)) s

/-- POPC (R284). -/
def execPopc (g : Guard) (d a : Reg) (s : State) : Out := unary g d a (fun x => BitVec.ofNat 64 (popc 64 x.toNat)) s

/-- BREV (R284). -/
def execBrev (g : Guard) (d a : Reg) (s : State) : Out := unary g d a (fun x => BitVec.ofNat 64 (brev 64 x.toNat)) s

/-- SEXT.t: SignExt of the low bits (R284). -/
def execSext (g : Guard) (t : Ty) (d a : Reg) (s : State) : Out :=
  unary g d a (fun x => BitVec.ofInt 64 (toSigned t.width x.toNat)) s

/-- ZEXT.t: ZeroExt of the low bits (R284). -/
def execZext (g : Guard) (t : Ty) (d a : Reg) (s : State) : Out :=
  unary g d a (fun x => BitVec.ofNat 64 (x.toNat % 2 ^ t.width)) s

/-- CMP (R292). -/
def execCmp (g : Guard) (cond : Cond) (t : Ty) (d a b : Reg) (s : State) : Out :=
  regInstr g [a, b] [] (fun r => r.wp d.toNat (condAt cond t (r.rs a).toNat (r.rs b).toNat)) s

/-- SEL (R293). -/
def execSel (g : Guard) (sel : Guard) (d a b : Reg) (s : State) : Out :=
  regInstr g [d, a, b] [] (fun r => r.ws d (if r.guard sel then r.rs a else r.rs b)) s

/-- PLOG (R294). -/
def execPlog (g : Guard) (tt : BitVec 4) (d a b : Reg) (s : State) : Out :=
  regInstr g [] [] (fun r => r.wp d.toNat (ttBit tt (r.rp a.toNat) (r.rp b.toNat))) s

/-- The eight predicates as bits; bit 0 is always 1 (R295). -/
def Regs.preds (r : Regs) : BitVec 8 := r.p ||| 1

/-- PGET (R295). -/
def execPget (g : Guard) (d : Reg) (s : State) : Out :=
  regInstr g [d] [] (fun r => r.ws d (r.preds.setWidth 64)) s

/-- PSET: p1 to p7 from bits 7:1 (R295). -/
def execPset (g : Guard) (a : Reg) (s : State) : Out :=
  regInstr g [a] [] (fun r => { r with p := (r.p &&& 1) ||| ((r.rs a).setWidth 8 &&& 0xFE) }) s

/-- ADDI (R286). -/
def execAddi (g : Guard) (d a : Reg) (imm : BitVec 20) (s : State) : Out :=
  unary g d a (fun x => x + imm20 imm) s

/-- ANDI (R286). -/
def execAndi (g : Guard) (d a : Reg) (imm : BitVec 20) (s : State) : Out :=
  unary g d a (fun x => x &&& imm20 imm) s

/-- ORI (R286). -/
def execOri (g : Guard) (d a : Reg) (imm : BitVec 20) (s : State) : Out :=
  unary g d a (fun x => x ||| imm20 imm) s

/-- XORI (R286). -/
def execXori (g : Guard) (d a : Reg) (imm : BitVec 20) (s : State) : Out :=
  unary g d a (fun x => x ^^^ imm20 imm) s

/-- SHLI: the immediate lies between 0 and 63 (R286). -/
def execShli (g : Guard) (d a : Reg) (imm : BitVec 20) (s : State) : Out :=
  unary g d a (fun x => x <<< imm.toNat) s

/-- SHRI (R286). -/
def execShri (g : Guard) (d a : Reg) (imm : BitVec 20) (s : State) : Out :=
  unary g d a (fun x => x >>> imm.toNat) s

/-- SRAI (R286). -/
def execSrai (g : Guard) (d a : Reg) (imm : BitVec 20) (s : State) : Out :=
  unary g d a (fun x => x.sshiftRight imm.toNat) s

/-- Cond(s[a], Imm) on 64-bit patterns (R287). -/
def cmpImm (g : Guard) (cond : Cond) (p : BitVec 3) (a : Reg) (imm : BitVec 20) (s : State) : Out :=
  regInstr g [a] [] (fun r => r.wp p.toNat (condAt cond .raw (r.rs a).toNat (imm20 imm).toNat)) s

/-- CMPI with a condition code below 8 (R278, R287). -/
def execCmpi (g : Guard) (cond : Cond) (p : BitVec 3) (a : Reg) (imm : BitVec 20) (s : State) : Out :=
  cmpImm g cond p a imm s

/-- CMPI with condition code 8 or 9 (R278, R287). -/
def execCmpiHi (g : Guard) (cond : Cond) (p : BitVec 3) (a : Reg) (imm : BitVec 20) (s : State) : Out :=
  cmpImm g cond p a imm s

/-- MOVI (R288). -/
def execMovi (g : Guard) (d : Reg) (imm : Word) (s : State) : Out :=
  regInstr g [d] [] (fun r => r.ws d imm) s

/-- The address of head `h` of the line `lines` lines away (R267, R289). -/
def lineTarget (pc lines : Word) (h : BitVec 5) : Word := lineOf pc + lines * 64 + 2 * h.setWidth 64

/-- ADDPC (R289). -/
def execAddpc (g : Guard) (d : Reg) (h : BitVec 5) (imm : BitVec 20) (s : State) : Out :=
  regInstr g [d] [] (fun r => r.ws d (lineTarget s.me.pc (imm20 imm) h)) s

/-- CLMUL: bits 63:0 of the carry-less product (R290). -/
def execClmul (g : Guard) (d a b : Reg) (s : State) : Out := binary g d a b (fun x y => BitVec.ofNat 64 (clmul 64 x.toNat y.toNat)) s

/-- CLMULH: bits 127:64 of the carry-less product (R290). -/
def execClmulh (g : Guard) (d a b : Reg) (s : State) : Out := binary g d a b (fun x y => BitVec.ofNat 64 (clmul 64 x.toNat y.toNat / 2 ^ 64)) s

end Sys2Proof.Machine
end

