-- ==== Sys2Proof/Machine/Control.lean ====
section
/-! DEFINITION. Transfers of control, the return-address store, program traps, the two modes and IFENCE (15, R303 to
R311, R314). -/

namespace Sys2Proof.Machine

/-! The return-address store -/

/-- Physical address of an entry of the spill area of a core (R25, R305; log 14). -/
def State.rasSlot (s : State) (k i : Nat) : Nat :=
  s.windowPa k (0x18_0000 + ((s.core k).rasbase.toNat + 8 * i) % 0x1_0000)

/-- Number of entries that stand in the spill area. -/
def Core.spilledRas (c : Core) : Nat := c.rasD - c.ras.length

/-- The oldest held entry is written to the spill area (R305). -/
def State.rasSpill (s : State) (k : Nat) : State :=
  let c := s.core k
  match c.ras.getLast? with
  | some x =>
    (s.setBytes (s.rasSlot k c.spilledRas) (toBytes 8 x.toNat)).modCore k fun c => { c with ras := c.ras.dropLast }
  | none => s

/-- The newest spilled entry is filled back as the oldest held one (R305). -/
def State.rasFill (s : State) (k : Nat) : State :=
  let c := s.core k
  if c.ras.length < c.rasD then
    s.modCore k fun c => { c with ras := c.ras ++ [BitVec.ofNat 64 (s.num (s.rasSlot k (c.spilledRas - 1)) 8)] }
  else s

/-- Push (R305): beyond 16 held entries the oldest is to be spilled, in the background or at the latest before the
next push. -/
def push (x : Word) : M Unit := do
  let c ← theCore
  if c.rasD = 256 then fault 0x1A
  if 16 < c.ras.length then modState fun s => s.rasSpill s.cur
  modMe fun c => { c with rasD := c.rasD + 1, ras := x :: c.ras }

/-- Whether the entry that is filled next holds an uncorrectable error (R10). -/
def State.rasBad (s : State) (k : Nat) : Bool :=
  let c := s.core k
  decide (c.ras.length < c.rasD) && s.bad (s.rasSlot k (c.spilledRas - 1)) 8

/-- Pop (R305): an entry still in the spill area is filled first, and read there (R10; log 14). -/
def pop : M Word := do
  let c ← theCore
  if c.rasD = 0 then fault 0x19
  if c.ras = [] then
    let s ← theState
    let a := s.rasSlot s.cur (c.spilledRas - 1)
    if s.rasBad s.cur then homeFault (0x26, .memue (corePkg s.cur)) (a - s.windowPa s.cur 0)
    modState fun s => s.rasFill s.cur
  let c ← theCore
  modMe fun c => { c with rasD := c.rasD - 1, ras := c.ras.tail }
  pure (c.ras.headD 0)

/-- RAS_SPILL: in the background the current core spills its oldest entry when it holds more than 16 (R305; log 14). -/
def execRasSpill (s : State) : Out := .next (if 16 < s.me.ras.length then s.rasSpill s.cur else s)

/-- RAS_FILL: in the background the current core fills an entry when it holds fewer than min(D, 16) (R305; log 14); an
entry with an uncorrectable error stays for the pop that reads it (R10). -/
def execRasFill (s : State) : Out :=
  .next (if s.me.ras.length < min s.me.rasD 16 && !s.rasBad s.cur then s.rasFill s.cur else s)

/-! Transfers -/

/-- Transfer control to a target, which is checked when it is entered (R268). -/
def jump {α : Type} (t : Word) : M α := do
  modMe fun c => c.goto t
  leave

/-- NOP (R303). -/
def execNop (g : Guard) (s : State) : Out := regInstr g [] [] (fun r => r) s

/-- BR (R267, R303). -/
def execBr (g : Guard) (h : BitVec 5) (off : BitVec 27) (s : State) : Out :=
  instr g [] [] (jump (lineTarget s.me.pc (signExt off) h)) s

/-- JMP (R303). -/
def execJmp (g : Guard) (a : Reg) (s : State) : Out := instr g [a] [] (jump (s.me.regs.rs a)) s

/-- CALL (R303, R305). -/
def execCall (g : Guard) (h : BitVec 5) (off : BitVec 27) (s : State) : Out :=
  instr g [] []
    (do
      push s.me.nextPc
      jump (lineTarget s.me.pc (signExt off) h))
    s

/-- CALLI: the target is read before the push (R303). -/
def execCalli (g : Guard) (a : Reg) (s : State) : Out :=
  instr g [a] []
    (do
      push s.me.nextPc
      jump (s.me.regs.rs a))
    s

/-- RET (R303, R305). -/
def execRet (g : Guard) (s : State) : Out :=
  instr g [] []
    (do
      let t ← pop
      jump t)
    s

/-- LOOP (R304). -/
def execLoop (g : Guard) (h : BitVec 5) (off : BitVec 21) (a : Reg) (s : State) : Out :=
  let n := s.me.regs.rs a - 1
  instr g [a] []
    (do
      wrS a n
      if n ≠ 0 then jump (lineTarget s.me.pc (signExt off) h))
    s

/-! Modes -/

/-- TRAP (R310). -/
def execTrap (g : Guard) (imm : BitVec 20) (s : State) : Out := instr g [] [] (fault 0x18 (imm.setWidth 64)) s

/-- ERET (R311). -/
def execEret (g : Guard) (s : State) : Out :=
  instr g [] []
    (do
      handlerOnly
      modMe Core.eret
      leave)
    s

/-- Whether something that ends a WFI is pending (R311). -/
def Core.roused (c : Core) : Bool := c.preempt || c.asyncTrap.isSome || 0 < c.svc

/-- A core whose firmware has taken some of the messages for its service endpoint, no one says how many (R311; log 18). -/
def Core.served (c : Core) (tick : Nat) : Core := { c with svc := c.svc - Config.messagesTaken tick }

/-- WFI clock-gates the core until something is pending (R311): messages that its firmware has taken are so no longer. -/
def execWfi (g : Guard) (s : State) : Out :=
  instr g [] []
    (do
      handlerOnly
      modMe fun c => c.served s.tick
      let c ← theCore
      if c.roused then pure ()
      else
        modMe fun c => { c with run := .gated }
        leave)
    s

/-- HALT stops fetch until the package is reset (R311). -/
def execHalt (g : Guard) (s : State) : Out :=
  instr g [] []
    (do
      handlerOnly
      modMe fun c => { c.advance with run := .halted }
      leave)
    s

/-- IFENCE (R314): a release at fabric scope, an empty instruction cache, and the next head's line entered again. -/
def execIfence (g : Guard) (s : State) : Out :=
  instr g [] []
    (do
      fenceRel 4
      modMe fun c => { c with icache := [] , pc := c.nextPc, fline := none, wait := .none }
      leave)
    s

end Sys2Proof.Machine
end

