-- ==== Sys2Proof/Machine/Engine.lean ====
section
/-! DEFINITION. What the engines share (18, R368 to R372; 03, R58 to R60; 07, R118 to R121): records, the monad of
commands, their reads and writes, shape records, and the end of a command. -/

namespace Sys2Proof.Machine

/-! Records -/

/-- `n` bytes of a record from an offset, as a number. -/
def recNum (r : LineBits) (off n : Nat) : Nat := r.toNat / 2 ^ (8 * off) % 2 ^ (8 * n)

/-- CODE (R368). -/
def recCode (r : LineBits) : Nat := recNum r 0 1

/-- Bit 0 of FLAGS: CE (R368). -/
def recCE (r : LineBits) : Bool := recNum r 1 1 % 2 == 1

/-- A flag bit of FLAGS (R368). -/
def recFlag (r : LineBits) (i : Nat) : Bool := recNum r 1 1 / 2 ^ i % 2 == 1

/-- TAG (R368). -/
def recTag (r : LineBits) : Nat := recNum r 2 2

/-- Whether the FLAGS bits from `i` up are zero (R369). -/
def flagsOk (r : LineBits) (i : Nat) : Bool := recNum r 1 1 < 2 ^ i

/-- Whether bytes `lo` to `hi` − 1 are zero (R369). -/
def reserved (r : LineBits) (lo hi : Nat) : Bool := recNum r lo (hi - lo) == 0

/-- Codes each queue accepts (R368). -/
def queueCode (q : Queue) (c : Nat) : Bool :=
  match q with
  | .mat => 1 ≤ c && c ≤ 8
  | .cpy => 0x20 ≤ c && c ≤ 0x26
  | .med => c == 0x40 || c == 0x41

/-! The monad of commands -/

/-- Who runs a command: the pushing core, its context, whether pushed in handler mode, the media engine's die. -/
structure Doer where
  core    : Nat
  ctx     : Nat
  handler : Bool
  die     : Option Nat
deriving DecidableEq, Repr

/-- A running command: the state, its counters (R119), the entry it works on (R120, R127, R388), and for scratchpad bytes,
by their global physical address, the older values that it may take (R91). -/
structure Work where
  st    : State
  sat   : Nat
  nan   : Nat
  aux   : Nat
  entry : Nat
  missed : List (Nat × List Byte)
deriving DecidableEq, Repr

/-- A command ends with a status, what it did before staying done; or, with `again`, it has to wait and begins anew, with
nothing done. -/
structure Stop where
  status : Nat
  note   : Note
  work   : Work
  again  : Bool
deriving DecidableEq, Repr

/-- A command at its beginning. -/
def Work.start (s : State) (missed : List (Nat × List Byte)) : Work := ⟨s, 0, 0, 0, 0, missed⟩

/-- Commands. -/
abbrev E := StateT Work (Except Stop)

/-- End with a status. -/
def stop {α : Type} (status : Nat) (note : Note := .none) : E α := fun w => .error ⟨status, note, w, false⟩

/-- The command cannot go on yet: it begins anew. -/
def eAgain {α : Type} : E α := fun w => .error ⟨0, .none, w, true⟩

/-- The state under a command. -/
def eState : E State := fun w => .ok (w.st, w)

/-- Change the state under a command. -/
def eMod (f : State → State) : E Unit := fun w => .ok ((), { w with st := f w.st })

/-- A check of a command. -/
def eReq (b : Bool) (status : Nat) : E Unit := if b then pure () else stop status

/-- Name the entry worked on. -/
def eEntry (n : Nat) : E Unit := fun w => .ok ((), { w with entry := n })

/-- Add to AUX. -/
def eAux (n : Nat) : E Unit := fun w => .ok ((), { w with aux := w.aux + n })

/-- Count what a conversion counts; counters stop at 0xFFFF (R67, R119). -/
def eCount (c : Conv) : E Nat := fun w =>
  .ok (c.bits, { w with
    sat := if c.sat then min 0xFFFF (w.sat + 1) else w.sat
    nan := if c.nan then min 0xFFFF (w.nan + 1) else w.nan })

/-- Do something for each element in turn. -/
def eEach {α : Type} (l : List α) (f : α → E Unit) : E Unit :=
  match l with
  | [] => pure ()
  | x :: r => do f x; eEach r f

/-- Results for each element in turn. -/
def eCollect {α β : Type} (l : List α) (f : α → E β) : E (List β) :=
  match l with
  | [] => pure []
  | x :: r => do
    let y ← f x
    let ys ← eCollect r f
    pure (y :: ys)

/-- Do something for the numbers from `i` on, `n` of them. -/
def eFor (f : Nat → E Unit) (i : Nat) : Nat → E Unit
  | 0 => pure ()
  | n + 1 => do f i; eFor f (i + 1) n

/-! Reads and writes -/

/-- A doer as a requester at the homes (R474). -/
def Doer.who (d : Doer) : Who := ⟨d.core, d.handler, d.die.isNone && coreWorld d.core⟩

/-- Status with which an engine command meets an answer of a home: an error response acts as 0x20 (R120, R476). -/
def engineStatus (st : Nat) : Nat := if st = 0x50 then 0x20 else st

/-- Put an entry first in a media engine's TLB of 256 (R471). -/
def mediaPut (x : Leaf) (l : List Leaf) : List Leaf := lruPut 256 x l

/-- The page of an address for a media engine, from the die's TLB or a walk (R471, R472). -/
def State.mediaPage (s : State) (w : Who) (die va : Nat) : State × Found :=
  let root := (s.core w.core).root w.secure
  let keep := fun (s : State) (l : Leaf) => s.modDie die fun x => { x with tlb := mediaPut l x.tlb }
  match (s.die die).tlb.find? (·.hits root va) with
  | some l => (keep s l, .page l)
  | none =>
    match s.miss w none root va with
    | (s, .page l) => (keep s l, .page l)
    | r => r

/-- Translate for a command: matrix and copy commands through the pushing core's TLBs, media commands through the die's
(R471). -/
def State.engineTranslate (s : State) (d : Doer) (need : Need) (va : Nat) : State × Placed :=
  match d.die with
  | none => s.translate d.who need va
  | some k =>
    if !canonical va then (s, .bad 0x25 .none)
    else
      let r := s.mediaPage d.who k (va % 2 ^ 57)
      (r.1, r.1.checkPage d.who need va r.2)

/-- Translate one address of a command; it waits for a walk that takes its time (R472). -/
def eTranslate (d : Doer) (need : Need) (va : Nat) : E (Nat × Leaf) := fun w =>
  match w.st.engineTranslate d need va with
  | (s, .at_ pa l) => .ok ((pa, l), { w with st := s })
  | (s, .bad st n) => .error ⟨engineStatus st, n, { w with st := s }, false⟩
  | (s, .walks) => .error ⟨0, .none, { w with st := s }, true⟩

/-- An access cut at the 64-byte lines it covers. -/
def cuts (a n : Nat) : List (Nat × Nat) :=
  (upFrom (a / 64) ((a + n + 63) / 64 - a / 64)).map fun l =>
    (max a (64 * l), min (a + n) (64 * l + 64) - max a (64 * l))

/-- The task that holds a CTXID in a package (R444). -/
def State.taskOfCtx (s : State) (pkg ctx : Nat) : Option (Nat × Task) :=
  s.tasks.find? fun t => t.2.ctxid == ctx && t.2.cluster / 32 == pkg && !t.2.phase.waits

/-- The node that a command's X accesses carry (R459): that of its core's task, and for the media engine, whose commands stay
when their task leaves its core, that of the task that pushed it. -/
def State.doerNode (s : State) (d : Doer) : Option NodeKey :=
  match d.die with
  | none => (s.core d.core).node
  | some _ => (s.taskOfCtx (corePkg d.core) d.ctx).map fun t => (t.2.graph, t.2.node)

/-- Key of the core whose scratchpad an X address of a command reaches, where one serves it (R459). -/
def State.xKey (s : State) (d : Doer) (a : Nat) : Option Nat :=
  match s.xRoute (s.doerNode d) (sibling d.core (a / 2 ^ 20)) with
  | .here k => some k
  | _ => none

/-- The core whose scratchpad an X address of a command reaches: the command waits for a suspended task to resume, and is
refused where no task of its node is served (R459). -/
def eXCore (d : Doer) (a : Nat) : E Nat := do
  let s ← eState
  match s.xRoute (s.doerNode d) (sibling d.core (a / 2 ^ 20)) with
  | .here k => pure k
  | .later _ => eAgain
  | .refused => stop 0x2A

/-- A byte of a scratchpad as a command sees it: a store that its core made since the push is seen or missed (R91), as a
free value decides (log 8). -/
def Work.byte (w : Work) (pa : Nat) : Byte × Work :=
  match find? w.missed pa with
  | none => (w.st.byte pa, w)
  | some vs =>
    let vs := w.st.byte pa :: vs
    (vs.getD ((Config.freeValue w.st.free).toNat % vs.length) 0, { w with st := { w.st with free := w.st.free + 1 } })

/-- `n` bytes of a scratchpad as a command sees them. -/
def Work.bytes (w : Work) (pa : Nat) : Nat → List Byte × Work
  | 0 => ([], w)
  | n + 1 =>
    let x := w.byte pa
    let r := x.2.bytes (pa + 1) n
    (x.1 :: r.1, r.2)

/-- Read a scratchpad for a command. -/
def eSpad (k off n : Nat) : E (List Byte) := fun w =>
  let pa := w.st.windowPa k off
  if w.st.bad pa n then .error ⟨0x26, .memue (corePkg k), w, false⟩
  else if w.missed.isEmpty then .ok (w.st.bytes pa n, w)
  else .ok (w.bytes pa n)

/-- What a command's write leaves in bytes of a scratchpad: a byte that its core has stored to since the push ends with
one of the two values (R91), as a free value decides (log 8). -/
def Work.settle (w : Work) (pa : Nat) : List Byte → List Byte × Work
  | [] => ([], w)
  | b :: r =>
    match find? w.missed pa with
    | none =>
      let x := w.settle (pa + 1) r
      (b :: x.1, x.2)
    | some _ =>
      let keep := (Config.freeValue w.st.free).getLsbD 0
      let u := { w with st := { w.st with free := w.st.free + 1 }, missed := erase w.missed pa }
      let x := u.settle (pa + 1) r
      ((if keep then w.st.byte pa else b) :: x.1, x.2)

/-- Write a scratchpad for a command. -/
def ePutSpad (k off : Nat) (data : List Byte) : E Unit := fun w =>
  let pa := w.st.windowPa k off
  let r := if w.missed.isEmpty then (data, w) else w.settle pa data
  .ok ((), { r.2 with st := r.2.st.homeBytes none false pa r.1 })

/-- Read at the home of a physical address. -/
def eHome (d : Doer) (pa n : Nat) : E (List Byte) := fun w =>
  match w.st.homeRead d.who .engine pa n with
  | .ok bs => .ok (bs, w)
  | .error (st, note) => .error ⟨engineStatus st, note, w, false⟩

/-- Read `n` bytes in a space (R121); foreign pages are read by RMA (R470). -/
def eRead (d : Doer) (space a n : Nat) : E (List Byte) := do
  match space with
  | 0 => do
    let bs ← eCollect (cuts a n) fun c => do
      let (pa, l) ← eTranslate d .r (c.1 % 2 ^ 64)
      if l.f then
        let s ← eState
        pure (s.winBytes (corePkg d.core) (pa / 2 ^ 48) (pa % 2 ^ 48) c.2)
      else eHome d pa c.2
    pure bs.flatten
  | 1 => eSpad d.core a n
  | 2 => do
    let k ← eXCore d a
    eSpad k (a % 2 ^ 20) n
  | _ => do
    let s ← eState
    let bs ← eCollect (cuts a n) fun c =>
      eHome d (s.idOf d.core * 2 ^ 44 + vaultBase (coreDie d.core % 4) + c.1) c.2
    pure bs.flatten

/-- Write at the home of a physical address; a protected write counts on the pushing core (R129), and the command waits
where the home defers it (R494). -/
def ePut (d : Doer) (prot : Bool) (pa : Nat) (data : List Byte) : E Unit := fun w =>
  match w.st.answer d.who .engine pa data.length with
  | (0, _) =>
    if w.st.defers prot (pa / 64) then .error ⟨0, .none, w, true⟩
    else .ok ((), { w with st := w.st.homeBytes (some d.core) prot pa data })
  | (st, note) => .error ⟨engineStatus st, note, w, false⟩

/-- Write bytes in a space (R121, R218). -/
def eWrite (d : Doer) (space a : Nat) (data : List Byte) : E Unit := do
  match space with
  | 0 =>
    eEach (cuts a data.length) fun c => do
      let part := (data.drop (c.1 - a)).take c.2
      let (pa, l) ← eTranslate d .w (c.1 % 2 ^ 64)
      if l.f then eMod fun s => s.setWin (corePkg d.core) (pa / 2 ^ 48) (pa % 2 ^ 48) part
      else ePut d l.pr pa part
  | 1 => ePutSpad d.core a data
  | 2 => do
    let k ← eXCore d a
    ePutSpad k (a % 2 ^ 20) data
  | _ => do
    let s ← eState
    eEach (cuts a data.length) fun c =>
      ePut d false (s.idOf d.core * 2 ^ 44 + vaultBase (coreDie d.core % 4) + c.1) ((data.drop (c.1 - a)).take c.2)

/-! Checks -/

/-- The header that a command is checked against: that of the task that pushed it (R145); a command pushed in handler
mode has none (log 19). -/
def State.cmdHeader (s : State) (d : Doer) : Option Header :=
  if d.handler then none
  else
    (s.tasks.find? fun t => t.2.ctxid == d.ctx && t.2.cluster / 32 == corePkg d.core && !t.2.phase.waits).map
      (·.2.hdr)

/-- Declared scratchpad bytes of a command (R145). -/
def State.scratchOf (s : State) (d : Doer) : Nat := ((s.cmdHeader d).map (·.scratch)).getD (2 ^ 64)

/-- The declaration check on L bytes of a command (R145). -/
def eDecl (d : Doer) (lo hi : Int) : E Unit := do
  let s ← eState
  eReq (0 ≤ lo ∧ hi ≤ s.scratchOf d) 0x21

/-- The declaration check on a handle (R145). -/
def eHandle (d : Doer) (h : Nat) : E Unit := do
  let s ← eState
  eReq (h < ((s.cmdHeader d).map (·.accs)).getD 16) 0x15

/-- Bytes of the scratchpad of a core. -/
def State.spadTop (s : State) (k : Nat) : Nat := (s.core k).spbanks * 0x1_0000

/-- BFMT of a bank, zero while the bank belongs to the cache (R27). -/
def Core.bfmtAt (c : Core) (k : Nat) : BitVec 16 := if k < c.spbanks then look c.bfmt 0 k else 0

/-- FMT of a bank (R54). -/
def Core.fmtAt (c : Core) (k : Nat) : Ty := Ty.ofCode ((c.bfmtAt k).setWidth 4)

/-- SCALE of a bank (R54). -/
def Core.scaleAt (c : Core) (k : Nat) : Int := toSigned 8 ((c.bfmtAt k).toNat / 256)

/-- Bytes of an element of a format; EC8 elements count as one, raw ones as one. -/
def elemSize (t : Ty) : Nat :=
  match t with
  | .raw | .ec8 => 1
  | t => t.width / 8

/-! Shape records -/

/-- A shape record (R58), its arrays up to the rank. -/
structure Shape where
  base   : Nat
  space  : Nat
  rank   : Nat
  fmt    : Nat
  scale  : Int
  bank   : Nat
  dims   : List Nat
  strides : List Int
  tiles  : List Nat
deriving DecidableEq, Repr

/-- A field of a record's 192 bytes. -/
def bytesNum (bs : List Byte) (off n : Nat) : Nat := ofBytes ((bs.drop off).take n)

/-- Read the fields of a shape record (R58). -/
def shapeOf (bs : List Byte) : Shape :=
  let rank := bytesNum bs 0x09 1
  { base := bytesNum bs 0 8, space := bytesNum bs 8 1, rank := rank, fmt := bytesNum bs 0x0A 1
    scale := toSigned 8 (bytesNum bs 0x0B 1), bank := bytesNum bs 0x0C 1
    dims := (upFrom 0 (min 6 rank)).map fun i => bytesNum bs (0x10 + 8 * i) 8
    strides := (upFrom 0 (min 6 rank)).map fun i => toSigned 64 (bytesNum bs (0x40 + 8 * i) 8)
    tiles := (upFrom 0 (min 6 rank)).map fun i => bytesNum bs (0x70 + 4 * i) 4 }

/-- The rules of R58 and R59 on a record's bytes. -/
def shapeOk (bs : List Byte) (r : Shape) : Bool :=
  let t := Ty.ofCode (BitVec.ofNat 4 r.fmt)
  r.space < 4 && 1 ≤ r.rank && r.rank ≤ 6 && 1 ≤ r.fmt && r.fmt < 16 &&
    (r.space == 0 || r.base < 2 ^ 57) &&
    (r.bank == 0xFF || (r.space == 1 && r.bank == r.base / 0x1_0000)) &&
    bytesNum bs 0x0D 3 == 0 && bytesNum bs 0x88 56 == 0 &&
    r.dims.all (fun x => 1 ≤ x && x ≤ 2 ^ 40) &&
    (List.zipWith (fun t x => decide (1 ≤ t ∧ t ≤ x)) r.tiles r.dims).all id &&
    (if t == .ec8 then r.rank ≤ 2 && r.dims.getD 0 0 % 2048 == 0 else r.strides.getD 0 0 == elemSize t)

/-- Look up a shape record in the cache, or read it and cache it (R60). -/
def eShapeBytes (d : Doer) (space a : Nat) : E (List Byte) := do
  let s ← eState
  let c := s.core d.core
  match c.eng.shapes.find? fun x => x.space == space && x.addr == a with
  | some x => do
    eMod fun s => s.modCore d.core fun c => { c with eng := { c.eng with shapes := x :: c.eng.shapes.erase x } }
    pure x.data
  | none => do
    if space = 1 then eReq (a + 192 ≤ s.spadTop d.core) 0x22
    if space = 3 then eReq (a + 192 ≤ 0x8000_0000) 0x24
    let bs ← eRead d space a 192
    eMod fun s => s.modCore d.core fun c =>
      { c with eng := { c.eng with shapes := (⟨space, a, bs⟩ :: c.eng.shapes).take 16 } }
    pure bs

/-- Resolve a shape record (step 3 of R369). -/
def eShape (d : Doer) (space a : Nat) : E Shape := do
  let bs ← eShapeBytes d space a
  let r := shapeOf bs
  eReq (shapeOk bs r) 0x31
  pure r

/-- An operand described by a shape record, with the format and scale it takes (R388): `fmt` is raw where bytes move,
`esz` the bytes of an element. -/
structure Opnd where
  space  : Nat
  base   : Nat
  fmt    : Ty
  esz    : Nat
  scale  : Int
  dims   : List Nat
  strides : List Int
  tiles  : List Nat
deriving DecidableEq, Repr

/-- Format and scale of an operand: those of its bank in L space, a raw bank taking its element size from the record,
else those of the record (R388). -/
def State.opnd (s : State) (k : Nat) (r : Shape) : Opnd :=
  let t := Ty.ofCode (BitVec.ofNat 4 r.fmt)
  let c := s.core k
  let b := r.base / 0x1_0000
  let f := if r.space = 1 then c.fmtAt b else t
  { space := r.space, base := r.base, fmt := f
    esz := if f == .raw then elemSize t else elemSize f
    scale := if r.space = 1 then c.scaleAt b else r.scale
    dims := r.dims, strides := r.strides, tiles := r.tiles }

/-- Address of the element at an index (R58). -/
def Opnd.addr (o : Opnd) (x : List Nat) : Int := 
  (List.zipWith (fun (i : Nat) (st : Int) => (i : Int) * st) x o.strides).foldl (· + ·) (o.base : Int)

/-- Least and greatest byte address of a box of sizes from index 0. -/
def Opnd.extent (o : Opnd) (box : List Nat) : Int × Int :=
  (List.zipWith (fun n (st : Int) => ((n - 1 : Nat) : Int) * st) box o.strides).foldl
    (fun e d => if d < 0 then (e.1 + d, e.2) else (e.1, e.2 + d))
    ((o.base : Int), (o.base : Int) + (o.esz - 1 : Nat))

/-- Index with a linear number in a box, dimension 0 fastest (R388). -/
def boxIndex : List Nat → Nat → List Nat
  | [], _ => []
  | n :: r, i => i % n :: boxIndex r (i / n)

/-- Elements of a box. -/
def boxSize (box : List Nat) : Nat := box.foldl (· * ·) 1

/-- Whether the bytes of a non-EC8 operand lie where R369 step 4 and R388 ask: in one bank below SPBANKS for L, within
the target's scratchpad for X, in the vault window for V. -/
def State.opndIn (s : State) (d : Doer) (o : Opnd) (box : List Nat) : Bool :=
  let (lo, hi) := o.extent box
  match o.space with
  | 1 =>
    0 ≤ lo && hi < s.spadTop d.core && lo / 0x1_0000 == (o.base / 0x1_0000 : Nat) &&
      hi / 0x1_0000 == (o.base / 0x1_0000 : Nat)
  | 2 =>
    0 ≤ lo && hi < 2 ^ 26 &&
      (upFrom 0 (boxSize box)).all fun i =>
        let a := (o.addr (boxIndex box i)).toNat
        a / 2 ^ 20 ≤ 47 && a % 2 ^ 20 + o.esz ≤ s.spadTop ((s.xKey d a).getD (sibling d.core (a / 2 ^ 20)))
  | 3 => 0 ≤ lo && hi < 0x8000_0000
  | _ => true

/-- A command waits, before it judges them, for the suspended tasks whose scratchpads an operand in X space names
(R459). -/
def eAwaitX (d : Doer) (o : Opnd) (box : List Nat) : E Unit := do
  let s ← eState
  if o.space = 2 then
    eEach (upFrom 0 (boxSize box)) fun i =>
      match s.xRoute (s.doerNode d) (sibling d.core ((o.addr (boxIndex box i)).toNat / 2 ^ 20)) with
      | .later _ => eAgain
      | _ => pure ()

/-! The end of a command -/

/-- Whether a status ends the grid for a command of a queue (R90, R120, R371, R453).  Of an X access that no task of the node
serves, status 0x2A, R120 has a copy command's element alone tell (log 27). -/
def endsGrid (q : Queue) (st : Nat) : Bool :=
  has [0x20, 0x25, 0x26, 0x60, 0x15, 0x21, 0x51] st || (q == .mat && has [0x34, 0x35, 0x36, 0x37, 0x39] st) ||
    (q != .cpy && st == 0x2A)

/-- A completion element enters the result queue of its context: of the core it runs on, or of its image while it is
suspended (R372, R394). -/
def State.element (s : State) (d : Doer) (e : Elem) : State :=
  let enter := fun (k : Nat) => s.modCore k fun c =>
    { c with eng := { c.eng with held := c.eng.held ++ [e], reserved := c.eng.reserved - 1 } }
  match s.taskOfCtx (corePkg d.core) d.ctx with
  | some (_, t) =>
    match t.phase with
    | .issued k => enter k
    | .suspended _ i _ =>
      let a := s.imageAt (corePkg d.core) i
      let n := s.num (a + 0x2D) 1
      (((s.setBytes (a + 0x4200 + 16 * n) (toBytes 8 e.lo.toNat ++ toBytes 8 e.hi.toNat)).setByte (a + 0x2D)
        (BitVec.ofNat 8 (n + 1))).setByte (a + 0x2E) (BitVec.ofNat 8 (s.num (a + 0x2E) 1 - 1)))
    | _ => s
  | none => if (s.core d.core).task.isNone then enter d.core else s

/-- First half of a completion element (R370). -/
def elemLo (r : LineBits) (st : Nat) : Word := BitVec.ofNat 64 (recTag r + st * 2 ^ 16)

/-- Code of a queue (R273). -/
def queueNum : Queue → Nat
  | .mat => 0 | .cpy => 1 | .med => 2

/-- The trap of a grid-ending command on the core of its task (R90, R120, R371, R451); of a suspended task the grid is
told at once. -/
def State.engineTrap (s : State) (d : Doer) (q : Queue) (r : LineBits) (st entry : Nat) : State :=
  let t : Trap :=
    { status := st, source := 1, queue := queueNum q, info := BitVec.ofNat 64 (recTag r + entry * 2 ^ 24) }
  match s.taskOfCtx (corePkg d.core) d.ctx with
  | some (_, x) =>
    match x.phase with
    | .issued k => s.asyncCause k t
    | _ => s.report (x.graph, x.node) st t.info
  | none => s.asyncCause d.core t

/-- How a command's run came out: its status and the second half of its element. -/
structure CmdEnd where
  status : Nat
  hi     : Nat
  /-- an element is written although the status ends the grid (R105) -/
  keep   : Bool := false
deriving DecidableEq, Repr

/-- A command ends: its element, or the end of its grid (R90, R120, R370 to R372). -/
def State.cmdEnds (s : State) (d : Doer) (q : Queue) (r : LineBits) (entry : Nat) (e : CmdEnd) : State :=
  let fatal := endsGrid q e.status
  let s := if recCE r && (!fatal || e.keep) then s.element d ⟨elemLo r e.status, BitVec.ofNat 64 e.hi⟩ else s
  if fatal then s.engineTrap d q r e.status entry else s

/-- Second half of a copy command's element (R119). -/
def Work.copyHi (w : Work) : Nat := w.aux % 2 ^ 32 * 2 ^ 32 + w.nan * 2 ^ 16 + w.sat

/-- The doer of a core's command. -/
def Cmd.doer (c : Cmd) (k : Nat) : Doer := ⟨k, c.ctx, c.handler, none⟩

/-- The queue of a core. -/
def Engine.queue (e : Engine) : Queue → List Cmd
  | .mat => e.mat
  | _ => e.cpy

/-- Whether a queue is stopped. -/
def Engine.stopped (e : Engine) : Queue → Bool
  | .mat => e.matStop
  | _ => e.cpyStop

/-- Change a core's queue. -/
def State.setQueue (s : State) (k : Nat) (q : Queue) (l : List Cmd) : State :=
  s.modCore k fun c => { c with eng := match q with
    | .mat => { c.eng with mat := l }
    | _ => { c.eng with cpy := l } }

/-- Stop a core's queue after a grid-ending status (R90, R120). -/
def State.stopQueue (s : State) (k : Nat) (q : Queue) : State :=
  s.modCore k fun c => { c with eng := match q with
    | .mat => { c.eng with matStop := true }
    | _ => { c.eng with cpyStop := true } }

/-- The first command of a queue leaves it and ends. -/
def State.endHead (s : State) (k : Nat) (q : Queue) (c : Cmd) (entry : Nat) (e : CmdEnd) : State :=
  let s := s.setQueue k q (((s.core k).eng.queue q).drop 1)
  let s := s.cmdEnds (c.doer k) q c.record entry e
  if endsGrid q e.status then s.stopQueue k q else s

/-- Physical address of the image of a handle or B slot in the context image of a core's task (R456). -/
def State.slotImage (s : State) (k : Nat) (slot : Bool) (i : Nat) : Nat :=
  let img := ((s.core k).task.bind fun t => (find? s.tasks t.id).bind (·.image)).getD 0
  s.imageAt (corePkg k) img + (if slot then 0xE_D000 + 0x5000 * i else 0x11_5000 + 0x1_1000 * i)

/-- Second half of the element of a matrix command that is refused (R370): for MZERO, MMUL and MFILL the overflow count of
the slot behind the handle named, as it stands. -/
def State.refusedHi (s : State) (k : Nat) (r : LineBits) : Nat :=
  let e := (s.core k).eng
  let counted := recCode r == 1 || recCode r == 3 || (recCode r == 8 && recNum r 4 1 == 0)
  let h := if recCode r = 8 then recNum r 5 1 else recNum r 4 1
  if counted then
    match find? e.handles h with
    | some (.bound p) => ((find? e.acc p).map (·.ovf)).getD 0
    | some .spilled => s.num (s.slotImage k false h + 8) 2
    | none => 0
  else 0

/-- Run the first command of a core's queue, if its CODE is the one given or no code of the queue at all and `first`
(R369 step 1): the body gives its status and element. -/
def State.runHead (s : State) (k : Nat) (q : Queue) (code : Nat) (first : Bool) (body : Cmd → E CmdEnd) : State :=
  let e := (s.core k).eng
  match e.queue q with
  | [] => s
  | c :: _ =>
    if e.stopped q || c.begun || !(s.core k).performedTo c.after then s
    else if recCode c.record = code then
      match body c (.start s c.missed) with
      | .ok (r, w) => w.st.endHead k q c w.entry r
      | .error x =>
        if x.again then s.keepTlbs k x.work.st
        else
          (x.work.st.note x.note).endHead k q c x.work.entry
            ⟨x.status, if q = .cpy then x.work.copyHi else x.work.st.refusedHi k c.record, false⟩
    else if first && !queueCode q (recCode c.record) then s.endHead k q c 0 ⟨0x3A, 0, false⟩
    else s

end Sys2Proof.Machine
end

