-- ==== Sys2Proof/Machine/Ec8.lean ====
section
/-! DEFINITION. EC8 blocks and segments (04, R69 to R74): decoding, encoding, the extent of rows, reading segments. -/

namespace Sys2Proof.Machine

/-! Blocks -/

/-- The bits of bytes, bit 0 of each first. -/
def bitsOf (bs : List Byte) : List Bool := bs.flatMap fun b => (upFrom 0 8).map b.getLsbD

/-- Bytes of a bit string, padded with zeros (R69). -/
def packBits : Nat → List Bool → List Byte
  | 0, _ => []
  | n + 1, l => BitVec.ofNat 8 (ofBools (l.take 8)) :: packBits n (l.drop 8)

/-- `n` deltas of a stream with the bits they take (R70): none where the stream ends or a long code carries less
than 3. -/
def readDeltas : Nat → List Bool → Option (List Nat × Nat)
  | 0, _ => some ([], 0)
  | n + 1, false :: r => (readDeltas n r).map fun x => (0 :: x.1, x.2 + 1)
  | n + 1, true :: false :: r => (readDeltas n r).map fun x => (1 :: x.1, x.2 + 2)
  | n + 1, true :: true :: false :: r => (readDeltas n r).map fun x => (2 :: x.1, x.2 + 3)
  | n + 1, true :: true :: true :: a :: b :: c :: d :: r =>
    let v := ofBools [a, b, c, d]
    if v < 3 then none else (readDeltas n r).map fun x => (v :: x.1, x.2 + 7)
  | _, _ => none

/-- The code of a delta (R70). -/
def deltaBits (d : Nat) : List Bool :=
  if d = 0 then [false]
  else if d = 1 then [true, false]
  else if d = 2 then [true, true, false]
  else [true, true, true] ++ (upFrom 0 4).map d.testBit

/-- Nibble `i` of a block (R69). -/
def nibble (bs : List Byte) (i : Nat) : Nat := (bs.getD (1 + i / 2) 0).toNat / 16 ^ (i % 2) % 16

/-- The 32 E4M3 encodings of a block of the length given by the directory; none where it is invalid (R71). -/
def decodeBlock (bs : List Byte) : Option (List Nat) :=
  let h := (bs.headD 0).toNat
  match readDeltas 32 (bitsOf (bs.drop 17)) with
  | some (ds, used) =>
    if h < 16 && ds.all (· ≤ h) && bs.length == 17 + (used + 7) / 8 then
      some (ds.zipIdx.map fun x => nibble bs x.2 / 8 * 128 + (h - x.1) * 8 + nibble bs x.2 % 8)
    else none
  | none => none

/-- Exponent field of an E4M3 encoding. -/
def expField (c : Nat) : Nat := c / 8 % 16

/-- Sign-and-mantissa nibble of an E4M3 encoding. -/
def signNibble (c : Nat) : Nat := c / 128 % 2 * 8 + c % 8

/-- Encode 32 elements (R69, R73). -/
def encodeBlock (cs : List Nat) : List Byte :=
  let b := cs.foldl (fun m c => max m (expField c)) 0
  let bits := cs.flatMap fun c => deltaBits (b - expField c)
  let nibs := (pieces 2 16 cs).map fun p =>
    BitVec.ofNat 8 (signNibble (p.getD 0 0) + 16 * signNibble (p.getD 1 0))
  BitVec.ofNat 8 b :: (nibs ++ packBits ((bits.length + 7) / 8) bits)

/-! Segments and rows -/

/-- The first 64-byte boundary at or after an address (R72). -/
def align64 (a : Int) : Int := (a + 63) / 64 * 64

/-- A segment of 2,048 elements with its directory (R72, R73). -/
def encodeSegment (cs : List Nat) : List Byte :=
  let bs := (pieces 32 64 cs).map encodeBlock
  bs.map (fun b => BitVec.ofNat 8 b.length) ++ bs.flatten

/-- The encoded segments of a row of `n` of them (R73). -/
def segmentsOf : Nat → List Nat → List (List Byte)
  | 0, _ => []
  | n + 1, cs => encodeSegment (cs.take 2048) :: segmentsOf n (cs.drop 2048)

/-- The bytes of a row of segments that starts at an address, zeros between a segment's end and the next one's start
(R73). -/
def layRow (a : Int) : List (List Byte) → List Byte
  | [] => []
  | [seg] => seg
  | seg :: r =>
    let e := a + seg.length
    seg ++ List.replicate (align64 e - e).toNat 0 ++ layRow (align64 e) r

/-- The bytes of a row of `n` segments of elements that starts at an address (R73). -/
def encodeRow (a : Int) (n : Nat) (cs : List Nat) : List Byte := layRow a (segmentsOf n cs)

/-- A byte of an operand's space as it stands, to find the extent of rows before they are read; zero in G space. -/
def State.peek (s : State) (d : Doer) (space : Nat) (a : Int) : Nat :=
  let n := a.toNat
  match space with
  | 1 => (s.byte (s.windowPa d.core n)).toNat
  | 2 =>
    match s.xKey d n with
    | some k => (s.byte (s.windowPa k (n % 2 ^ 20))).toNat
    | none => 0
  | 3 => (s.byte (s.idOf d.core * 2 ^ 44 + vaultBase (coreDie d.core % 4) + n)).toNat
  | _ => 0

/-- The end of a row of `n` segments, by its directories as they stand (R72): a byte outside 21 to 45 counts for what it is,
so that a row it takes beyond its bounds ends with their status before 0x32 is found (DESIGN CHOICE, log 67). -/
def State.rowEnd (s : State) (d : Doer) (space : Nat) (a : Int) : Nat → Int
  | 0 => a
  | n + 1 =>
    let sum : Nat := ((upFrom 0 64).map fun (i : Nat) => s.peek d space (a + (i : Int))).foldl (· + ·) 0
    let e : Int := a + 64 + (sum : Int)
    if n = 0 then e else s.rowEnd d space (align64 e) n

/-- Whether bytes `lo` to `hi` − 1 lie where R369 step 4 asks of an operand with a base. -/
def State.spanIn (s : State) (d : Doer) (space base : Nat) (lo hi : Int) : Bool :=
  match space with
  | 1 => 0 ≤ lo && hi ≤ s.spadTop d.core && lo / 0x1_0000 == (base / 0x1_0000 : Nat) &&
      (hi - 1) / 0x1_0000 == (base / 0x1_0000 : Nat)
  | 2 => 0 ≤ lo && lo < 2 ^ 26 && lo / 2 ^ 20 ≤ 47 &&
      lo % 2 ^ 20 + (hi - lo) ≤ s.spadTop ((s.xKey d lo.toNat).getD (sibling d.core (lo.toNat / 2 ^ 20)))
  | 3 => 0 ≤ lo && hi ≤ 0x8000_0000
  | _ => true

/-- An address of a space as a number: G addresses wrap at 2^64. -/
def spaceAddr (a : Int) : Nat := ofInt 64 a

/-- Read a segment at an address (R74), which need not be a multiple of 64: a row whose start is none is read where it
stands, since no rule gives such a start a status (R72; log 67).  Its directory is checked, and where it is used every
block; the answer holds its elements, its bytes and the start of the next segment. -/
def readSegment (d : Doer) (space : Nat) (a : Int) (use : Bool) : E (List Nat × List Byte × Int) := do
  let dir ← eRead d space (spaceAddr a) 64
  let lens := dir.map BitVec.toNat
  eReq (lens.all fun x => 21 ≤ x && x ≤ 45) 0x32
  let total : Nat := lens.foldl (· + ·) 0
  let next := align64 (a + 64 + (total : Int))
  if use then
    let body ← eRead d space (spaceAddr (a + 64)) total
    let blocks := (lens.foldl (fun (acc : List (List Byte) × List Byte) n => (acc.2.take n :: acc.1, acc.2.drop n))
      ([], body)).1.reverse
    let cs := blocks.map decodeBlock
    eReq (cs.all Option.isSome) 0x32
    pure ((cs.map fun c => c.getD []).flatten, dir ++ body, next)
  else pure ([], [], next)

/-- Step past `n` segments of a row: the start of the next (R74). -/
def skipSegments (d : Doer) (space : Nat) (a : Int) : Nat → E Int
  | 0 => pure a
  | n + 1 => do
    let x ← readSegment d space a false
    skipSegments d space x.2.2 n

/-- The elements of `n` segments of a row. -/
def readSegments (d : Doer) (space : Nat) (a : Int) : Nat → E (List Nat)
  | 0 => pure []
  | n + 1 => do
    let x ← readSegment d space a true
    let r ← readSegments d space x.2.2 n
    pure (x.1 ++ r)

end Sys2Proof.Machine
end

