-- ==== Sys2Proof/Machine/Copy.lean ====
section
/-! DEFINITION. The copy engine's COPY and FILL (18, R387, R388; 03, R55; 04, R73, R74), GATHER and SCATTER (07, R123
to R129). -/

namespace Sys2Proof.Machine

/-! COPY -/

/-- Whether an operand with an EC8 format meets the EC8 conditions (R388). -/
def Opnd.ec8Ok (o : Opnd) : Bool :=
  o.fmt != .ec8 ||
    (o.dims.length ≤ 2 && o.dims.getD 0 0 % 2048 == 0 && o.tiles.getD 0 0 == o.dims.getD 0 0)

/-- Rows of an EC8 operand's box. -/
def Opnd.rows (o : Opnd) : Nat := o.tiles.getD 1 1

/-- Start of row `r`. -/
def Opnd.rowAt (o : Opnd) (r : Nat) : Int := o.addr [0, r]

/-- |STRIDE[1]| of a rank 2 operand. -/
def Opnd.pitch (o : Opnd) : Nat := (o.strides.getD 1 0).natAbs

/-- The byte ranges an operand names: those of its rows for EC8 (a destination of rank 2 with |STRIDE[1]| bytes a row,
one of rank 1 not before it is encoded), else its box from the lowest to the highest byte. -/
def State.opndSpans (s : State) (d : Doer) (o : Opnd) (dst : Bool) : List (Int × Int) :=
  if o.fmt == .ec8 && o.dims.length ≤ 2 then
    if dst then
      if o.dims.length = 2 then (upFrom 0 o.rows).map fun r => (o.rowAt r, o.rowAt r + o.pitch) else []
    else
      (upFrom 0 o.rows).map fun r => (o.rowAt r, s.rowEnd d o.space (o.rowAt r) (o.tiles.getD 0 0 / 2048))
  else
    let e := o.extent o.tiles
    [(e.1, e.2 + 1)]

/-- Whether an operand lies where R369 and R388 ask. -/
def State.opndPlaced (s : State) (d : Doer) (o : Opnd) (dst : Bool) : Bool :=
  if o.fmt == .ec8 then (s.opndSpans d o dst).all fun x => s.spanIn d o.space o.base x.1 x.2
  else s.opndIn d o o.tiles

/-- The declaration check on an operand in L space (R145, R369 step 3). -/
def eDeclOpnd (d : Doer) (o : Opnd) (dst : Bool) : E Unit := do
  let s ← eState
  if o.space = 1 then eEach (s.opndSpans d o dst) fun x => eDecl d x.1 x.2

/-- Whether elements are converted (R55). -/
def converts (a b : Ty) : Bool := a != .raw && b != .raw && a != b

/-- An element on its way: converted through both scales with one rounding, and counted (R66, R68), or unchanged. -/
def eConvert (a b : Ty) (sa sb : Int) (x : Nat) : E Nat :=
  if converts a b then eCount (fconv b .near ((val a x).scale (sa - sb))) else pure x

/-- Try a part of a command: invalid EC8 data ends the command, any other failure is kept for later. -/
def eAttempt {α : Type} (m : E α) : E (Except Stop α) := fun w =>
  match m w with
  | .ok (x, w') => .ok (.ok x, w')
  | .error e => if e.status = 0x32 || e.again then .error e else .ok (.error e, e.work)

/-- What has been read of an EC8 source: its elements, the bytes of its segments, and what stopped it (R74, R388). -/
structure Decoded where
  elems : List Nat
  segs  : List (List Byte)
  stop  : Option Stop

/-- Read the EC8 segments of a row until one cannot be read (R74, R388). -/
def eSegmentsOf (d : Doer) (space : Nat) (a : Int) : Nat → E Decoded
  | 0 => pure ⟨[], [], none⟩
  | n + 1 => do
    let x ← eAttempt (readSegment d space a true)
    match x with
    | .error e => pure ⟨[], [], some e⟩
    | .ok (cs, bs, next) => do
      let r ← eSegmentsOf d space next n
      pure ⟨cs ++ r.elems, bs :: r.segs, r.stop⟩

/-- Read the rows of an EC8 source until a segment cannot be read. -/
def eRowsOf (d : Doer) (o : Opnd) : List Nat → E Decoded
  | [] => pure ⟨[], [], none⟩
  | r :: rest => do
    let x ← eSegmentsOf d o.space (o.rowAt r) (o.tiles.getD 0 0 / 2048)
    match x.stop with
    | some _ => pure x
    | none => do
      let y ← eRowsOf d o rest
      pure ⟨x.elems ++ y.elems, x.segs ++ y.segs, y.stop⟩

/-- Where a copy takes its elements: each is read when its turn comes, or all were decoded from EC8. -/
structure Source where
  opnd    : Opnd
  decoded : Option Decoded

/-- The element with a linear number. -/
def Source.get (d : Doer) (s : Source) (box : List Nat) (i : Nat) : E Nat := do
  match s.decoded with
  | some x =>
    match x.elems[i]?, x.stop with
    | some c, _ => pure c
    | none, some e => do
      eEntry i
      stop e.status e.note
    | none, none => stop 0x32
  | none => do
    let bs ← eRead d s.opnd.space (spaceAddr (s.opnd.addr (boxIndex box i))) s.opnd.esz
    pure (ofBytes bs)

/-- Check that the home of a physical address takes a write. -/
def eCanPut (d : Doer) (pa n : Nat) : E Unit := fun w =>
  match w.st.answer d.who .engine pa n with
  | (0, _) => .ok ((), w)
  | (st, note) => .error ⟨engineStatus st, note, w, false⟩

/-- Check that bytes in a space can be written, without writing them. -/
def eCanWrite (d : Doer) (space a n : Nat) : E Unit := do
  match space with
  | 0 =>
    eEach (cuts a n) fun c => do
      let (pa, l) ← eTranslate d .w (c.1 % 2 ^ 64)
      if l.f then pure () else eCanPut d pa c.2
  | 3 => do
    let s ← eState
    eEach (cuts a n) fun c => eCanPut d (s.idOf d.core * 2 ^ 44 + vaultBase (coreDie d.core % 4) + c.1) c.2
  | _ => pure ()

/-- Write the rows of an EC8 destination, one after another (R73, R388), each where it starts, also at an address that is no
multiple of 64 (R72; log 67): the segments of an EC8 source with their bytes unchanged (R55), else encoded. -/
def copyRows (d : Doer) (src : Source) (o : Opnd) : List Nat → E Unit
  | [] => pure ()
  | r :: rest => do
    let n := o.tiles.getD 0 0
    eEntry (r * n)
    let cs ← eCollect (upFrom (r * n) n) fun i => do
      let x ← src.get d o.tiles i
      eConvert src.opnd.fmt o.fmt src.opnd.scale o.scale x
    let a := o.rowAt r
    let bs := layRow a (match src.decoded with
      | some x => (x.segs.drop (r * (n / 2048))).take (n / 2048)
      | none => segmentsOf (n / 2048) cs)
    if o.dims.length = 2 then eReq (bs.length ≤ o.pitch) 0x33
    else
      if o.space = 1 then eDecl d a (a + bs.length)
      let s ← eState
      eReq (s.spanIn d o.space o.base a (a + bs.length)) 0x3A
    eCanWrite d o.space (spaceAddr a) bs.length
    eWrite d o.space (spaceAddr a) bs
    copyRows d src o rest

/-- Write the element of an operand with a linear number, whole or not at all (R388). -/
def eStore (d : Doer) (o : Opnd) (i x : Nat) : E Unit := do
  let a := spaceAddr (o.addr (boxIndex o.tiles i))
  eCanWrite d o.space a o.esz
  eWrite d o.space a (toBytes o.esz x)

/-- COPY (R387, R388). -/
def copyBody (core : Nat) (c : Cmd) : E CmdEnd := do
  let d := c.doer core
  let r := c.record
  let (ss, ds, sr, dr) := (recNum r 4 1, recNum r 5 1, recNum r 8 8, recNum r 16 8)
  eReq
    (flagsOk r 1 && has [0, 1, 3] ss && has [0, 1, 3] ds && sr % 64 == 0 && dr % 64 == 0 && reserved r 6 8 &&
      reserved r 24 64) 0x3A
  if ss = 1 then eDecl d sr (sr + 192)
  if ds = 1 then eDecl d dr (dr + 192)
  let sh ← eShape d ss sr
  let dh ← eShape d ds dr
  let s ← eState
  let so := s.opnd core sh
  let o := s.opnd core dh
  eDeclOpnd d so false
  eDeclOpnd d o true
  eReq (so.ec8Ok && o.ec8Ok && so.tiles == o.tiles) 0x3A
  eAwaitX d so so.tiles
  eAwaitX d o o.tiles
  eReq (s.opndPlaced d so false && s.opndPlaced d o true) 0x3A
  eReq (converts so.fmt o.fmt || so.esz == o.esz) 0x3A
  let src : Source ←
    if so.fmt == .ec8 then do
      let x ← eRowsOf d so (upFrom 0 so.rows)
      pure ⟨so, some x⟩
    else pure ⟨so, none⟩
  if o.fmt == .ec8 then copyRows d src o (upFrom 0 o.rows)
  else
    eFor
      (fun i => do
        eEntry i
        let x ← src.get d o.tiles i
        let y ← eConvert so.fmt o.fmt so.scale o.scale x
        eStore d o i y)
      0 (boxSize o.tiles)
  let w : Work ← fun w => .ok (w, w)
  pure ⟨0, w.copyHi, false⟩

/-- COPY. -/
def execCopy (core : Nat) (s : State) : Out := .next (s.runHead core .cpy 0x20 true (copyBody core))

/-- FILL (R387, R388). -/
def fillBody (core : Nat) (c : Cmd) : E CmdEnd := do
  let d := c.doer core
  let r := c.record
  let (ds, dr, pat) := (recNum r 4 1, recNum r 8 8, recNum r 16 8)
  eReq (flagsOk r 1 && has [0, 1, 3] ds && dr % 64 == 0 && reserved r 5 8 && reserved r 24 64) 0x3A
  if ds = 1 then eDecl d dr (dr + 192)
  let dh ← eShape d ds dr
  let s ← eState
  let o := s.opnd core dh
  eDeclOpnd d o true
  eReq (o.fmt != .ec8) 0x3A
  eAwaitX d o o.tiles
  eReq (s.opndPlaced d o true) 0x3A
  eFor
    (fun i => do
      eEntry i
      eStore d o i pat)
    0 (boxSize o.tiles)
  pure ⟨0, 0, false⟩

/-- FILL. -/
def execFill (core : Nat) (s : State) : Out := .next (s.runHead core .cpy 0x21 false (fillBody core))

/-! GATHER and SCATTER -/

/-- The fields of a GATHER or SCATTER with the format and scale of its dense side (R123, R124). -/
structure GatherOp where
  es     : Nat
  sfmt   : Ty
  sscale : Int
  base   : Nat
  count  : Nat
  ioff   : Nat
  isize  : Nat
  doff   : Nat
  limit  : Nat
  df     : Ty
  dscale : Int
deriving DecidableEq, Repr

/-- Read a record (R123, R124). -/
def Core.gatherOp (c : Core) (r : LineBits) : GatherOp :=
  let doff := recNum r 0x18 4
  { es := 2 ^ recNum r 4 1, sfmt := Ty.ofCode (BitVec.ofNat 4 (recNum r 5 1)), sscale := toSigned 8 (recNum r 6 1)
    base := recNum r 8 8, count := recNum r 0x10 4, ioff := recNum r 0x14 4, isize := if recFlag r 1 then 8 else 4
    doff := doff, limit := recNum r 0x20 4
    df := c.fmtAt (doff / 0x1_0000), dscale := c.scaleAt (doff / 0x1_0000) }

/-- Whether entries are converted (R124). -/
def GatherOp.conv (g : GatherOp) : Bool := converts g.sfmt g.df

/-- Bytes an entry takes on the dense side (R124). -/
def GatherOp.ds (g : GatherOp) : Nat := if g.conv then g.es / elemSize g.sfmt * elemSize g.df else g.es

/-- Each field by itself within R123 (R369 step 1). -/
def gatherFields (r : LineBits) (g : GatherOp) : Bool :=
  flagsOk r 2 && recNum r 4 1 ≤ 8 && recNum r 5 1 < 16 && recNum r 5 1 != 7 && reserved r 7 8 &&
    1 ≤ g.count && g.count ≤ 65536 && g.ioff % 4 == 0 && reserved r 0x1C 0x20 && reserved r 0x24 64

/-- The checks of a GATHER or SCATTER (R124, R369). -/
def gatherChecks (d : Doer) (r : LineBits) (g : GatherOp) : E Unit := do
  eReq (gatherFields r g) 0x3A
  let iend := g.ioff + g.count * g.isize
  let dend := g.doff + g.count * g.ds
  eDecl d g.ioff iend
  eDecl d g.doff dend
  let s ← eState
  eReq (g.base % g.es == 0 && g.ioff % g.isize == 0) 0x3A
  eReq (g.df != .ec8 && !(g.conv && g.es < elemSize g.sfmt)) 0x3A
  eReq (iend ≤ s.spadTop d.core) 0x3A
  eReq (dend ≤ s.spadTop d.core && (dend - 1) / 0x1_0000 == g.doff / 0x1_0000) 0x3A

/-- Index j of the list (R121, R125). -/
def gatherIndex (d : Doer) (g : GatherOp) (j : Nat) : E Nat := do
  let bs ← eSpad d.core (g.ioff + j * g.isize) g.isize
  pure (ofBytes bs)

/-- G address of an entry: an exact sum (R125); one beyond 64 bits is not canonical. -/
def gatherAddr (g : GatherOp) (x : Nat) : E Nat := do
  let a := g.base + x * g.es
  eReq (a < 2 ^ 64) 0x25
  pure a

/-- The elements of an entry through a conversion. -/
def convBytes (a b : Ty) (sa sb : Int) (bs : List Byte) : E (List Byte) := do
  let n := bs.length / elemSize a
  let xs ← eCollect (pieces (elemSize a) n bs) fun x => eConvert a b sa sb (ofBytes x)
  pure (xs.flatMap (toBytes (elemSize b)))

/-- Entry j of a GATHER (R125, R127). -/
def gatherEntry (d : Doer) (g : GatherOp) (j : Nat) : E Unit := do
  eEntry j
  let x ← gatherIndex d g j
  let at_ := g.doff + j * g.ds
  if g.limit ≠ 0 ∧ g.limit ≤ x then
    eWrite d 1 at_ (List.replicate g.ds 0)
    eAux 1
  else
    let a ← gatherAddr g x
    let bs ← eRead d 0 a g.es
    let out ← if g.conv then convBytes g.sfmt g.df g.sscale g.dscale bs else pure bs
    eWrite d 1 at_ out

/-- Entry j of a SCATTER (R126, R127). -/
def scatterEntry (d : Doer) (g : GatherOp) (j : Nat) : E Unit := do
  eEntry j
  let x ← gatherIndex d g j
  if g.limit ≠ 0 ∧ g.limit ≤ x then eAux 1
  else
    let a ← gatherAddr g x
    let bs ← eSpad d.core (g.doff + j * g.ds) g.ds
    let out ← if g.conv then convBytes g.df g.sfmt g.dscale g.sscale bs else pure bs
    eCanWrite d 0 a out.length
    eWrite d 0 a out

/-- A GATHER or SCATTER entry by entry (R125, R126). -/
def gatherBody (core : Nat) (entry : Doer → GatherOp → Nat → E Unit) (c : Cmd) : E CmdEnd := do
  let d := c.doer core
  let s ← eState
  let g := (s.core core).gatherOp c.record
  gatherChecks d c.record g
  eFor (entry d g) 0 g.count
  let w : Work ← fun w => .ok (w, w)
  pure ⟨0, w.copyHi, false⟩

/-- GATHER (R125). -/
def execGather (core : Nat) (s : State) : Out :=
  .next (s.runHead core .cpy 0x24 false (gatherBody core gatherEntry))

/-- SCATTER (R126). -/
def execScatter (core : Nat) (s : State) : Out :=
  .next (s.runHead core .cpy 0x25 false (gatherBody core scatterEntry))

end Sys2Proof.Machine
end

