-- ==== Sys2Proof/Machine/EngineInstr.lean ====
section
/-! DEFINITION. The engine instructions of a core: ENQ, ENQM, DEQ, EQSTAT, RFENCE, QMOV, MSTAT (18, R372 to R381; 06,
R102, R110). -/

namespace Sys2Proof.Machine

/-! Pushing -/

/-- Entries of a queue (R89, R118, R136). -/
def queueDepth : Queue → Nat
  | .mat => 16 | .cpy => 32 | .med => 64

/-- Loop state of a MITER as ENQ sets it (R110).  A POLY record with SEED 1, for which R110 gives both 0 and 16, starts at phase
16, and one whose MODE is neither 0 nor 1 starts as a FIX (DESIGN CHOICE, log 39): its checks refuse either. -/
def loopStart (r : LineBits) : LoopState :=
  let fix := recNum r 4 1 != 0
  { phase := if fix then (if recFlag r 1 then 0 else 1) else 16
    iter := 0, cnt := 0, res := if fix then 0x7F80_0000 else 0
    hx := recNum r 8 1, hw := recNum r 9 1, hs := recNum r 10 1, bp := recNum r 7 1
    slotx := 0xFF, slotw := 0xFF, slots := 0xFF, slotb := 0xFF }

/-- SLOT fields of a loop state, as the handles and slots of its context stand (R110). -/
def LoopState.withSlots (l : LoopState) (ctx : Nat) (e : Engine) : LoopState :=
  let f := fun (h : Nat) => match find? e.handles h with
    | some (.bound p) => p
    | _ => 0xFF
  let b := ((find? e.bslots l.bp).filter (·.owner = ctx)).isSome
  { l with slotx := f l.hx, slotw := f l.hw, slots := f l.hs, slotb := if b then l.bp else 0xFF }

/-- Whether a loop state comes from a save that found slots behind it, which a later phase keeps up to date (R112). -/
def LoopState.saved (l : LoopState) : Bool := l.slotx != 0xFF || l.slotw != 0xFF || l.slots != 0xFF || l.slotb != 0xFF

/-- The queue entry of a record that a core pushes (R110). -/
def Core.cmdOf (c : Core) (r : LineBits) : Cmd :=
  { record := r, ctx := c.ctx, handler := decide (c.mode = .handler), begun := false
    loop := if recCode r = 5 then some (loopStart r) else none, units := [], after := c.posts, missed := [] }

/-- Free entries of a queue for a core's push (R378). -/
def State.queueFree (s : State) (k : Nat) (q : Queue) : Nat :=
  match q with
  | .med => 64 - (s.die (coreDie k)).med.length
  | q => queueDepth q - ((s.core k).eng.queue q).length

/-- Whether a push of `n` records finds room: pushes that wait on the media queue are served first (R376). -/
def State.queueRoom (s : State) (k : Nat) (q : Queue) (n : Nat) : Bool :=
  n ≤ s.queueFree k q && (q != .med || ((s.die (coreDie k)).medWait.takeWhile (· != k)).isEmpty)

/-- Append records to a queue as one action (R374, R375). -/
def State.push (s : State) (k : Nat) (q : Queue) (recs : List LineBits) : State :=
  let c := s.core k
  let cmds := recs.map c.cmdOf
  let marks := (recs.filter recCE).length
  let e := { c.eng with reserved := c.eng.reserved + marks }
  match q with
  | .mat => s.setCore k { c with eng := { e with mat := e.mat ++ cmds } }
  | .cpy => s.setCore k { c with eng := { e with cpy := e.cpy ++ cmds } }
  | .med =>
    (s.setCore k { c with eng := e }).modDie (coreDie k) fun d =>
      { d with
        med := d.med ++ recs.map fun r => ⟨r, k, c.ctx, decide (c.mode = .handler), c.posts⟩
        medWait := delNat d.medWait k }

/-- Read one record (R374): in G space the own buffered line goes home first and the homes are read. -/
def readRecord (ea : Word) (p : Place) : M LineBits := do
  let bs ←
    match p with
    | .mem pa _ => do
      forceHome [pa / 64]
      let s ← theState
      if s.mustFollow s.cur (pa / 64) .ro then leave
      else
        match s.homeRead (s.who s.cur) .load pa 64 with
        | .ok bs => pure bs
        | .error e => homeFault e ea.toNat
    | p => loadPlace .nc 64 ea.toNat p
  pure (BitVec.ofNat 512 (ofBytes bs))

/-- Check the records' addresses in ascending order, then read every record (R375). -/
def readRecords (space : Space) (ea : Word) (n : Nat) : M (List LineBits) := do
  let ps ← collect (upFrom 0 n) fun i => do
    let a := ea + BitVec.ofNat 64 (64 * i)
    let p ← checkAccess space .r false a 64
    pure (a, p)
  collect ps fun x => readRecord x.1 x.2

/-- The release of a push and the test of R372 (R374, R375). -/
def pushChecks (q : Queue) (recs : List LineBits) : M Unit := do
  fenceRel (if q = .med ∨ recs.any (fun r => recCode r == 0x26) then 3 else 2)
  let c ← theCore
  if 64 < c.eng.held.length + c.eng.reserved + (recs.filter recCE).length then faultAfter 0x30

/-- Wait for room, then append (R374 to R376). -/
def pushNow (q : Queue) (recs : List LineBits) : M Unit := do
  let s ← theState
  if s.queueRoom s.cur q recs.length then setState (s.push s.cur q recs)
  else
    if q = .med then
      setState (s.modDie (coreDie s.cur) fun d =>
        if has d.medWait s.cur then d else { d with medWait := d.medWait ++ [s.cur] })
    waitFor (.push recs)

/-- ENQ (R374). -/
def enqInstr (try_ : Bool) (p : Nat) (o : EnqOp) : M Unit := do
  let c ← theCore
  match c.wait with
  | .push recs => pushNow o.queue recs
  | _ => do
    let recs ← readRecords o.space (enqEa o c.regs) 1
    pushChecks o.queue recs
    if try_ then
      let s ← theState
      if 1 ≤ s.queueFree s.cur o.queue then
        setState (s.push s.cur o.queue recs)
        wrP p true
      else wrP p false
    else pushNow o.queue recs

/-- ENQ. -/
def execEnq (g : Guard) (try_ : Bool) (p : BitVec 3) (o : EnqOp) (s : State) : Out :=
  instr g [o.base] [] (enqInstr try_ p.toNat o) s

/-- ENQM (R375). -/
def enqmInstr (b : Reg) (o : EnqOp) : M Unit := do
  let c ← theCore
  match c.wait with
  | .push recs => pushNow o.queue recs
  | _ => do
    let n := (c.regs.rs b).toNat
    require (1 ≤ n ∧ n ≤ queueDepth o.queue) 0x1D
    let recs ← readRecords o.space (enqEa o c.regs) n
    pushChecks o.queue recs
    pushNow o.queue recs

/-- ENQM. -/
def execEnqm (g : Guard) (b : Reg) (o : EnqOp) (s : State) : Out := instr g [o.base, b] [] (enqmInstr b o) s

/-! Collecting -/

/-- DEQ (R377); s[b] is written after s[d]. -/
def deqInstr (try_ : Bool) (p : Nat) (d b : Reg) : M Unit := do
  let c ← theCore
  match c.eng.held with
  | [] =>
    if try_ then wrP p false
    else if c.eng.reserved = 0 then fault 0x1E
    else leave
  | e :: r => do
    modMe fun c => { c with eng := { c.eng with held := r }, regs := (c.regs.ws d e.lo).ws b e.hi }
    fenceAcq 1
    if try_ then wrP p true

/-- DEQ. -/
def execDeq (g : Guard) (try_ : Bool) (p : BitVec 3) (d b : Reg) (s : State) : Out :=
  instr g [d, b] [] (deqInstr try_ p.toNat d b) s

/-! Queue state, record fence, coefficients, matrix state -/

/-- Commands of a core in a queue that have begun, and that have not (R378). -/
def State.queueCounts (s : State) (k : Nat) (q : Queue) : Nat × Nat :=
  match q with
  | .med => (0, ((s.die (coreDie k)).med.filter (·.core = k)).length)
  | q =>
    let l := (s.core k).eng.queue q
    ((l.filter (·.begun)).length, (l.filter (!·.begun)).length)

/-- The snapshot of EQSTAT (R378). -/
def State.eqstat (s : State) (k : Nat) (q : Queue) : Word :=
  let e := (s.core k).eng
  let (run, queued) := s.queueCounts k q
  BitVec.ofNat 64
    (e.reserved * 2 ^ 48 + e.held.length * 2 ^ 40 + run * 2 ^ 24 + queued * 2 ^ 16 + s.queueFree k q * 2 ^ 8 +
      queueDepth q)

/-- EQSTAT (R378). -/
def execEqstat (g : Guard) (q : Queue) (d : Reg) (s : State) : Out :=
  regInstr g [d] [] (fun r => r.ws d (s.eqstat s.cur q)) s

/-- RFENCE (R379). -/
def execRfence (g : Guard) (s : State) : Out :=
  instr g [] []
    (do
      fenceRel 4
      modMe fun c => { c with eng := { c.eng with shapes := [] } })
    s

/-- QMOV (R380); a write of a coefficient waits while a MITER is queued or running (R102). -/
def execQmov (g : Guard) (dir : Bool) (d a : Reg) (s : State) : Out :=
  instr g (if dir then [d] else [a]) []
    (do
      let c ← theCore
      if dir then wrS d ((c.regs.rq a.toNat).setWidth 64)
      else if c.eng.mat.any (fun x => recCode x.record == 5) then leave
      else modMe fun c => { c with regs := c.regs.wq d.toNat ((c.regs.rs a).setWidth 32) })
    s

/-- The value of MSTAT for a handle (R381). -/
def State.mstatHandle (s : State) (k i : Nat) : Word :=
  let c := s.core k
  match find? c.eng.handles i with
  | none => 0
  | some (.bound p) =>
    let ovf := ((find? c.eng.acc p).map (·.ovf)).getD 0
    BitVec.ofNat 64 (ovf * 2 ^ 32 + p * 2 ^ 8 + 1)
  | some .spilled => BitVec.ofNat 64 (s.num (s.slotImage k false i + 8) 2 * 2 ^ 32 + 2)

/-- The value of MSTAT for a B slot (R381). -/
def State.mstatSlot (s : State) (k i : Nat) : Word :=
  let c := s.core k
  let say := fun (scale plane bad slot st : Nat) =>
    BitVec.ofNat 64 (scale * 2 ^ 24 + plane * 2 ^ 16 + bad * 2 ^ 12 + slot * 2 ^ 8 + st)
  if has c.eng.bspilled i then
    let a := s.slotImage k true i
    say (s.num (a + 4) 1) (s.num (a + 2) 1) (s.num (a + 3) 1 % 2) 0 2
  else
    match find? c.eng.bslots i with
    | some b => if b.owner = c.ctx then say b.scale.toNat b.plane (if b.bad then 1 else 0) i 1 else 0
    | none => 0

/-- MSTAT (R381): waits for the earlier matrix commands. -/
def execMstat (g : Guard) (slot : Bool) (d a : Reg) (s : State) : Out :=
  instr g [d] []
    (do
      let c ← theCore
      match c.mode, c.task with
      | .task, some t => if !slot ∧ t.hdr.accs ≤ a.toNat then fault 0x15 else pure ()
      | _, _ => pure ()
      if !c.eng.mat.isEmpty then leave
      let s ← theState
      wrS d (if slot then s.mstatSlot s.cur a.toNat else s.mstatHandle s.cur a.toNat))
    s

end Sys2Proof.Machine
end

