-- ==== Sys2Proof/Machine/Sysreg.lean ====
section
/-! DEFINITION. System registers: SRD and SWR (15, R312, R313; 02, R26 to R28, R34; 03, R53, R56; 05, R93; 23, R473),
the writes of the region and route tables, page walks, and what a core does at an unassigned opcode, for an
asynchronous trap and for an old buffered line. -/

namespace Sys2Proof.Machine

/-! Reading -/

/-- Value of VGRP (R53). -/
def Core.vgrp (c : Core) : Word := BitVec.ofNat 64 (c.vgrpFirst * 16 + c.vgrpSize)

/-- A system register that kernels read (R34); without a task TASKID, ELEMID and NODEID hold no stated value, and read
the one given (log 8). -/
def Core.sysRead (k : Nat) (c : Core) (open_ : Word) (idx : Nat) : Option Word :=
  if 0x020 ≤ idx ∧ idx ≤ 0x02D then some ((c.bfmtAt (idx - 0x020)).setWidth 64)
  else
    match idx with
    | 0x010 => some (BitVec.ofNat 64 c.spbanks)
    | 0x011 => some c.vgrp
    | 0x030 => some (BitVec.ofNat 64 c.barbase)
    | 0x031 => some c.domreg
    | 0x040 => some c.mthr
    | 0x100 => some ((c.task.map (·.taskid)).getD open_)
    | 0x101 => some ((c.task.map (·.elemid)).getD open_)
    | 0x102 => some ((c.task.map fun t => BitVec.ofNat 64 t.node).getD open_)
    | 0x103 => some (BitVec.ofNat 64 c.ctx)
    | 0x104 => some (BitVec.ofNat 64 (coreNo k))
    | 0x203 => some (if coreWorld k then 1 else 0)
    | _ => none

/-- A system register that only firmware reads (R34, R450, R464); a field that is only written reads zero. -/
def Core.sysReadFw (c : Core) (idx : Nat) : Option Word :=
  match idx with
  | 0x050 => some c.rasbase
  | 0x200 => some c.trapCause
  | 0x201 => some c.trapPc
  | 0x202 => some c.trapInfo
  | 0x210 => some c.ptroot0
  | 0x211 => some c.ptroot1
  | 0x212 => some 0
  | _ => none

/-- SRD (R34, R312). -/
def execSrd (g : Guard) (d : Reg) (idx : BitVec 12) (s : State) : Out :=
  instr g [d] []
    (do
      let c ← theCore
      match c.sysRead s.cur (Config.freeValue s.free) idx.toNat with
      | some x => do
        modState fun s => { s with free := if c.task.isNone then s.free + 1 else s.free }
        wrS d x
      | none =>
        match (if c.mode = .handler then c.sysReadFw idx.toNat else none) with
        | some x => wrS d x
        | none => fault 0x13)
    s

/-! LSPLIT -/

/-- A state in which every walk ends at once, for a judgement that does not wait. -/
def State.calm (s : State) : State :=
  { s with late := false, dies := s.dies.map fun d => (d.1, { d.2 with walks := [] }) }

/-- The shape record that a command would resolve, read as it stands. -/
def State.peekShape (s : State) (d : Doer) (space a : Nat) : Option Shape :=
  match eShapeBytes d space a (.start s.calm []) with
  | .ok (bs, _) => some (shapeOf bs)
  | .error _ => none

/-- Whether some of `n` bytes at an address of a space lie in the scratchpad of the doer's core: its L space, X addresses
that reach it, G addresses that its window answers. -/
def State.inOwn (s : State) (d : Doer) (space a n : Nat) : Bool :=
  match space with
  | 0 =>
    (cuts a n).any fun c =>
      match (s.calm.engineTranslate d .r (c.1 % 2 ^ 64)).2 with
      | .at_ pa l => !l.f && s.windowPa d.core 0 ≤ pa && pa < s.windowPa d.core 0 + 0x20_0000
      | _ => false
  | 1 => true
  | 2 => s.xKey d a == some d.core
  | _ => false

/-- Addresses of the elements of an operand's box. -/
def Opnd.boxAddrs (o : Opnd) : List Int := (upFrom 0 (boxSize o.tiles)).map fun i => o.addr (boxIndex o.tiles i)

/-- Addresses of the elements of the tile that an MLDB reads (R384). -/
def Opnd.tileAddrs (k0 j0 : Nat) (o : Opnd) : List Int :=
  (upFrom k0 128).flatMap fun k => (upFrom j0 128).map fun j => o.addr [j, k]

/-- Whether a shape record or a byte of the operand that it describes, whose elements stand at the addresses given, lies
there; an EC8 operand names the bank that holds its start (R28). -/
def State.recordNamesL (s : State) (d : Doer) (space a : Nat) (addrs : Opnd → List Int) : Bool :=
  s.inOwn d space a 192 ||
    match s.peekShape d space a with
    | some r =>
      let o := s.opnd d.core r
      if o.fmt == .ec8 then s.inOwn d o.space (spaceAddr o.base) 64
      else (addrs o).any fun x => s.inOwn d o.space (spaceAddr x) o.esz
    | none => false

/-- Whether a command names a byte of its core's L space (R28). -/
def State.namesL (s : State) (d : Doer) (r : LineBits) : Bool :=
  let rec_ := fun (sp off : Nat) => s.recordNamesL d (recNum r sp 1) (recNum r off 8) Opnd.boxAddrs
  let plane := fun (off pitch n : Nat) => s.inOwn d 0 (recNum r off 8) (pitch * n)
  match recCode r with
  | 0x02 => s.recordNamesL d (recNum r 5 1) (recNum r 8 8) (Opnd.tileAddrs (recNum r 16 8) (recNum r 24 8))
  | 0x03 | 0x04 => true
  | 0x05 => recFlag r 1 || recFlag r 2
  | 0x07 | 0x08 => s.inOwn d 0 (recNum r 8 8) (if recNum r 4 1 = 0 then 65600 else 16960)
  | 0x20 => rec_ 4 8 || rec_ 5 16
  | 0x21 => rec_ 4 8
  | 0x22 | 0x23 | 0x24 | 0x25 => true
  | 0x40 =>
    s.inOwn d 0 (recNum r 8 8) (recNum r 0x10 4) || plane 0x18 (recNum r 0x14 4) (recNum r 0x28 2) ||
      plane 0x20 (recNum r 0x14 4) (recNum r 0x28 2 / 2)
  | 0x41 =>
    rec_ 0x30 0x28 || plane 8 (recNum r 0x18 4) (recNum r 0x22 2 + recNum r 0x26 2) ||
      plane 0x10 (recNum r 0x18 4) ((recNum r 0x22 2 + recNum r 0x26 2) / 2)
  | _ => false

/-- Whether a queued or running command of a core names a byte of its L space (R28). -/
def State.namedL (s : State) (k : Nat) : Bool :=
  let e := (s.core k).eng
  (e.mat ++ e.cpy).any (fun c => s.namesL (c.doer k) c.record) ||
    (s.die (coreDie k)).med.any fun m => m.core == k && s.namesL ⟨k, m.ctx, m.handler, some (coreDie k)⟩ m.record

/-- Forget the bytes of scratchpad banks, their full-empty bits and errors: they read zero (R28). -/
def State.clearSpad (s : State) (k lo hi : Nat) : State :=
  let a := s.windowPa k lo
  let b := s.windowPa k hi
  let out := fun (x : Nat) => x < a || b ≤ x
  { s with
    mem := s.mem.filter fun c => out c.1
    ue := s.ue.filter out
    fe := s.fe.filter fun w => out (8 * w) }

/-- The change of SPBANKS, steps 3 to 5 of R28. -/
def State.resplit (s : State) (k n : Nat) : State :=
  let c := s.core k
  let s := s.clearSpad k (min n c.spbanks * 0x1_0000) (max n c.spbanks * 0x1_0000)
  s.setCore k { c with spbanks := n, dcache := [], bfmt := c.bfmt.filter fun b => b.1 < min n c.spbanks }

/-- Whether a change of SPBANKS must wait (R28 step 1). -/
def State.splitWaits (s : State) (k : Nat) : Bool := !(s.core k).drained || s.namedL k

/-- Whether LSPLIT accepts a value (R26). -/
def splitOk (v : Word) : Bool := 4 ≤ v.toNat % 32 && v.toNat % 32 ≤ 14

/-- LSPLIT_WRITE: a write of LSPLIT on a core, which stalls or faults as R26 and R28 say. -/
def execLsplitWrite (core : Nat) (v : Word) (s : State) : Out :=
  let n := v.toNat % 32
  if !splitOk v then .next (s.trapOn core { status := 0x14 } (s.core core).pc)
  else if n = (s.core core).spbanks || s.splitWaits core then .next s
  else .next (s.resplit core n)

/-! BFMT, MTHR, TLBINV -/

/-- Whether a running command of a core names a byte of a bank (R56): of those, only a MITER is seen between its
phases. -/
def State.namesBank (s : State) (k b : Nat) : Bool :=
  (s.core k).eng.mat.any fun c =>
    c.begun &&
      ((recFlag c.record 1 && recNum c.record 12 1 == b) ||
        (recFlag c.record 2 &&
          (let lo := recNum c.record 16 1 * 0x1_0000 + recNum c.record 18 2
           let hi := lo + 16384 * elemSize ((s.core k).fmtAt (recNum c.record 16 1)) + 15
           lo / 0x1_0000 ≤ b && b ≤ hi / 0x1_0000)))

/-- The write of BFMTk (R27, R54). -/
def Core.setBfmt (c : Core) (k : Nat) (v : Word) : Core :=
  if k < c.spbanks then { c with bfmt := put c.bfmt 0 k ((v &&& 0xFF0F).setWidth 16) } else c

/-- BFMT_WRITE (R54, R56). -/
def execBfmtWrite (core bank : Nat) (v : Word) (s : State) : Out :=
  if s.namesBank core bank then .next s else .next (s.modCore core fun c => c.setBfmt bank v)

/-- The write of MTHR (R93). -/
def Core.setMthr (c : Core) (v : Word) : Core := { c with mthr := v &&& 0x0000_FFFF_FFFF_FFFF }

/-- MTHR_WRITE (R93). -/
def execMthrWrite (core : Nat) (v : Word) (s : State) : Out := .next (s.modCore core fun c => c.setMthr v)

/-- Cores within a TLBINV's scope (R473). -/
def inTlbScope (k scope n : Nat) : Bool :=
  match scope with
  | 0 => n == k
  | 1 => n == k || (coreNo k < 1536 && coreNo n < 1536 && coreCluster n == coreCluster k)
  | 2 => coreDie n == coreDie k
  | _ => corePkg n == corePkg k

/-- Whether an access within the scope has translated and is not yet performed, or a walk of one is in flight (R473). -/
def State.tlbBusy (s : State) (k scope : Nat) : Bool :=
  let translated := fun (p : Posted) => match p with
    | .line _ | .rst .. | .foreign .. | .send .. => true
    | _ => false
  let busy := fun (n : Nat) (c : Core) =>
    !c.drained || !c.loads.isEmpty || c.posting translated || c.eng.cpy.any (·.begun) || (s.feWait.any (·.core == n)) ||
      match c.wait with
      | .foreign _ none => true
      | _ => false
  (s.cores.any fun c => inTlbScope k scope c.1 && busy c.1 c.2) ||
    s.dies.any fun d => d.2.walks.any fun w => w.fault.isNone && w.cores.any (inTlbScope k scope)

/-- Every TLB within the scope is emptied, and what walks have found is discarded (R473). -/
def State.tlbClear (s : State) (k scope : Nat) : State :=
  { s with
    cores := s.cores.map fun c => if inTlbScope k scope c.1 then (c.1, { c.2 with tlb := [] }) else c
    clusters := s.clusters.map fun c =>
      let inside := match scope with
        | 0 => false
        | 1 => coreNo k < 1536 && c.1 == coreCluster k
        | 2 => c.1 / 8 == coreDie k
        | _ => c.1 / 32 == corePkg k
      if inside then (c.1, { c.2 with tlb := [] }) else c
    dies := s.dies.map fun d =>
      let media := (scope == 2 && d.1 == coreDie k) || (scope == 3 && d.1 / 4 == corePkg k)
      (d.1, { d.2 with
        tlb := if media then [] else d.2.tlb
        walks := d.2.walks.filter fun w => !(w.fault.isSome && w.cores.any (inTlbScope k scope)) }) }

/-- TLBINV: a write with GO set on a core (R473), once nothing within the scope is still to be performed. -/
def execTlbinv (core : Nat) (v : Word) (s : State) : Out :=
  let scope := v.toNat % 4
  if v.getLsbD 2 then .next (if s.tlbBusy core scope then s else s.tlbClear core scope) else .next s

/-! Registers without behaviour of their own -/

/-- Write a register that firmware writes and that has no behaviour of its own (R34, R36, R53, R305, R450, R464); the
fields of TRAPCAUSE and TRAPINFO only read (R5, R450). -/
def Core.sysWriteFw (c : Core) (idx : Nat) (v : Word) : Option Core :=
  match idx with
  | 0x050 => some { c with rasbase := v }
  | 0x200 | 0x202 => some c
  | 0x201 => some { c with trapPc := v }
  | 0x210 => some { c with ptroot0 := v &&& 0x0000_0FFF_FFFF_F000 }
  | 0x211 => some { c with ptroot1 := v &&& 0x0000_0FFF_FFFF_F000 }
  | _ => none

/-- Firmware sets VGRP, identically in every member of the group that the value names (R53; log 67): cores that the change
leaves out of their group are alone from then on; a value that is no group of the core has no effect. -/
def State.setVgrp (s : State) (k first size : Nat) : State :=
  if coreNo k < 1536 && vgrpOk k first size then
    let group := (upFrom first size).map (sibling k)
    let left := (group.flatMap s.pool).filter fun m => !has group m
    let s := left.foldl (fun (s : State) m => s.modCore m fun c => c.regroup (coreIndex m) (coreIndex m) 1) s
    group.foldl (fun (s : State) m => s.modCore m fun c => c.regroup (coreIndex m) first size) s
  else s

/-- Registers that kernels only read and firmware sets when it forms partitions (R36). -/
def Core.sysSet (c : Core) (idx : Nat) (v : Word) : Core :=
  match idx with
  | 0x031 => { c with domreg := (c.domreg &&& 0x000F_FFFF_FFFF_FFFF) ||| (v &&& 0xFFF0_0000_0000_0000) }
  | _ => c

/-- SYSREG_WRITE: firmware writes such a register of a core (R312). -/
def execSysregWrite (core idx : Nat) (v : Word) (s : State) : Out :=
  .next (if idx = 0x011 then s.setVgrp core (v.toNat / 16 % 64) (v.toNat % 16)
    else s.modCore core fun c => (c.sysWriteFw idx v).getD (c.sysSet idx v))

/-! SWR -/

/-- SWR to LSPLIT (R26, R28). -/
def swrSplit (v : Word) : M Unit := do
  require (splitOk v) 0x14
  let c ← theCore
  if v.toNat % 32 ≠ c.spbanks then
    modState fun s => s.drain s.cur
    let s ← theState
    if s.splitWaits s.cur then leave
    setState (s.resplit s.cur (v.toNat % 32))

/-- SWR to TLBINV (R473). -/
def swrTlbinv (v : Word) : M Unit := do
  if v.getLsbD 2 then
    modState fun s => s.drain s.cur
    let s ← theState
    if s.tlbBusy s.cur (v.toNat % 4) then leave
    setState (s.tlbClear s.cur (v.toNat % 4))

/-- SWR (R34, R312). -/
def swrInstr (idx : Nat) (v : Word) : M Unit := do
  let s ← theState
  let c := s.me
  if 0x020 ≤ idx ∧ idx ≤ 0x02D then
    if s.namesBank s.cur (idx - 0x020) then leave
    modMe fun c => c.setBfmt (idx - 0x020) v
  else if idx = 0x010 then swrSplit v
  else if idx = 0x040 then modMe fun c => c.setMthr v
  else if c.mode = .handler ∧ idx = 0x212 then swrTlbinv v
  else
    match (if c.mode = .handler then c.sysWriteFw idx v else none) with
    | some c => modMe fun _ => c
    | none => fault 0x13

/-- SWR. -/
def execSwr (g : Guard) (a : Reg) (idx : BitVec 12) (s : State) : Out :=
  instr g [a] [] (swrInstr idx.toNat (s.me.regs.rs a)) s

/-! Tables -/

/-- Write bytes of a package's control region at their home. -/
def State.control (s : State) (pkg off : Nat) (data : List Byte) : State :=
  s.homeBytes none false ((s.pkg pkg).id * 2 ^ 44 + 0x300_0000_0000 + off) data

/-- REGION_TABLE_WRITE: firmware writes entry `n` of a die's region table (R475, R478). -/
def execRegionTableWrite (die n : Nat) (v : Word) (s : State) : Out :=
  .next (s.control (die / 4) (0x100_0000 * (die % 4) + 0x1_0000 + 8 * (n % 64)) (toBytes 8 v.toNat))

/-- ROUTE_TABLE_WRITE: the routing purser writes the entry of package `p` in a die's route table (R489, R490). -/
def execRouteTableWrite (die p : Nat) (v : BitVec 32) (s : State) : Out :=
  .next (s.control (die / 4) (0x100_0000 * (die % 4) + 0x2_0000 + 4 * (p % 4096)) (toBytes 4 v.toNat))

/-! Other steps of a core -/

/-- A walk ends: its page fills the TLBs of every access it serves, the media engine's where it is that engine's, or each
of them is to have its fault (R471, R472). -/
def State.endWalk (s : State) (die : Nat) (x : Walk) (r : Except (Nat × Note) Leaf) : State :=
  match r with
  | .ok l =>
    let s := s.modDie die fun d =>
      { d with
        walks := d.walks.filter (· ≠ x)
        tlb := if x.cluster.isNone then mediaPut l d.tlb else d.tlb }
    if x.cluster.isNone then s else x.cores.foldl (fun (s : State) k => s.fillTlb k l) s
  | .error (st, n) =>
    (s.note n).modDie die fun d =>
      { d with walks := d.walks.map fun y => if y = x then { x with fault := some st } else y }

/-- PAGE_WALK: a walker walks for a core's access at an address (R467): the walk that its miss has asked for, where it is one
of the first 64 of its die (R472), or else a walk begun here, whose page fills the core's TLBs (R471). -/
def execPageWalk (core : Nat) (va : Word) (s : State) : Out :=
  let w := s.who core
  let root := (s.core core).root w.secure
  let die := coreDie core
  if canonical va.toNat then
    let running := ((s.die die).walks.filter (·.fault.isNone)).take 64
    match running.find? fun x => has x.cores core && x.unit == va.toNat % 2 ^ 57 / 4096 with
    | some x => .next (s.endWalk die x (s.walk { w with secure := x.secure } x.root (va.toNat % 2 ^ 57)))
    | none =>
      if (s.die die).walks.any fun x => x.fault.isNone && has x.cores core && x.unit == va.toNat % 2 ^ 57 / 4096 then .next s
      else
        match s.walk w root (va.toNat % 2 ^ 57) with
        | .ok l => .next (s.fillTlb core l)
        | .error (_, n) => .next (s.note n)
  else .next s

/-- UNASSIGNED_OPCODE: execution reaches a head whose opcode is unassigned or whose TL fits no format (R264, R277). -/
def execUnassignedOpcode (_g : Guard) (_opc : BitVec 9) (_tl : BitVec 3) (s : State) : Out :=
  .next (s.trap { status := 0x10 })

/-- A core in task mode takes the asynchronous trap that has reached it, at an instruction boundary: an instruction that
has been granted what it waits for or whose access is under way, and a load that has issued, complete first (R446). -/
def State.takeAsync (s : State) (k : Nat) : State :=
  let c := s.core k
  match c.mode, c.asyncTrap with
  | .task, some t => if c.wait.granted || c.due = .access || !c.loads.isEmpty then s else s.trapOn k t c.pc
  | _, _ => s

/-- ASYNC_TRAP: the current core takes the asynchronous trap that has reached it (R446). -/
def execAsyncTrap (s : State) : Out := .next (s.takeAsync s.cur)

/-- BUFFER_LINE_TIMEOUT: the oldest buffered line of the current core leaves for its home (R50). -/
def execBufferLineTimeout (s : State) : Out := .next ((s.leaveOne s.cur).getD s)

end Sys2Proof.Machine
end

