-- ==== Sys2Proof/Machine/Fabric.lean ====
section
/-! DEFINITION. Links: flits and their code, reception and resending, training, lane failures, route tables (13, R239,
R240, R246 to R250; 24, R485 to R491). -/

namespace Sys2Proof.Machine

/-! The code of a flit -/

/-- Product by α in GF(2^10) modulo x^10 + x^3 + 1 (R247). -/
def symDouble (x : Nat) : Nat := if 512 ≤ x then (2 * x - 1024) ^^^ 9 else 2 * x

/-- Product in GF(2^10), by the low `n` bits of the second factor. -/
def symMul : Nat → Nat → Nat → Nat
  | 0, _, _ => 0
  | n + 1, a, b => if b = 0 then 0 else (if b % 2 = 1 then a else 0) ^^^ symMul n (symDouble a) (b / 2)

/-- α^n. -/
def symPow : Nat → Nat
  | 0 => 1
  | n + 1 => symDouble (symPow n)

/-- Coefficients of (x + r) p, highest first. -/
def polyTimes (r : Nat) (p : List Nat) : List Nat :=
  List.zipWith (· ^^^ ·) (p ++ [0]) (0 :: p.map (symMul 10 r))

/-- The generator polynomial (x + α^0) … (x + α^(n−1)), highest coefficient first (R247). -/
def generator : Nat → List Nat
  | 0 => [1]
  | n + 1 => polyTimes (symPow n) (generator n)

/-- Remainder of m(x) x^24 by g(x): the check symbols, highest first (R247). -/
def checkSymbols (g : List Nat) : List Nat → List Nat → List Nat
  | [], r => r
  | m :: ms, r =>
    let f := m ^^^ r.headD 0
    checkSymbols g ms
      (if f = 0 then r.drop 1 ++ [0]
       else List.zipWith (· ^^^ ·) (r.drop 1 ++ [0]) ((g.drop 1).map (symMul 10 f)))

/-- The 2,320 message bits of a flit as a number: control field, header slot with ACK, data bytes (R247). -/
def Flit.message (f : Flit) : Nat :=
  (f.seq % 4096 + f.kind % 16 * 2 ^ 12) + (f.ack % 4096) * 2 ^ 16 + (f.hdr % 2 ^ 240) * 2 ^ 32 +
    f.data % 2 ^ 2048 * 2 ^ 272

/-- The 256 symbols of a flit: 232 message symbols and 24 check symbols (R247). -/
def Flit.codeword (f : Flit) : List Nat :=
  let m := (upFrom 0 232).map fun i => f.message / 2 ^ (10 * i) % 1024
  m ++ checkSymbols (generator 24) m (List.replicate 24 0)

/-- Lane that carries symbol `j` (R247). -/
def laneOf (j : Nat) : Nat := j % 16

/-- The symbols as they arrive: each listed symbol is changed by a difference. -/
def corrupt (sent : List Nat) (errs : List (Nat × BitVec 10)) : List Nat :=
  errs.foldl (fun l e => modifyAt l e.1 (· ^^^ e.2.toNat)) sent

/-- Positions of the symbols that arrive changed, outside an erased lane. -/
def wrongSymbols (f : Flit) (errs : List (Nat × BitVec 10)) (erased : Option Nat) : List Nat :=
  let sent := f.codeword
  ((sent.zip (corrupt sent errs)).zipIdx.filter fun x => x.1.1 != x.1.2 && some (laneOf x.2) != erased).map (·.2)

/-! State -/

/-- Change a link. -/
def State.modLink (s : State) (pkg i : Nat) (f : Link → Link) : State :=
  s.modPkg pkg fun p => { p with links := put p.links .reset i (f (p.link i)) }

/-- The erased lane of a link. -/
def Link.erased (l : Link) : Option Nat :=
  match l.up with
  | .erased n => some n
  | _ => none

/-- Errors that the state corrects (R248). -/
def Link.corrects (l : Link) : Nat :=
  match l.up with
  | .erased _ => 4
  | _ => 12

/-- Flits travel to the other end of a link. -/
def State.travel (s : State) (l : Link) (fs : List Flit) : State :=
  match s.otherEnd l with
  | some (p, i) => s.modLink p i fun x => { x with arriving := x.arriving ++ fs }
  | none => s

/-- A gateway sends a data flit on a link and keeps it until an ACK covers it (R247). -/
def State.sendFlit (s : State) (pkg i : Nat) (f : Flit) : State :=
  let l := (s.pkg pkg).link i
  let f := { f with kind := 1, seq := l.txSeq, ack := l.rxSeq }
  (s.modLink pkg i fun l => { l with txSeq := (l.txSeq + 1) % 4096, unacked := l.unacked ++ [f] }).travel l [f]

/-! Reception -/

/-- Flits that an ACK covers leave the sender (R247). -/
def Link.acknowledge (l : Link) (ack : Nat) : Link :=
  match l.unacked with
  | [] => l
  | f :: _ =>
    let n := (ack + 4096 - f.seq) % 4096
    if n ≤ l.unacked.length then { l with unacked := l.unacked.drop n } else l

/-- A flit comes in on a link in service: the symbols that its decoder corrected are counted for the link, and noted for
their lanes with the number of the flit, each lane keeping as many as its failure takes (R488, R496).  A flit that could not
be decoded is one of R488's 2^24 flits, and no symbol of it is known to be in error (log 73). -/
def Link.countErrors (l : Link) (wrong : List Nat) : Link :=
  { l with
    symErr := min (2 ^ 64 - 1) (l.symErr + wrong.length)
    flits := l.flits + 1
    errAt := wrong.foldl (fun m j => put m [] (laneOf j) ((l.flits :: look m [] (laneOf j)).take 257)) l.errAt }

/-- Whether a lane has shown more than 256 symbol errors within the newest 2^24 flits (R488). -/
def Link.noisy (l : Link) (lane : Nat) : Bool :=
  256 < ((look l.errAt [] lane).filter fun n => l.flits ≤ n + 2 ^ 24).length

/-- The link that a gateway of a die picks for a home: among those listed, by a hash of the home slice's number (R240). -/
def State.linkFor (s : State) (pkg die : Nat) (home : Nat × Nat) : Option Nat :=
  let ls := s.open_ pkg die home.1
  ls[Config.linkHash home.2 ls.length % max 1 ls.length]?

/-- Whether a packet for a home is outstanding that another link of a package took: later packets for the home wait for it
(R249, R490). -/
def State.otherWay (s : State) (pkg link : Nat) (home : Nat × Nat) : Bool :=
  (s.pkg pkg).links.any fun l =>
    l.1 != link && l.2.unacked.any fun f => f.packet.any fun p => p.home == home

/-- The flit that carries a packet. -/
def packetFlit (p : Packet) : Flit :=
  let bits := Config.packetBits p.home (p.core, p.num)
  { kind := 1, seq := 0, ack := 0, hdr := bits.1, data := bits.2, packet := some p }

/-- Note which link carries a part of a posted store. -/
def State.carry (s : State) (p : Packet) (link : Nat) : State :=
  s.modCore p.core fun c =>
    { c with journal := c.journal.map fun e =>
        if e.num = p.num then { e with sent := (p.part, link) :: e.sent.filter (·.1 ≠ p.part) } else e }

/-- A gateway takes the first part of a posted store that is bound for another package and not under way (R240): it waits
behind the core's earlier stores to that home which have not set out, and behind packets for that home that went another
way (R206, R490). -/
def State.sendPosted (s : State) (k idx : Nat) : State :=
  match (s.core k).entry idx with
  | none => s
  | some e =>
    let earlier := (s.core k).journal.takeWhile (·.idx ≠ idx)
    let away := fun (x : Nat × Nat × Nat) => x.2.1 != s.idOf k && (find? e.sent x.1).isNone
    match (s.parts e).find? away with
    | none => s
    | some (part, home) =>
      let unsent := earlier.any fun x =>
        x.st == .pending && (s.parts x).any fun y => y.2 == home && (find? x.sent y.1).isNone
      let moved := s.cores.any fun c =>
        corePkg c.1 == corePkg k && c.2.journal.any fun x => (s.parts x).any fun y =>
          y.2 == home && (find? x.sent y.1).any fun l => some l != s.linkFor (corePkg k) (coreDie k % 4) home
      match s.linkFor (corePkg k) (coreDie k % 4) home with
      | some i =>
        if e.st != .pending || unsent || moved || s.otherWay (corePkg k) i home then s
        else
          let p : Packet := ⟨k, e.num, part, home⟩
          (s.carry p i).sendFlit (corePkg k) i (packetFlit p)
      | none => s

/-- Whether a package can take a packet that arrives on a link: it is at its destination, or the link on which it goes on is
free of an earlier packet that went another way (R490). -/
def State.canTake (s : State) (pkg link : Nat) (p : Packet) : Bool :=
  p.home.1 == (s.pkg pkg).id ||
    match s.linkFor pkg (link / 3) p.home with
    | some i => !s.otherWay pkg i p.home
    | none => true

/-- A packet that a package has taken is delivered there, or goes on over the link that the gateway picks, or is refused
where no route leads on (R240, R250). -/
def State.passPacket (s : State) (pkg link : Nat) (p : Packet) : State :=
  if p.home.1 = (s.pkg pkg).id then s.arrivePacket p
  else
    match s.linkFor pkg (link / 3) p.home with
    | some i => s.sendFlit pkg i (packetFlit p)
    | none => s.refusePacket p

/-- A packet that carries no posted store comes to a package (R239): one for a core number that does not exist is discarded
and counted, one for a core's resident service program is a message to it (R311), another is delivered. -/
def State.otherPacket (s : State) (pkg : Nat) (hdr : Nat) : State :=
  let dst := Config.packetDest hdr
  let n := dst / 2 % 2048
  if dst / 4096 % 4096 ≠ (s.pkg pkg).id then s
  else if 1557 ≤ n then s.modPkg pkg fun p => { p with counters := { p.counters with dropped := bump p.counters.dropped } }
  else if dst % 2 = 1 then s.modCore (pkg * 2048 + n) fun c => { c with svc := c.svc + 1 }
  else s

/-- The ACK that an end sends, in an idle flit (R247). -/
def State.sendAck (s : State) (pkg i : Nat) : State :=
  let l := (s.pkg pkg).link i
  s.travel l [{ kind := 0, seq := 0, ack := l.rxSeq, hdr := 0, data := 0, packet := none }]

/-- A decoded flit is taken: its ACK, and a data flit that is the next in order is delivered once and acknowledged (R247,
R248); one that is not is discarded. -/
def State.takeFlit (s : State) (pkg i : Nat) (f : Flit) : State :=
  if f.kind = 0 then s.modLink pkg i fun l => l.acknowledge f.ack
  else if f.kind ≠ 1 then s
  else if f.seq ≠ ((s.pkg pkg).link i).rxSeq then s.sendAck pkg i
  else
    let s := s.modLink pkg i fun l =>
      { l.acknowledge f.ack with rxSeq := (l.rxSeq + 1) % 4096, delivered := l.delivered ++ [f] }
    let s := match f.packet with
      | some p => s.passPacket pkg i p
      | none => s.otherPacket pkg f.hdr
    s.sendAck pkg i

/-! Lane failures -/

/-- Flits of a link that has gone out of service are sent again on other links that the table at its die lists; a packet for
which none is left is refused (R249, R250). -/
def State.resteer (s : State) (pkg link : Nat) : List Flit → State
  | [] => s
  | f :: r =>
    let home := match f.packet with
      | some p => p.home
      | none => (Config.packetDest f.hdr / 4096 % 4096, Config.packetDest f.hdr / 2 % 2048)
    (match s.linkFor pkg (link / 3) home, f.packet with
     | some i, some p => (if corePkg p.core = pkg then s.carry p i else s).sendFlit pkg i f
     | some i, none => s.sendFlit pkg i f
     | none, some p => s.refusePacket p
     | none, none => s).resteer pkg link r

/-- One end of a link goes out of service: its flits that no ACK covers are sent again on other links (R249).  A training
under way there has ended with its partner's: the link retrains when both ends begin anew (R486). -/
def State.endDown (s : State) (pkg i : Nat) : State :=
  let l := (s.pkg pkg).link i
  (s.modLink pkg i fun l =>
    { l with up := .out, unacked := [], arriving := [], training := .none, heard := false, seen := false }).resteer
      pkg i l.unacked

/-- A lane of a link in service fails: the first failure erases it, the second takes the link out of service, at both ends
(R249, R488). -/
def State.failLane (s : State) (pkg i lane : Nat) : State :=
  let other := s.otherEnd ((s.pkg pkg).link i)
  let count := fun (l : Link) => { l with laneFail := min (2 ^ 64 - 1) (l.laneFail + 1) }
  let both := fun (s : State) (f : Link → Link) =>
    let s := s.modLink pkg i f
    match other with
    | some (p, j) => s.modLink p j f
    | none => s
  match ((s.pkg pkg).link i).up with
  | .out => s
  | .healthy => both s fun l => { count l with up := .erased lane }
  | .erased x =>
    if x = lane then s
    else
      let s := (both s fun l => { count l with up := .out }).endDown pkg i
      match other with
      | some (p, j) => s.endDown p j
      | none => s

/-- Lanes that show more than 256 symbol errors within 2^24 flits fail (R488). -/
def State.failNoisy (s : State) (pkg i : Nat) : State :=
  (upFrom 0 16).foldl
    (fun (s : State) lane => if ((s.pkg pkg).link i).noisy lane then s.failLane pkg i lane else s) s

/-- FLIT_RECEIVE: the flit that arrives first on a link in service, with some of its symbols changed on the way; what
the state of the link cannot correct is lost, to be resent (R247, R248).  A flit whose packet must wait for one that went
another way stays (R490). -/
def execFlitReceive (pkg link : Nat) (errs : List (Nat × BitVec 10)) (s : State) : Out :=
  let l := (s.pkg pkg).link link
  match l.arriving with
  | [] => .next s
  | f :: r =>
    if l.inService && f.packet.any fun p => !s.canTake pkg link p then .next s
    else
      let s := s.modLink pkg link fun l => { l with arriving := r }
      if !l.inService then .next s
      else
        let wrong := wrongSymbols f errs l.erased
        if wrong.length ≤ l.corrects then
          .next (((s.modLink pkg link fun l => l.countErrors wrong).takeFlit pkg link f).failNoisy pkg link)
        else .next (s.modLink pkg link fun l => l.countErrors [])

/-- FLIT_RESEND_TIMEOUT: every flit not acknowledged is resent in order (R247). -/
def execFlitResendTimeout (pkg link : Nat) (s : State) : Out :=
  let l := (s.pkg pkg).link link
  if !l.inService then .next s
  else
    let fs := l.unacked.map fun f => { f with ack := l.rxSeq }
    .next ((s.modLink pkg link fun l => { l with resent := min (2 ^ 64 - 1) (l.resent + fs.length) }).travel l fs)

/-! Cycle counters -/

/-- Ids of the packages next to one, with the link that leads there. -/
def State.neighbours (s : State) (pkg : Nat) : List (Nat × Nat) :=
  (upFrom 0 12).filterMap fun i =>
    let l := (s.pkg pkg).link i
    if l.inService then l.partner.map fun p => (i, p.1) else none

/-- Ids reached within `n` hops of a set, level by level. -/
def State.hops (s : State) (seen front : List Nat) : Nat → List (List Nat)
  | 0 => []
  | n + 1 =>
    let next := (front.flatMap fun id => (s.neighbours (s.ownerOf id)).map (·.2)).filter fun id => !has seen id
    let next := next.eraseDups
    front :: s.hops (seen ++ next) next n

/-- How far a package's cycle counter stands ahead of another's, less than half their range (R491). -/
def State.ahead (s : State) (q ref : Nat) : Int :=
  Int.bmod (((s.pkg q).cycles : Int) - (s.pkg ref).cycles) (2 ^ 64)

/-- A package's cycle counter is set from another's, such that it differs by at most 4,096 cycles from that of each package
given (R491; log 8). -/
def State.alignTo (s : State) (low : Nat) (others : List Nat) (q : Nat) : State :=
  let ds := 0 :: others.map fun o => s.ahead o low
  let lo := ds.foldl max 0 - 4096
  let span := (ds.foldl min 0 + 4096 - lo).toNat
  let d := lo + (Config.freeValue s.free).toNat % (span + 1)
  { s with free := s.free + 1 }.modPkg q fun p =>
    { p with cycles := (((s.pkg low).cycles + d) % 2 ^ 64).toNat }

/-- The packages whose links are up (R479 step 7) that a package reaches, with the lowest-numbered of them and itself. -/
def State.aligned (s : State) (pkg : Nat) : List Nat × Nat :=
  let id := (s.pkg pkg).id
  let ids := ((s.hops [id] [id] (s.pkgs.length + 1)).flatten).filter fun id => 7 ≤ (s.pkg (s.ownerOf id)).step
  (ids.map s.ownerOf, s.ownerOf (ids.foldl min id))

/-- Packages set their cycle counters from one, each within R491's bound of those before it. -/
def State.alignAll (s : State) (low : Nat) (others : List Nat) : State :=
  (others.foldl (fun (x : State × List Nat) q => (x.1.alignTo low x.2 q, q :: x.2)) (s, [])).1

/-- The package's cycle counter is set from the lowest-numbered package it reaches; where that is itself, those that it
reaches set theirs from it (R491; log 8). -/
def State.alignCycles (s : State) (pkg : Nat) : State :=
  let (ps, low) := s.aligned pkg
  let others := ps.filter (· ≠ pkg)
  if low = pkg then s.alignAll pkg others else s.alignTo low others pkg

/-- A link between two packages whose links are up has entered service: every package reached sets its counter from the
lowest-numbered one (R491). -/
def State.alignJoined (s : State) (pkg other : Nat) : State :=
  if 7 ≤ (s.pkg pkg).step && 7 ≤ (s.pkg other).step && (s.aligned pkg).1.contains other then
    let (ps, low) := s.aligned pkg
    s.alignAll low (ps.filter (· ≠ low))
  else s

/-! Training -/

/-- Next state of the PRBS31 register (R487). -/
def prbsStep (x : Nat) : Nat := (2 * x + (x / 2 ^ 30 + x / 2 ^ 27) % 2) % 2 ^ 31

/-- `n` steps of the PRBS31 register and the bits that leave it, first bit lowest. -/
def prbsBits : Nat → Nat → Nat × Nat
  | 0, x => (x, 0)
  | n + 1, x =>
    let r := prbsBits n (prbsStep x)
    (r.1, prbsStep x % 2 + 2 * r.2)

/-- The training flit that an end sends (R487). -/
def State.trainingFlit (s : State) (pkg i gen : Nat) : Flit :=
  let l := (s.pkg pkg).link i
  { kind := 3, seq := 0, ack := 0
    hdr := gen + i * 2 ^ 8 + (s.pkg pkg).id * 2 ^ 16 + (if l.heard then 1 else 0) * 2 ^ 32
    data := (prbsBits 2048 l.prbs).2, packet := none }

/-- A training begins (R486, R487). -/
def Link.train (l : Link) : Link :=
  { l with
    training := .exchange, heard := false, seen := false, prbs := 2 ^ 31 - 1, laneErr := [], flits := 0, errAt := []
    retrain := min (2 ^ 32 - 1) (l.retrain + 1) }

/-- Errors of each lane in a training flit: as decoded, or 16 on every lane (R487). -/
def laneErrors (wrong : List Nat) (m : List (Nat × Nat)) : List (Nat × Nat) :=
  let add := fun m (lane n : Nat) => put m 0 lane (look m 0 lane + n)
  if wrong.length ≤ 12 then wrong.foldl (fun m j => add m (laneOf j) 1) m
  else (upFrom 0 16).foldl (fun m lane => add m lane 16) m

/-- An end that has decoded a training flit of its partner during the exchange: it knows the partner, its generation, and
whether the partner has seen one of its own (R486 steps 1 and 2, R487). -/
def Link.hear (l : Link) (f : Flit) : Link :=
  { l with
    heard := true, gen := f.hdr % 256, partner := some (f.hdr / 2 ^ 16 % 4096, f.hdr / 2 ^ 8 % 256)
    seen := l.seen || bitOf f.hdr 32 }

/-- An end receives a training flit: the symbols that its decoder corrects are counted (R487, R496). -/
def Link.receive (l : Link) (f : Flit) (wrong : List Nat) : Link :=
  let l := if wrong.length ≤ 12 then { l with symErr := min (2 ^ 64 - 1) (l.symErr + wrong.length) } else l
  match l.training with
  | .none => l
  | .exchange => if wrong.length ≤ 12 then l.hear f else l
  | .test n => { l with training := .test (n + 1), laneErr := laneErrors wrong l.laneErr }

/-- The rate changes once each end has received a flit with SEEN set, and the sequence restarts (R486 step 3, R487). -/
def Link.toTest (l : Link) : Link := { l with training := .test 0, prbs := 2 ^ 31 - 1 }

/-- TRAINING_FLIT: the partner cabled to a training link sends its next training flit, and it is received with some
symbols changed (R486, R487). -/
def execTrainingFlit (pkg link : Nat) (errs : List (Nat × BitVec 10)) (s : State) : Out :=
  match Config.cable pkg link with
  | none => .next s
  | some (p, i, gen) =>
    if ((s.pkg p).link i).training = .none then .next s
    else
      let f := s.trainingFlit p i gen
      let s := s.modLink p i fun l => { l with prbs := (prbsBits 2048 l.prbs).1 }
      let s := s.modLink pkg link fun l => l.receive f (wrongSymbols f errs none)
      let l := (s.pkg pkg).link link
      let m := (s.pkg p).link i
      if l.training = .exchange ∧ m.training = .exchange ∧ l.seen ∧ m.seen then
        .next ((s.modLink pkg link Link.toTest).modLink p i Link.toTest)
      else .next s

/-- Lanes that have shown more than 16 symbol errors in a training (R486). -/
def Link.failedLanes (l : Link) : List Nat := (upFrom 0 16).filter fun i => 16 < look l.laneErr 0 i

/-- A trained link enters service, with one failed lane erased, or stays out of it (R486). -/
def Link.conclude (failed : List Nat) (l : Link) : Link :=
  { l with
    training := .none, laneErr := [], flits := 0, errAt := [], txSeq := 0, rxSeq := 0, arriving := []
    up := match failed with
      | [] => .healthy
      | [i] => .erased i
      | _ => .out }

/-- Whether an end has received its 2^20 test flits (R486 step 4). -/
def Link.tested (l : Link) : Bool :=
  match l.training with
  | .test n => 2 ^ 20 ≤ n
  | _ => false

/-- The training of a link is concluded at both ends, once each has received its test flits: a lane that failed in either
direction has failed (R486).  Where the link enters service the packages' counters are aligned (R491). -/
def State.concludeLink (s : State) (pkg link : Nat) : State :=
  match Config.cable pkg link with
  | none => s
  | some (p, i, _) =>
    let l := (s.pkg pkg).link link
    let m := (s.pkg p).link i
    if l.tested && m.tested then
      let failed := m.failedLanes.foldl addNat l.failedLanes
      let s := (s.modLink pkg link (Link.conclude failed)).modLink p i (Link.conclude failed)
      if failed.length ≤ 1 then s.alignJoined pkg p else s
    else s

/-- LINK_TRAINING: the first training of a link begins in step 7 of the boot (R479, R486), and a training whose 2^20 test
flits have arrived is concluded. -/
def execLinkTraining (pkg link : Nat) (s : State) : Out :=
  let l := (s.pkg pkg).link link
  if l.training = .none then
    .next (if l.inService || l.retrain ≠ 0 || (s.pkg pkg).step < 6 || 12 ≤ link then s else s.modLink pkg link Link.train)
  else .next (s.concludeLink pkg link)

/-- LINK_RETRAIN_TIMER: a link out of service trains again every second (R486). -/
def execLinkRetrainTimer (pkg link : Nat) (s : State) : Out :=
  .next (s.modLink pkg link fun l =>
    if l.inService || l.training ≠ .none || l.retrain = 0 then l else l.train)

/-! Failures and routes -/

/-- LANE_FAILURE: a lane of a link in service loses lock (R248, R249, R488). -/
def execLaneFailure (pkg link lane : Nat) (s : State) : Out :=
  .next (if 16 ≤ lane then s else s.failLane pkg link lane)

/-- Hops to a package from another, none where no path leads. -/
def State.distance (s : State) (a b : Nat) : Option Nat := indexOf? (fun l => has l b) (s.hops [a] [a] (s.pkgs.length + 1))

/-- Up to four links that begin a path of the fewest hops to a package, lowest numbers first (R489). -/
def State.bestLinks (s : State) (pkg dst : Nat) : List Nat :=
  let ds := (s.neighbours pkg).filterMap fun n => (s.distance n.2 dst).map fun d => (n.1, d)
  let best := (ds.map (·.2)).foldl min 65536
  ((ds.filter (·.2 = best)).map (·.1)).take 4

/-- A route table entry that lists links (R489). -/
def routeEntry (ls : List Nat) : Nat :=
  ls.length * 2 ^ 16 + (ls.zipIdx.map fun l => l.1 * 16 ^ l.2).foldl (· + ·) 0

/-- The routing purser writes the table into every die (R489). -/
def State.writeRoutes (s : State) (pkg : Nat) : State :=
  let table := (upFrom 0 4096).flatMap fun dst =>
    toBytes 4 (if dst = (s.pkg pkg).id then 0 else routeEntry (s.bestLinks pkg dst))
  (upFrom 0 4).foldl (fun (s : State) d => s.control pkg (0x100_0000 * d + 0x2_0000) table) s

/-- ROUTE_RECOMPUTE: the routing purser of the current core's package recomputes its route tables (R489, R490). -/
def execRouteRecompute (s : State) : Out := .next (s.writeRoutes (corePkg s.cur))

end Sys2Proof.Machine
end

