-- ==== Sys2Proof/Machine/Rebuild.lean ====
section
/-! DEFINITION. The loss of a member of a parity group and the rebuild of its protected data (13, R255 to R257; 24, R492
to R494). -/

namespace Sys2Proof.Machine

/-! Arithmetic in GF(2^8) -/

/-- Product in GF(2^8), by the low `n` bits of the second factor (R252). -/
def gfMul : Nat → Nat → Nat → Nat
  | 0, _, _ => 0
  | n + 1, a, b => (if b % 2 = 1 then a else 0) ^^^ gfMul n (gfDouble a) (b / 2)

/-- Inverse in GF(2^8); 0 for 0. -/
def gfInv (a : Nat) : Nat := (leastFrom (fun x => gfMul 8 a x == 1) 1 255).getD 0

/-- g^i. -/
def gfPow (i : Nat) : Nat := gfScale i 1

/-! One stripe -/

/-- What is known of a stripe at one offset: bytes of data by rank, P and Q where their holders are there (R252). -/
structure StripeBytes where
  data : List (Nat × Nat)
  p : Option Nat
  q : Option Nat
deriving DecidableEq, Repr

/-- XOR of the known data, and of the known data scaled by their ranks. -/
def StripeBytes.sums (x : StripeBytes) : Nat × Nat :=
  (x.data.foldl (fun a d => a ^^^ d.2) 0, x.data.foldl (fun a d => a ^^^ gfScale d.1 d.2) 0)

/-- The data of the missing ranks, solved from P, or from P and Q (R252, R493). -/
def StripeBytes.solve (x : StripeBytes) : List Nat → List (Nat × Nat)
  | [] => []
  | [a] =>
    match x.p, x.q with
    | some p, _ => [(a, p ^^^ x.sums.1)]
    | none, some q => [(a, gfMul 8 (gfInv (gfPow a)) (q ^^^ x.sums.2))]
    | none, none => []
  | a :: b :: _ =>
    match x.p, x.q with
    | some p, some q =>
      let px := p ^^^ x.sums.1
      let qx := q ^^^ x.sums.2
      let da := gfMul 8 (gfInv (gfPow a ^^^ gfPow b)) (gfMul 8 (gfPow b) px ^^^ qx)
      [(a, da), (b, px ^^^ da)]
    | _, _ => []

/-- Rank of the holder of Q of a stripe, where the group keeps one. -/
def ParityGroup.qHolder (g : ParityGroup) (t : Nat) : Option Nat := if g.m = 2 then some ((t + 1) % g.n) else none

/-- Global physical address of the unit of rank `i` in a stripe. -/
def ParityGroup.unitAt (g : ParityGroup) (t i : Nat) : Nat :=
  g.ranks.getD i 0 * 2 ^ 44 + if g.holds t i then parityUnit t else g.base + 4096 * g.unit i t

/-- Whether rank `i` has a unit in a stripe: a parity unit, or a data unit that lies within the region (R252). -/
def ParityGroup.hasUnit (g : ParityGroup) (t i : Nat) : Bool := g.holds t i || g.unit i t < g.size / 4096

/-- The byte at an offset of a stripe that a lost rank held (R493 step 3), from the units that the stripe has. -/
def State.rebuiltByte (s : State) (g : ParityGroup) (t r off : Nat) : Byte :=
  let byte := fun i => (s.byte (g.unitAt t i + off)).toNat
  let there := fun i => !has g.lost i
  let ranks := upFrom 0 g.n
  let hold := ranks.filter fun i => !g.holds t i && g.hasUnit t i
  let ph := t % g.n
  let x : StripeBytes :=
    { data := (hold.filter there).map fun i => (i, byte i)
      p := if there ph then some (byte ph) else none
      q := (g.qHolder t).bind fun h => if there h then some (byte h) else none }
  let solved := x.solve (hold.filter fun i => !there i)
  let all : StripeBytes := { x with data := x.data ++ solved }
  BitVec.ofNat 8
    (if r = ph then all.sums.1
     else if some r = g.qHolder t then all.sums.2
     else (find? solved r).getD 0)

/-! The loss of a member -/

/-- Change the record that every member of a group keeps (R492). -/
def State.modGroup (s : State) (group : Nat) (f : ParityGroup → ParityGroup) : State :=
  { s with pkgs := s.pkgs.map fun p =>
      match p.2.parity with
      | some g => if p.2.joined && g.group = group then (p.1, { p.2 with parity := some (f g) }) else p
      | none => p }

/-- A delta to a lost holder is dropped: it is acknowledged, and an SFENCE of its core that waits for it faults (R257). -/
def State.dropDelta (s : State) (group i : Nat) (d : Delta) : State := (s.ackDelta i d).noteDrop group d.core

/-- The pending deltas to a lost holder are dropped (R257). -/
def State.dropDeltas (s : State) (group lost : Nat) : State :=
  (upFrom 0 s.deltas.length).foldl
    (fun (s : State) i =>
      match s.deltas[i]? with
      | some d => if !d.applied && d.holder = lost then s.dropDelta group i d else s
      | none => s) s

/-- Every surviving home completes its pending deltas to the surviving holders, in its order (R255 step 1). -/
def State.finishDeltas (s : State) (lost : Nat) : State :=
  (upFrom 0 s.deltas.length).foldl
    (fun (s : State) i =>
      match s.deltas[i]? with
      | some d => if d.applied || d.home = lost then s else s.applyDelta i
      | none => s) s

/-- Where the holders have got different prefixes of a lost home's deltas, the one that is ahead removes its later ones;
what has reached neither is gone (R255 step 2).  A core whose write goes with them waits for it no more: its SFENCE faults as
for a delta that is dropped (R257; log 70). -/
def State.trimDeltas (s : State) (group lost : Nat) : State :=
  let behind := fun (w : Nat) => s.deltas.any fun e => e.write == w && !e.applied && e.holder != lost
  let undo := fun (s : State) (d : Delta) =>
    if d.home = lost && d.applied && behind d.write && d.holder ≠ lost then
      s.setBytes (64 * d.line) (toBytes 64 (s.line d.line ^^^ d.bits).toNat)
    else s
  let s := s.deltas.foldl undo s
  let s := (upFrom 0 s.deltas.length).foldl
    (fun (s : State) i =>
      match s.deltas[i]? with
      | some d => if !d.applied && d.home = lost then s.dropDelta group i d else s
      | none => s) s
  { s with deltas := s.deltas.filter fun d => !(d.home == lost && behind d.write) }

/-- DOMREG's PKG field of every core of a package (R36, R493). -/
def State.setDomregs (s : State) (pkg id : Nat) : State :=
  (upFrom (pkg * 2048) 1557).foldl
    (fun (s : State) k => s.modCore k fun c =>
      { c with domreg := (c.domreg &&& ~~~(0x000F_FF00_0000_0000 : Word)) ||| BitVec.ofNat 64 (id % 4096 * 2 ^ 40) }) s

/-- Every package's route table points the id of the lost package at the spare (R493 step 2): what each die lists for the
spare. -/
def State.pointRoutes (s : State) (spare lost : Nat) : State :=
  s.pkgs.foldl
    (fun (s : State) p =>
      (upFrom 0 4).foldl
        (fun (s : State) d =>
          let base := (s.pkg p.1).id * 2 ^ 44 + 0x300_0002_0000 + 0x100_0000 * d
          s.homeBytes none false (base + 4 * lost) (s.bytes (base + 4 * spare) 4)) s) s

/-- The ids under which links know the package at their other end, when the spare takes the lost package's. -/
def State.renamePartners (s : State) (spare lost gone : Nat) : State :=
  let rename := fun (x : Nat × Nat) => if x.1 = lost then (4096 + gone, x.2) else if x.1 = spare then (lost, x.2) else x
  { s with pkgs := s.pkgs.map fun p =>
      (p.1, { p.2 with links := p.2.links.map fun l => (l.1, { l.2 with partner := l.2.partner.map rename }) }) }

/-- The spare adopts the id of a lost package (R493 step 2): its memory answers under that id, what the lost package
held is gone, and it joins the group with its record; routes and links lead to it under that id. -/
def State.adopt (s : State) (g : ParityGroup) (lost : Nat) : State :=
  let sp := s.ownerOf g.spare
  let gone := s.ownerOf lost
  let move := fun (a : Nat) => a % 2 ^ 44 + lost * 2 ^ 44
  let isLost := fun (a : Nat) => a / 2 ^ 44 == lost
  let isSpare := fun (a : Nat) => a / 2 ^ 44 == g.spare
  let cells := s.mem.filter fun c => !isLost c.1
  let s : State :=
    { s with
      mem := (cells.filter fun c => isSpare c.1).foldl (fun m c => insert m (move c.1) c.2)
        (cells.filter fun c => !isSpare c.1)
      fe := ((s.fe.filter fun w => isSpare (8 * w)).map fun w => move (8 * w) / 8).foldl addNat
        (s.fe.filter fun w => !isLost (8 * w) && !isSpare (8 * w))
      ue := ((s.ue.filter isSpare).map move).foldl addNat (s.ue.filter fun a => !isLost a && !isSpare a) }
  let s := s.modPkg gone fun p => { p with id := 4096 + gone, joined := false }
  let s := (s.pointRoutes g.spare lost).renamePartners g.spare lost gone
  let s := s.modPkg sp fun p => { p with id := lost, parity := some g, joined := true }
  s.setDomregs sp lost

/-- Stripes that hold the data units of a group's region (R252). -/
def ParityGroup.stripes (g : ParityGroup) : Nat :=
  if g.size < 4096 then 0
  else ((upFrom 0 g.n).map fun i => g.stripe i (g.size / 4096 - 1) + 1).foldl max 0

/-- The group goes to its rebuild, or stays degraded where it has no spare (R493).  A spare that has taken a lost member's
id is none any more: SPARE then names no package, and a later loss leaves the group degraded (the spec says no more of
SPARE; log 70). -/
def State.startRebuild (s : State) (g : ParityGroup) (lost r : Nat) : State :=
  if g.spare = 0xFFFF || (s.pkg (s.ownerOf g.spare)).id ≠ g.spare then s
  else
    let s := (s.finishDeltas lost).trimDeltas g.group lost
    let s := s.modGroup g.group fun g => { g with state := 2, adopted := addNat g.adopted r, busy := some 0 }
    match (s.pkg (s.ownerOf (g.ranks.find? (· ≠ lost) |>.getD 0))).parity with
    | some g => s.adopt g lost
    | none => s

/-- A second member is lost while the spare rebuilds the first (R493): the survivors finish their deltas and trim the logs,
and with m = 2 the rebuild goes on, solving from P and Q; with m = 1 the data can no longer be solved, and it stops (log 70). -/
def State.goOnRebuild (s : State) (g : ParityGroup) (lost : Nat) : State :=
  let s := (s.finishDeltas lost).trimDeltas g.group lost
  s.modGroup g.group fun g => if g.m = 2 then { g with state := 2 } else { g with busy := none }

/-- MEMBER_LOST: a member of a package's group has been unreachable for 100 ms (R493).  Its survivors' deltas for it are
dropped (R257). -/
def execMemberLost (pkg lost : Nat) (s : State) : Out :=
  let p := s.pkg pkg
  match p.parity with
  | none => .next s
  | some g =>
    match indexOf? (· == lost) g.ranks with
    | none => .next s
    | some r =>
      if !p.joined || has g.lost r || p.id = lost || s.reaches (pkg * 2048 + 1536) lost then .next s
      else
        let s := s.modGroup g.group fun g => { g with state := 1, flags := 1, lost := addNat g.lost r }
        let s := s.dropDeltas g.group lost
        .next
          (if g.lost.isEmpty then s.startRebuild g lost r
           else if g.busy.isSome then s.goOnRebuild g lost
           else s)

/-! The rebuild -/

/-- A write that a home deferred is performed from where it waits: the buffered line under way or the posted store of its
core (R494). -/
def State.performDeferred (s : State) (d : Deferred) : State :=
  match d.core with
  | none => s
  | some k =>
    let c := s.core k
    match indexOf? (fun b => b.line == d.line && b.data == d.data) c.sfly with
    | some i => s.performFly k i
    | none => s.answerPost k d.line

/-- The writes that the homes of a group have deferred are performed in their order (R494). -/
def State.releaseDeferred (s : State) (ranks : List Nat) : State :=
  ranks.foldl
    (fun (s : State) id =>
      let o := s.ownerOf id
      let ds := (s.pkg o).deferred
      ds.foldl State.performDeferred (s.modPkg o fun p => { p with deferred := [] })) s

/-- Full-empty requests on words of a stripe that its homes held back are served (R193, R494). -/
def State.serveStripe (s : State) (group t : Nat) : State :=
  s.feWait.foldl
    (fun (s : State) r =>
      if r.prot && (s.stripeOf (r.word / 64)).any fun x => x.1.group == group && x.2.2 == t then
        s.serve r.word s.feWait.length
      else s) s

/-- Whether a delta for a unit of a stripe is still to be applied: the pursers read the units as its writes leave them
(R494). -/
def State.stripePending (s : State) (g : ParityGroup) (t : Nat) : Bool :=
  s.deltas.any fun d => !d.applied && has g.ranks d.holder && 64 * d.line % 2 ^ 44 / 4096 == parityUnit t / 4096

/-- The rebuild of a rank has ended (R493 step 4): the logs are discarded; with another rank lost the group stays
degraded. -/
def State.endRebuild (s : State) (g : ParityGroup) (r : Nat) : State :=
  let left := delNat g.lost r
  let s := s.modGroup g.group fun g =>
    { g with
      lost := left, adopted := delNat g.adopted r, busy := none
      state := if left.isEmpty then 0 else 1, flags := if left.isEmpty then 0 else 1 }
  let s : State :=
    if left.isEmpty then
      { s with
        cores := s.cores.map fun c => (c.1, { c.2 with dropped := delNat c.2.dropped g.group })
        tasks := s.tasks.map fun t => (t.1, { t.2 with dropped := delNat t.2.dropped g.group }) }
    else s
  { s with deltas := s.deltas.filter fun d => !(d.applied && has g.ranks d.home) }

/-- The unit of a rank in a stripe is written to the spare, every full-empty bit of it empty (R256, R493 step 3). -/
def State.writeUnit (s : State) (g : ParityGroup) (t r : Nat) : State :=
  let at_ := g.unitAt t r
  if g.hasUnit t r then
    { s.setBytes at_ ((upFrom 0 4096).map (s.rebuiltByte g t r)) with
      fe := s.fe.filter fun w => !(at_ ≤ 8 * w && 8 * w < at_ + 4096) }
  else s

/-- What refuses the pursers of a package, because of their world, a unit that the rebuild of a rank reads or writes (R476). -/
def State.rebuildShut (s : State) (pkg : Nat) (g : ParityGroup) (t r : Nat) : Option Note :=
  let who := firmware (pkg * 2048 + 1536)
  let reads := (upFrom 0 g.n).filter fun i => i ≠ r && !has g.lost i && g.hasUnit t i
  (reads.findSome? fun i => s.shut who .load (g.unitAt t i) 4096).or (s.shut who .store (g.unitAt t r) 4096)

/-- STRIPE_REBUILD: the pursers rebuild the lost member's unit of the next stripe onto the spare, where the stripe has one,
and the writes deferred meanwhile are performed (R493, R494).  Where their world may not reach a unit the refusal is logged
and the stripe stays to be rebuilt (R476, R477). -/
def execStripeRebuild (pkg stripe : Nat) (s : State) : Out :=
  let p := s.pkg pkg
  match p.parity with
  | none => .next s
  | some g =>
    match g.adopted with
    | [] => .next s
    | r :: _ =>
      if !p.joined || g.state ≠ 2 || g.busy ≠ some stripe || s.stripePending g stripe then .next s
      else
        match if g.hasUnit stripe r then s.rebuildShut pkg g stripe r else none with
        | some note => .next (s.note note)
        | none =>
          let s := s.writeUnit g stripe r
          let s := s.modGroup g.group fun g => { g with busy := some (stripe + 1) }
          let s := (s.releaseDeferred g.ranks).serveStripe g.group stripe
          .next (if g.stripes ≤ stripe + 1 then s.endRebuild { g with busy := none } r else s)

end Sys2Proof.Machine
end

