-- ==== Sys2Proof/Machine/Boot.lean ====
section
/-! DEFINITION. Reset and boot, the Kwebelas image, attestation reports, firmware update, loss of power (24, R479 to R484,
R491, R492; 25, R499, R502). -/

namespace Sys2Proof.Machine

/-! The image -/

/-- The bytes of an image by offset; an unlisted byte is zero. -/
abbrev Image := List (Nat × Byte)

/-- A field of an image. -/
def imgNum (i : Image) (off n : Nat) : Nat := ofBytes ((upFrom off n).map (look i 0))

/-- Bytes of an image. -/
def imgBytes (i : Image) (off n : Nat) : List Byte := (upFrom off n).map (look i 0)

/-- Component table entry `k`: KIND, OFFSET, LENGTH (R481). -/
def component (i : Image) (k : Nat) : Nat × Nat × Nat :=
  let a := 0x100 + 96 * k
  (imgNum i a 4, imgNum i (a + 4) 8, imgNum i (a + 12) 8)

/-- DIGEST of a component. -/
def digest (i : Image) (k : Nat) : List Byte := imgBytes i (0x100 + 96 * k + 32) 64

/-- Number of components. -/
def compCount (i : Image) : Nat := imgNum i 6 2

/-- The byte ranges that the layout names (R481). -/
def namedRanges (i : Image) : List (Nat × Nat) :=
  [(0, 0x20), (0x100, 0x100 + 96 * compCount i), (imgNum i 0x10 8, imgNum i 0x10 8 + 4627),
    (imgNum i 0x18 8, imgNum i 0x18 8 + 2592)] ++
    (upFrom 0 (compCount i)).map fun k => ((component i k).2.1, (component i k).2.1 + (component i k).2.2)

/-- Check 1 of R482. -/
def layoutOk (i : Image) : Bool :=
  let kinds := (upFrom 0 (compCount i)).map fun k => (component i k).1
  imgNum i 0 4 == 0x3142_574B && imgNum i 4 2 == 1 && 5 ≤ compCount i && compCount i ≤ 32 &&
    imgNum i 12 4 < 2 && imgNum i 0x10 8 % 64 == 0 &&
    kinds.all (fun x => 1 ≤ x && x ≤ 6) && (upFrom 1 5).all (fun x => (kinds.filter (· == x)).length == 1) &&
    (upFrom 0 (compCount i)).all (fun k => imgNum i (0x100 + 96 * k + 20) 12 == 0) &&
    i.all fun c => c.2 == 0 || (namedRanges i).any fun r => r.1 ≤ c.1 && c.1 < r.2

/-- Bytes of an ASCII string. -/
def ascii (s : String) : List Byte := s.toList.map fun c => BitVec.ofNat 8 c.toNat

/-- The failing check of R482, 1 to 5, or 0. -/
def authenticate (p : Package) (i : Image) : Nat :=
  let key := imgBytes i (imgNum i 0x18 8) 2592
  let sigoff := imgNum i 0x10 8
  if !layoutOk i then 1
  else if !(upFrom 0 4).any fun k => !has p.revoked k && Config.sha3 key == Config.vendorDigest k then 2
  else if !Config.mlDsaVerify key (Config.sha3 (imgBytes i 0 sigoff)) (ascii "Kwebelas-1") (imgBytes i sigoff 4627) then 3
  else if imgNum i 8 4 < p.minSvn then 4
  else if (upFrom 0 (compCount i)).all fun k =>
      let c := component i k
      c.2.1 + c.2.2 ≤ sigoff && Config.sha3 (imgBytes i c.2.1 c.2.2) == digest i k then 0
  else 5

/-- The image in a slot of the flash (R481). -/
def Package.slotImage (p : Package) (slot : Nat) : Image :=
  (p.flash.filter fun c => slot * 0x400_0000 ≤ c.1 && c.1 < (slot + 1) * 0x400_0000).map fun c =>
    (c.1 - slot * 0x400_0000, c.2)

/-- The bytes of the configuration component. -/
def configBytes (i : Image) : List Byte :=
  match ((upFrom 0 (compCount i)).map (component i)).find? fun c => c.1 == 5 with
  | some c => imgBytes i c.2.1 c.2.2
  | none => []

/-! Reset -/

/-- The ends of links that lead to a package go out of service when it resets, as their own partners name it (R486,
R501). -/
def State.partnersDown (s : State) (pkg : Nat) : State :=
  let ends := s.pkgs.flatMap fun q => q.2.links.filterMap fun l =>
    if q.1 ≠ pkg && (s.otherEnd l.2).any (·.1 == pkg) then some (q.1, l.1) else none
  ends.foldl (fun (s : State) e => s.endDown e.1 e.2) s

/-- The parts of posted stores whose link packets have gone with a package set out anew (log 23). -/
def State.strandedSent (s : State) : State :=
  let flits := s.pkgs.flatMap fun p => p.2.links.flatMap fun l => l.2.unacked ++ l.2.arriving
  let alive := fun (k : Nat) (e : JEntry) (part : Nat) =>
    flits.any fun f => f.packet.any fun p => p.core == k && p.num == e.num && p.part == part
  { s with cores := s.cores.map fun c =>
      (c.1, { c.2 with journal := c.2.journal.map fun e => { e with sent := e.sent.filter fun x => alive c.1 e x.1 } }) }

/-- A package loses everything it held and returns to reset (R479): flash and fuses stay.  Whatever was under way on it is
gone with it; deltas that homes have sent stay with their holders, and those for the package's own units wait until it is
found to be lost (R253, R255, R257). -/
def State.resetPackage (s : State) (pkg : Nat) : State :=
  let s := s.partnersDown pkg
  let p := s.pkg pkg
  let mine := fun (a : Nat) => a / 2 ^ 44 == p.id
  let here := fun (k : Nat) => corePkg k == pkg
  let p' := { Package.reset pkg with
    flash := p.flash, revoked := p.revoked, minSvn := p.minSvn, cycles := 2 ^ 64 - s.tick % 2 ^ 64 }
  State.strandedSent { s with
    mem := s.mem.filter fun c => !mine c.1
    fe := s.fe.filter fun w => !mine (8 * w)
    ue := s.ue.filter fun a => !mine a
    cores := s.cores.filter fun c => !here c.1
    clusters := s.clusters.filter fun c => c.1 / 32 ≠ pkg
    dies := s.dies.filter fun d => d.1 / 4 ≠ pkg
    pkgs := insert s.pkgs pkg p'
    graphs := s.graphs.filter fun g => graphPkg g.1 ≠ pkg
    tasks := s.tasks.filter fun t => t.2.cluster / 32 ≠ pkg
    harnesses := s.harnesses.filter fun h => !here (h.2.cores.headD 0)
    rings := s.rings.filter fun r => ((find? s.tasks r.task).map fun (t : Task) => decide (t.cluster / 32 ≠ pkg)).getD false
    steps := s.steps.filter fun a => ((find? s.tasks a.task).map fun (t : Task) => decide (t.cluster / 32 ≠ pkg)).getD false
    feWait := s.feWait.filter fun r => !here r.core && !mine r.word
    watch := s.watch.filter fun w => !here w.2 && !mine (64 * w.1)
    resv := s.resv.filter fun r => r.slice / 256 ≠ pkg
    deltas := s.deltas.map fun d => if d.core.any here then { d with core := none } else d }

/-! The boot steps -/

/-- The image of a slot has passed (R482): step 2 ends, with what the boot status word and the reports say of it, and the
device identity key pair (R483, R484, R499). -/
def Package.accept (p : Package) (pkg slot : Nat) : Package :=
  let img := p.slotImage slot
  let seed := (Config.sha3 (Config.deviceSecret pkg)).take 32
  { p with
    step := 2, slot := slot, svn := imgNum img 8 4
    digests := (upFrom 0 (compCount img)).map (digest img), config := configBytes img
    idSeed := seed, idKey := Config.mlDsaPublic seed }

/-- Step 2 (R479, R482): slot A is tried, and after it has failed slot B; the failing check of each is recorded (R480). -/
def State.bootImage (s : State) (pkg : Nat) : State :=
  s.modPkg pkg fun p =>
    let slot := if p.faila = 0 then 0 else 1
    match authenticate p (p.slotImage slot) with
    | 0 => p.accept pkg slot
    | x => if slot = 0 then { p with faila := x } else { p with failb := x }

/-- Step 3: every component but operator data is loaded, the assay and purser and changer programs into the private areas of
their cores, the resident handler into every compute core (R479, R481; where they lie: log 24). -/
def Package.load (p : Package) : Package :=
  let img := p.slotImage p.slot
  let cs := ((upFrom 0 (compCount img)).map (component img)).filter (·.1 ≠ 6)
  { p with step := 3, loaded := cs.map fun c => (c.1, imgBytes img c.2.1 c.2.2) }

/-- Step 4: every byte of the package's memory is zero and every full-empty bit empty (R57), at the package id it has and at
the one it is to have. -/
def State.bootMemory (s : State) (pkg : Nat) : State :=
  let ids := [(s.pkg pkg).id, (Config.confPackage (s.pkg pkg).config).toNat]
  let mine := fun (a : Nat) => has ids (a / 2 ^ 44)
  { s with
    mem := s.mem.filter fun c => !mine c.1, fe := s.fe.filter fun w => !mine (8 * w), ue := s.ue.filter fun a => !mine a }

/-- Whether some region table entries make a 2 MiB unit secure (R475). -/
def makesSecure (es : List Word) (unit : Nat) : Bool :=
  ((es.map BitVec.toNat).find? fun e => e / 2 ^ 63 == 1 && e % 2 ^ 23 ≤ unit && unit ≤ e / 2 ^ 23 % 2 ^ 23).any
    fun e => e / 2 ^ 62 % 2 == 1

/-- The region table that firmware writes: as the configuration has it, after an entry that keeps the report area non-secure
where the configuration's would not (R475, R484; log 24). -/
def regionTable (conf : List Byte) : List Word :=
  let es := (Config.confRegions conf).take 64
  let unit := 0x3_FFFF
  if makesSecure es unit then BitVec.ofNat 64 (2 ^ 63 + unit * 2 ^ 23 + unit) :: es.take 63 else es

/-- Step 5: region tables and roots (R464, R475), at the addresses of the id that the package is to have; the pool of context
images and the report area stand at their places (log 24). -/
def State.bootTables (s : State) (pkg : Nat) : State :=
  let conf := (s.pkg pkg).config
  let at_ := (Config.confPackage conf).toNat * 2 ^ 44 + 0x300_0001_0000
  let table := (regionTable conf).flatMap fun e => toBytes 8 e.toNat
  let s := (upFrom 0 4).foldl (fun (s : State) d => s.homeBytes none false (at_ + 0x100_0000 * d) table) s
  let (r0, r1) := Config.confRoots conf
  (upFrom (pkg * 2048) 1557).foldl
    (fun (s : State) k => s.modCore k fun c =>
      { c with ptroot0 := r0 &&& 0x0000_0FFF_FFFF_F000, ptroot1 := r1 &&& 0x0000_0FFF_FFFF_F000 }) s

/-- The victim-pool group that the configuration component gives a compute core: one that R53 allows and that it gives every
member alike, and else the core alone (R53, R479; log 24). -/
def vgrpOf (conf : List Byte) (n : Nat) : Nat × Nat :=
  let v := Config.confVgrp conf n
  let (first, size) := (v.1.toNat, v.2.toNat)
  if vgrpOk n first size && (upFrom first size).all fun i => Config.confVgrp conf (sibling n i) == v then (first, size)
  else (coreIndex n, 1)

/-- The power cap that the configuration component sets, 1,200 to 2,400 W, and 2,400 W where it sets none (R500). -/
def capOf (conf : List Byte) : Nat := max 1200 (min 2400 ((Config.confCap conf).getD 2400))

/-- Step 6: package id, PART, VGRP and port modes (R36, R53, R428), with the power cap (R500). -/
def State.bootConfig (s : State) (pkg : Nat) : State :=
  let conf := (s.pkg pkg).config
  let id := (Config.confPackage conf).toNat
  let s := s.modPkg pkg fun p => { p with id := id, mode1 := (Config.confPorts conf).filter (· < 6), cap := capOf conf }
  (upFrom (pkg * 2048) 1557).foldl
    (fun (s : State) k => s.modCore k fun c =>
      let v := vgrpOf conf (coreNo k)
      { c with
        domreg := domregAt (Config.confPart conf).toNat id (coreNo k)
        vgrpFirst := if coreNo k < 1536 then v.1 else c.vgrpFirst
        vgrpSize := if coreNo k < 1536 then v.2 else c.vgrpSize }) s

/-- The record of a parity group in the configuration component (R492): every field as the record's table gives it. -/
def parityOf (bs : List Byte) : Option ParityGroup :=
  let f := fun off n => ofBytes ((bs.drop off).take n)
  let n := f 2 1
  if 3 ≤ n && n ≤ 17 && 1 ≤ f 3 1 && f 3 1 ≤ 2 && 2 ≤ n - f 3 1 && n - f 3 1 ≤ 15 && f 4 1 ≤ 2 && f 5 1 < 2 &&
      f 8 8 % 4096 == 0 && f 16 8 % 4096 == 0 && (bs.drop 24).length == 34 then
    some
      { group := f 0 2, m := f 3 1, state := f 4 1, flags := f 5 1, spare := f 6 2, base := f 8 8, size := f 16 8
        ranks := (upFrom 0 n).map fun i => f (24 + 2 * i) 2, lost := [], adopted := [], busy := none }
  else none

/-- The record of the parity group that a package presents: the bytes of its configuration component (R492). -/
def Package.presents (p : Package) : List Byte := (Config.confParity p.config).take 58

/-- A member joins its group when every other member presents an identical record (R492). -/
def State.joinParity (s : State) (pkg : Nat) : State :=
  let s := s.modPkg pkg fun p => { p with parity := parityOf p.presents }
  match (s.pkg pkg).parity with
  | none => s
  | some g =>
    let same := g.ranks.all fun id =>
      (s.pkg (s.ownerOf id)).parity == some g && (s.pkg (s.ownerOf id)).presents == (s.pkg pkg).presents
    if same then
      g.ranks.foldl (fun (s : State) id => s.modPkg (s.ownerOf id) fun p => { p with joined := true }) s
    else s

/-- A core of a package whose boot has ended: compute cores are free for tasks; service cores wait in handler mode for
what they serve, which their programs' steps do (R308, R479; log 18). -/
def Core.booted (k : Nat) (c : Core) : Core := { c with run := if coreNo k < 1536 then .idle else .gated }

/-- Whether the links of a package that are cabled have come through their first training (R479 step 7, R486). -/
def Package.linksTrained (p : Package) (pkg : Nat) : Bool :=
  (upFrom 0 12).all fun i => (Config.cable pkg i).isNone || ((p.link i).retrain ≠ 0 && (p.link i).training = .none)

/-- Step 7, once the links have trained: routes are written and the cycle counter aligned (R489, R491). -/
def State.bootLinks (s : State) (pkg : Nat) : State :=
  if (s.pkg pkg).linksTrained pkg then ((s.writeRoutes pkg).alignCycles pkg).modPkg pkg fun p => { p with step := 7 } else s

/-- Step 8 of R479: the parity group is joined and mailbox pages are served; COMMIT raises the fused minimum (R482). -/
def State.finishBoot (s : State) (pkg : Nat) : State :=
  let s := s.joinParity pkg
  let s := (upFrom (pkg * 2048) 1557).foldl (fun (s : State) k => s.modCore k (Core.booted k)) s
  let commit := imgNum ((s.pkg pkg).slotImage (s.pkg pkg).slot) 12 4 % 2 == 1
  s.modPkg pkg fun p => { p with step := 8, minSvn := if commit then max p.minSvn p.svn else p.minSvn }

/-- The next step of a package's boot (R479): one that has booted, or whose slots have both failed, returns to reset. -/
def State.bootStep (s : State) (pkg : Nat) : State :=
  let p := s.pkg pkg
  let done := fun (n : Nat) (s : State) => s.modPkg pkg fun p => { p with step := n }
  match p.step with
  | 0 => done 1 s
  | 1 => if p.failb = 0 then s.bootImage pkg else s.resetPackage pkg
  | 2 => s.modPkg pkg Package.load
  | 3 => done 4 (s.bootMemory pkg)
  | 4 => done 5 (s.bootTables pkg)
  | 5 => done 6 (s.bootConfig pkg)
  | 6 => s.bootLinks pkg
  | 7 => s.finishBoot pkg
  | _ => s.resetPackage pkg

/-- MODULE_RESET: the package of the current core is reset, or its boot goes on by one step (R479, R480). -/
def execModuleReset (s : State) : Out := .next (s.bootStep (corePkg s.cur))

/-- Whether the junction of a die of a package stands at 115 °C (R501). -/
def State.overheated (s : State) (pkg : Nat) : Bool := s.dies.any fun d => d.1 / 4 == pkg && 115 ≤ d.2.junction

/-- THERMAL_RESET: a junction at 115 °C resets the module of the current core, whatever its boot has reached (R501). -/
def execThermalReset (s : State) : Out :=
  let pkg := corePkg s.cur
  .next (if s.overheated pkg then s.resetPackage pkg else s)

/-! Attestation -/

/-- Address of the report area of a package (R484). -/
def State.reportArea (s : State) (pkg : Nat) : Nat := (s.pkg pkg).id * 2 ^ 44 + 0x07F_FFFF_0000

/-- A report before its signature (R484). -/
def State.reportBody (s : State) (pkg : Nat) : List Byte :=
  let p := s.pkg pkg
  s.bytes (s.reportArea pkg) 64 ++ Config.serialNumber pkg ++ toBytes 4 p.svn ++ p.digests.flatten ++ Config.sha3 p.config

/-- REPORT_REQUEST_POLL: the assay core of the current core's package reads REQ, and writes a report for a new sequence
number (R484). -/
def execReportRequestPoll (s : State) : Out :=
  let pkg := corePkg s.cur
  let p := s.pkg pkg
  let a := s.reportArea pkg
  let req := s.num (a + 0x40) 8
  if p.step < 5 || req = 0 || req = p.lastReq then .next s
  else
    let body := s.reportBody pkg
    let sig := Config.mlDsaSign p.idSeed (Config.sha3 body) (ascii "VLN-K48-report") s.free
    let s : State := { s with free := s.free + 1 }
    let s := s.homeBytes none false (a + 0x100) (body ++ sig)
    .next ((s.homeBytes none false (a + 0x48) (toBytes 8 req)).modPkg pkg fun p => { p with lastReq := req })

/-! Firmware update -/

/-- The image that an update names, from HBM (R502). -/
def State.updateImage (s : State) (pkg a len : Nat) : Image :=
  let lo := (s.pkg pkg).id * 2 ^ 44 + a
  (s.mem.filter fun c => lo ≤ c.1 && c.1 < lo + len).map fun c => (c.1 - lo, c.2)

/-- Status of an update (R502 steps 1 and 2). -/
def State.updateStatus (s : State) (pkg a len : Nat) : Nat :=
  let st := authenticate (s.pkg pkg) (s.updateImage pkg a len)
  if st ≠ 0 then st else if 0x400_0000 < len || 0x080_0000_0000 < a + len then 6 else 0

/-- Write the first `n` bytes of an image to a slot of the flash. -/
def Package.writeSlot (p : Package) (slot n : Nat) (img : Image) : Package :=
  let lo := slot * 0x400_0000
  { p with
    flash := (img.filter (·.1 < n)).foldl (fun m c => put m 0 (lo + c.1) c.2)
      (p.flash.filter fun c => !(lo ≤ c.1 && c.1 < lo + n)) }

/-- An update writes an image to slot B, reads it back, and where it reads as it was written writes slot A likewise, up to
`kept` bytes of the two; the status is 7 where a slot reads back otherwise, as the flash may leave it, and slot A is then
not written for a failing slot B (R502 step 3; log 53). -/
def State.flashImage (s : State) (pkg kept : Nat) (img : Image) : State × Nat :=
  let wrong := fun (slot : Nat) => (Config.flashWrong s.free slot).filter fun c => c.1 < 0x400_0000 && c.2 != look img 0 c.1
  let into := fun (p : Package) (slot n : Nat) =>
    p.writeSlot slot n ((wrong slot).foldl (fun m c => put m 0 c.1 c.2) img)
  let s := { s with free := s.free + 1 }.modPkg pkg fun p =>
    let p := into p 1 (min kept 0x400_0000)
    if wrong 1 = [] then into p 0 (min (kept - 0x400_0000) 0x400_0000) else p
  (s, if wrong 1 = [] && wrong 0 = [] then 0 else 7)

/-- Whether an update is due: its address, length and sequence number (R502). -/
def State.updateDue (s : State) (pkg : Nat) : Option (Nat × Nat × Nat) :=
  let a := s.reportArea pkg
  let seq := s.num (a + 0x60) 8
  if (s.pkg pkg).step < 5 || seq = 0 || seq = (s.pkg pkg).lastUpd then none
  else some (s.num (a + 0x50) 8, s.num (a + 0x58) 8, seq)

/-- FIRMWARE_UPDATE: the assay core of the current core's package serves a new update request: slot B is written, then
slot A (R502). -/
def execFirmwareUpdate (s : State) : Out :=
  let pkg := corePkg s.cur
  match s.updateDue pkg with
  | none => .next s
  | some (adr, len, seq) =>
    let a := s.reportArea pkg
    let st := s.updateStatus pkg adr len
    let img := s.updateImage pkg adr len
    let (s, st) := if st = 0 then s.flashImage pkg 0x800_0000 img else (s, st)
    let s := s.homeBytes none false (a + 0x70) (toBytes 8 st)
    .next ((s.homeBytes none false (a + 0x68) (toBytes 8 seq)).modPkg pkg fun p => { p with lastUpd := seq })

/-- POWER_FAILURE: all work of a package stops; where an update is being made, `kept` bytes of its writes to slot B and
then slot A have reached the flash (R502). -/
def execPowerFailure (pkg kept : Nat) (s : State) : Out :=
  let s :=
    match s.updateDue pkg with
    | some (adr, len, _) =>
      if s.updateStatus pkg adr len = 0 then
        (s.flashImage pkg kept (s.updateImage pkg adr len)).1
      else s
    | none => s
  .next (s.resetPackage pkg)

end Sys2Proof.Machine
end

