-- ==== Sys2Proof/Machine/Claims.lean ====
section
/-! DEFINITION. Element spaces, claim sets, claim words and reservations (09, R160 to R173). -/

namespace Sys2Proof.Machine

/-- The dispatcher and the graph controller of a package as requesters: they walk the package's own non-secure tables,
PTROOT0 as its routing purser holds it, and are firmware (R161, R474). -/
def dispatcherOf (pkg : Nat) : Who := ⟨pkg * 2048 + 1536, true, false⟩

/-- Physical address of a G address as the dispatcher or the graph controller translates it, which hold no TLB (R161,
R471); a foreign page is no device memory. -/
def State.servicePa (s : State) (w : Who) (va : Nat) : Except (Nat × Note) Nat :=
  if !canonical va then .error (0x25, .none)
  else
    match s.walk w ((s.core w.core).root false) (va % 2 ^ 57) with
    | .ok l => if l.f then .error (0x20, .none) else .ok (l.pa + (va % 2 ^ 57 - l.base))
    | .error e => .error e

/-- Read an aligned 8-byte word at its home. -/
def State.serviceWord (s : State) (w : Who) (va : Nat) : Except (Nat × Note) Nat :=
  match s.servicePa w va with
  | .ok pa => (s.homeRead w .load pa 8).map ofBytes
  | .error e => .error e

/-! Claim sets -/

/-- A failure to read an adjacency word: status 0x49, with the note it leaves (R161, R477). -/
def unreadable (e : Nat × Note) : Nat × Note := (0x49, e.2)

/-- Add the neighbours of entries `i` on, `n` of them, to a set (R161); none within `ok` once the set passes 65,536
elements (R170). -/
def State.addNeighbours (s : State) (pkg : Nat) (sp : ElemSpace) :
    Nat → Nat → List Nat → Except (Nat × Note) (Option (List Nat))
  | 0, _, set => .ok (some set)
  | n + 1, i, set =>
    match s.serviceWord (dispatcherOf pkg) ((sp.nbrs + 8 * i) % 2 ^ 64) with
    | .error e => .error (unreadable e)
    | .ok e =>
      if sp.nelem ≤ e then .error (0x48, .none)
      else
        let set := addNat set e
        if 65536 < set.length then .ok none else s.addNeighbours pkg sp n (i + 1) set

/-- Add the neighbours of elements to a set. -/
def State.addLists (s : State) (pkg : Nat) (sp : ElemSpace) :
    List Nat → List Nat → Except (Nat × Note) (Option (List Nat))
  | [], set => .ok (some set)
  | e :: r, set =>
    match s.serviceWord (dispatcherOf pkg) ((sp.offs + 8 * e) % 2 ^ 64),
        s.serviceWord (dispatcherOf pkg) ((sp.offs + 8 * e + 8) % 2 ^ 64) with
    | .ok a, .ok b =>
      if b < a then .error (0x48, .none)
      else
        match s.addNeighbours pkg sp (b - a) a set with
        | .ok (some set) => s.addLists pkg sp r set
        | x => x
    | .error e, _ | _, .error e => .error (unreadable e)

/-- The closed r-neighbourhood (R164). -/
def State.neighbourhood (s : State) (pkg : Nat) (sp : ElemSpace) :
    Nat → List Nat → Except (Nat × Note) (Option (List Nat))
  | 0, set => .ok (some set)
  | r + 1, set =>
    match s.addLists pkg sp set set with
    | .ok (some set) => s.neighbourhood pkg sp r set
    | x => x

/-- Package of the slice that holds a task. -/
def Task.pkg (t : Task) : Nat := t.cluster / 32

/-- ClaimSet of a task (R164, R170): empty for a task that claims nothing, none for an exclusive one, or the status of
R161.  The space is that of the package which holds the graph (R163; log 26); the words are reached through the tables of
the task's own package. -/
def State.claimSet (s : State) (t : Task) : Except (Nat × Note) (Option (List Nat)) :=
  match t.elem, t.hdr.space with
  | some e, some i =>
    match find? (s.pkg (graphPkg t.graph)).spaces i with
    | some sp => s.neighbourhood t.pkg sp t.hdr.radius [e]
    | none => .error (0x49, .none)
  | _, _ => .ok (some [])

/-! Claim words -/

/-- Global physical address of the claim word of an element, as a package's dispatcher reaches it: status 0x51 where no
route leads, 0x49 where it does not translate, does not map HBM or vault, or its home does not answer (R161). -/
def State.claimWord (s : State) (pkg : Nat) (sp : ElemSpace) (e : Nat) : Except (Nat × Note) Nat :=
  match s.servicePa (dispatcherOf pkg) ((sp.claim + 2 * e) % 2 ^ 64) with
  | .error e => .error (unreadable e)
  | .ok pa =>
    match region (pa % 2 ^ 44) with
    | .hbm | .vault .. =>
      match s.homeRead (dispatcherOf pkg) .atomic pa 2 with
      | .ok _ => .ok pa
      | .error (st, n) => .error (if st = 0x51 then 0x51 else 0x49, n)
    | _ => .error (0x49, .none)

/-- The claim word of an element for a task. -/
def State.wordOf (s : State) (t : Task) (e : Nat) : Except (Nat × Note) Nat :=
  match t.hdr.space.bind (find? (s.pkg (graphPkg t.graph)).spaces) with
  | some sp => s.claimWord t.pkg sp e
  | none => .error (0x49, .none)

/-- The task's own claim word, which its first hobble must reach (R161, R176): nothing to reach for an unbound task. -/
def State.ownWord (s : State) (t : Task) : Except (Nat × Note) Unit :=
  match t.elem with
  | some e => (s.wordOf t e).map fun _ => ()
  | none => .ok ()

/-- Key of the home slice of a claim word: 256 a package (R168). -/
def State.sliceOf (s : State) (pa : Nat) : Nat := s.ownerOf (pa / 2 ^ 44) * 256 + homeSlice (pa % 2 ^ 44)

/-- Write a claim word at its home. -/
def State.setClaim (s : State) (pa w : Nat) : State := s.homeBytes none false pa (toBytes 2 w)

/-- The task that an entry of a slice's table records. -/
def State.entryTask (s : State) (slice idx : Nat) : Option Nat :=
  (s.resv.find? fun r => r.slice == slice && r.idx == idx).map (·.task)

/-- ClaimAt (R170): one action at the home of the word. -/
def State.claimAt (s : State) (pa task : Nat) : State × Bool :=
  let w := s.num pa 2
  let v := bitOf w 14
  let slice := s.sliceOf pa
  if bitOf w 15 then (s, false)
  else if v && s.entryTask slice (w % 256) ≠ some task then (s, false)
  else
    let s := if v then { s with resv := s.resv.filter fun r => !(r.slice == slice && r.idx == w % 256) } else s
    (s.setClaim pa (if v then 2 ^ 15 + w % 2 ^ 14 / 256 * 256 else 2 ^ 15 + w), true)

/-- A message of a package's dispatcher changes a claim word at its home, which refuses it to the wrong world (R476). -/
def State.changeClaim (s : State) (pkg pa : Nat) (f : Nat → Nat) : State :=
  match s.answer (dispatcherOf pkg) .atomic pa 2 with
  | (0, _) => s.setClaim pa (f (s.num pa 2))
  | (_, n) => s.note n

/-- ReleaseAt (R170). -/
def State.releaseClaim (s : State) (pkg pa : Nat) : State := s.changeClaim pkg pa (· % 2 ^ 15)

/-- The lowest free entry of a slice's table of 256 (R169). -/
def State.freeEntry (s : State) (slice : Nat) : Option Nat :=
  leastFrom (fun i => s.resv.all fun r => !(r.slice == slice && r.idx == i)) 0 256

/-- Reserve (R173): one action at the home of the word. -/
def State.reserve (s : State) (pa id : Nat) (t : Task) : State :=
  let w := s.num pa 2
  let slice := s.sliceOf pa
  if bitOf w 14 then
    match s.entryTask slice (w % 256) with
    | some u =>
      if u ≠ id && ((find? s.tasks u).map t.older).getD true then
        { s with resv := s.resv.map fun r =>
            if r.slice == slice && r.idx == w % 256 then { r with task := id } else r }
      else s
    | none => s
  else
    match s.freeEntry slice with
    | some i =>
      let e : Resv := ⟨slice, i, id, pa⟩
      { s with resv := s.resv ++ [e] }.setClaim pa
        (w / 2 ^ 15 * 2 ^ 15 + 2 ^ 14 + w % 2 ^ 14 / 256 * 256 + i)
    | none => s

/-- A reservation bit and its entry number leave a claim word. -/
def State.clearReserved (s : State) (pkg pa : Nat) : State :=
  s.changeClaim pkg pa fun w => w / 2 ^ 15 * 2 ^ 15 + w % 2 ^ 14 / 256 * 256

/-- Every claim and every reservation of a task is released (R173, R178, R167). -/
def State.dropClaims (s : State) (id : Nat) : State :=
  let held : List (Nat × Nat) := ((find? s.tasks id).map (·.claims)).getD []
  let pkg := ((find? s.tasks id).map Task.pkg).getD 0
  let mine : List Resv := s.resv.filter fun r => r.task == id
  let s : State := held.foldl (fun (s : State) c => s.releaseClaim pkg c.2) s
  let s : State :=
    { s with
      resv := s.resv.filter fun r => r.task != id
      tasks := match find? s.tasks id with
        | some t => insert s.tasks id { t with claims := [] }
        | none => s.tasks }
  mine.foldl (fun (s : State) r => s.clearReserved pkg r.word) s

end Sys2Proof.Machine
end

