-- ==== Sys2Proof/Machine/Sync.lean ====
section
/-! DEFINITION. The event unit, supersteps and message counters (02, R35 to R38; 10, R181 to R191; 16, R331 to R334). -/

namespace Sys2Proof.Machine

/-! Event-unit addresses -/

/-- Fields of an event-unit address (R183). -/
structure EvAddr where
  kind : Nat
  rem  : Bool
  clus : Nat
  idx  : Nat
deriving DecidableEq, Repr

/-- The fields of a register. -/
def evAddr (a : Word) : EvAddr :=
  ⟨a.toNat / 2 ^ 22 % 4, a.getLsbD 21, a.toNat / 2 ^ 16 % 32, a.toNat % 512⟩

/-- Range of an index by kind (R183). -/
def evRange (kind : Nat) : Nat := if kind = 0 then 512 else if kind = 1 then 64 else 256

/-- The checks of R183 for an instruction that accepts some kinds and may act remotely. -/
def evOk (a : Word) (kinds : List Nat) (remOk : Bool) : Bool :=
  let e := evAddr a
  a.toNat / 2 ^ 24 == 0 && a.toNat / 2 ^ 9 % 128 == 0 && has kinds e.kind && e.idx < evRange e.kind &&
    (remOk || !e.rem)

/-- Steps 1 and 2 of R332: the address, then the declared barriers (R144). -/
def evCheck (a : Word) (kinds : List Nat) (remOk : Bool) : M EvAddr := do
  require (evOk a kinds remOk) 0x4D
  let e := evAddr a
  let c ← theCore
  match c.mode, c.task with
  | .task, some t => if e.kind = 0 ∧ t.hdr.bars ≤ e.idx then fault 0x16 else pure ()
  | _, _ => pure ()
  pure e

/-- Key of the cluster whose event unit a core uses; a service core uses that of its DOMREG (R20, R36; log 21). -/
def unitOf (k : Nat) : Nat := if coreNo k < 1536 then coreCluster k else corePkg k * 32 + clusterAt (coreNo k)

/-- Key of the cluster that an address names (R183, R187). -/
def evUnit (k : Nat) (e : EvAddr) : Nat := if e.rem then corePkg k * 32 + e.clus else unitOf k

/-! Barriers -/

/-- An entry of an event unit. -/
def Cluster.entry (u : Cluster) (i : Nat) : BarEntry := look u.entries ⟨0, 0, 0⟩ i

/-- BarArrive at an entry (R184): none for a count mismatch. -/
def Cluster.arrive (u : Cluster) (i cnt : Nat) : Option Cluster :=
  let e := u.entry i
  if e.arr ≠ 0 ∧ cnt ≠ e.exp then none
  else
    let e := if e.arr = 0 then { e with exp := cnt } else e
    let e := if e.arr + 1 = e.exp then { e with arr := 0, gen := e.gen + 1 } else { e with arr := e.arr + 1 }
    some { u with entries := put u.entries ⟨0, 0, 0⟩ i e }

/-- Put a number of a core into a list by core index. -/
def byIndex (x : HarnArrival) : List HarnArrival → List HarnArrival
  | [] => [x]
  | y :: r => if coreIndex x.core < coreIndex y.core then x :: y :: r else y :: byIndex x r

/-- Whether the task of an arrival is suspended, its HARN withdrawn (R224). -/
def State.away (s : State) (h : HarnArrival) : Bool :=
  match h.task with
  | some t =>
    match find? s.tasks t with
    | some x => match x.phase with
      | .suspended .. => true
      | _ => false
    | none => false
  | none => false

/-- Destination of the HARN of a core of some rank in a harness of the cores listed (R223). -/
def harnDest (k rank : Nat) (cores : List Nat) : Word :=
  let memb := cores.foldl (fun x c => x ||| 2 ^ coreIndex c) 0
  let next := coreIndex (cores.getD ((rank + 1) % cores.length) k)
  BitVec.ofNat 64 (next * 2 ^ 52 + rank * 2 ^ 48 + memb)

/-- The HARN of an arrival is granted its destination, as a member of a harness or of none (R223); that of a suspended task
keeps it until the task resumes (R224). -/
def State.grantHarn (s : State) (h : HarnArrival) (m : Option Member) (dest : Word) : State :=
  if s.away h then
    match h.task with
    | some t =>
      match find? s.tasks t with
      | some x => { s with tasks := insert s.tasks t { x with member := m, harn := some dest } }
      | none => s
    | none => s
  else s.modCore h.core fun c => { c with member := m, wait := .harn dest none }

/-- Free context images of a package, those already asked for set aside (R454). -/
def State.freeImages (s : State) (pkg : Nat) : Nat :=
  4096 - (s.pkg pkg).images.length - (s.cores.filter fun c => corePkg c.1 == pkg && c.2.preempt).length

/-- Whether the images and forwarding entries that a suspension needs are there (R454). -/
def State.canSave (s : State) (ks : List Nat) : Bool :=
  ks.length ≤ s.freeImages (corePkg (ks.headD 0)) && ks.all fun k => (s.core k).fwd.length < 16

/-- Of cores that have become one harness, some of them under a pre-emption request, all are requested, since a harness is
pre-empted as a unit (R233); where their contexts cannot be saved, the request is withdrawn (log 47). -/
def State.requestWhole (s : State) (ks : List Nat) : State :=
  if ks.any fun k => (s.core k).preempt then
    let ok := s.canSave (ks.filter fun k => !(s.core k).preempt)
    ks.foldl (fun (s : State) k => s.modCore k fun c => { c with preempt := ok }) s
  else s

/-- A barrier fires: the cores whose HARN arrivals fell in the generation form a harness (R223), lowest core index
first, one alone forms none; with a member suspended, every follower begins detached (R234).  What followers execute
begins where the leader goes on after its HARN (R225). -/
def State.formHarness (s : State) (u entry : Nat) : State :=
  let cl := s.cluster u
  let hs := (cl.harns.filter (·.entry = entry)).foldl (fun l h => byIndex h l) []
  let s := s.setCluster u { cl with harns := cl.harns.filter (·.entry ≠ entry) }
  let cores := hs.map (·.core)
  match hs with
  | [] => s
  | [h] => s.grantHarn h none (harnDest h.core 0 cores)
  | lead :: _ =>
    let whole := hs.all fun h => !s.away h
    let id := s.fresh
    let s := { s with fresh := id + 1, harnesses := insert s.harnesses id ⟨cores, []⟩ }
    let s := hs.zipIdx.foldl
      (fun s h =>
        let m : Member :=
          { harness := id, rank := h.2, attached := whole && h.2 != 0, buf := [], fly := [], last := false
            issued := true, start := lead.next }
        s.grantHarn h.1 (some m) (harnDest h.1.core h.2 cores))
      s
    s.requestWhole ((hs.filter fun h => !s.away h).map (·.core))

/-- Whether an arrival made an entry fire. -/
def fired (before after : Cluster) (i : Nat) : Bool := (before.entry i).gen != (after.entry i).gen

/-- BarArrive at an event unit (R184), with the harness that forms when it fires: none for a count mismatch. -/
def State.barArriveAt (s : State) (u i cnt : Nat) : Option State :=
  let cl := s.cluster u
  (cl.arrive i cnt).map fun cl' =>
    let s := s.setCluster u cl'
    if fired cl cl' i then s.formHarness u i else s

/-- Step 3 of R332. -/
def countCheck (x : Word) : M Nat := do
  require (x.toNat ≠ 0 ∧ x.toNat < 65536) 0x1D
  pure x.toNat

/-- The arrival of BARA and BAR (R184, R185, R187): a local one joins and counts at once, a remote one leaves as a
message for the node's window. -/
def barArrive (rel : Bool) (a : Word) (e : EvAddr) (cnt : Nat) : M Unit := do
  if rel then fenceRel (if e.rem then 3 else 1)
  let s ← theState
  let c := s.me
  let u := evUnit s.cur e
  if e.rem then
    match c.node with
    | some nd =>
      setState (s.modCluster u fun cl => { cl with fly := cl.fly ++ [.arrival s.cur nd e.idx cnt a] })
    | none => pure ()
  else
    let i := c.barbase + e.idx
    let gen := ((s.cluster u).entry i).gen
    match (s.setMe { c with join := insert c.join e.idx gen }).barArriveAt u i cnt with
    | none => faultAfter 0x4A
    | some s => setState s

/-- The wait of BARW, BAR and EVWAIT (R184, R185); the answer is GEN after the wait. -/
def barWait (acq : Bool) (e : EvAddr) : M (BitVec 16) := do
  let s ← theState
  let c := s.me
  let gen := ((s.cluster (unitOf s.cur)).entry (c.barbase + e.idx)).gen
  match find? c.join e.idx with
  | some j =>
    if gen = j then leave
    else modMe fun c => { c with join := erase c.join e.idx }
  | none => pure ()
  if acq then fenceAcq 3
  pure gen

/-- BARA (R184, R331). -/
def execBara (g : Guard) (rel : Bool) (a b : Reg) (s : State) : Out :=
  instr g [a, b] []
    (do
      let x ← rdS a
      let e ← evCheck x [0] true
      let cnt ← countCheck (s.me.regs.rs b)
      barArrive rel x e cnt)
    s

/-- BARW (R184, R331). -/
def execBarw (g : Guard) (acq : Bool) (a : Reg) (s : State) : Out :=
  instr g [a] []
    (do
      let x ← rdS a
      let e ← evCheck x [0] false
      let _ ← barWait acq e)
    s

/-- BAR: BARA, then BARW on the same name (R184); `wait` marks that the arrival is counted (R341). -/
def execBar (g : Guard) (rel acq : Bool) (a b : Reg) (s : State) : Out :=
  instr g [a, b] []
    (do
      let x ← rdS a
      if s.me.wait ≠ .arrived then
        let e ← evCheck x [0] false
        let cnt ← countCheck (s.me.regs.rs b)
        barArrive rel x e cnt
        modMe fun c => { c with wait := .arrived }
      let _ ← barWait acq (evAddr x))
    s

/-! Event lines and mutexes -/

/-- Add 1 to an event line (R189), which then serves the EVWAIT that arrived first. -/
def State.evsig (s : State) (u line : Nat) : State :=
  let cl := s.cluster u
  let n := min 255 (look cl.events 0 line + 1)
  match indexOf? (fun w => w.1 == line) cl.eventWait with
  | some i =>
    let s' := s.setCluster u { cl with events := put cl.events 0 line (n - 1), eventWait := removeAt cl.eventWait i }
    match cl.eventWait[i]? with
    | some w => s'.modCore w.2 fun c => { c with wait := .event (some n) }
    | none => s'
  | none => s.setCluster u { cl with events := put cl.events 0 line n }

/-- EVWAIT (R189). -/
def execEvwait (g : Guard) (acq : Bool) (d a : Reg) (s : State) : Out :=
  instr g [d, a] []
    (do
      let x ← rdS a
      let e ← evCheck x [0, 1, 2] false
      let u := unitOf s.cur
      let acquire := if acq then fenceAcq 3 else pure ()
      if e.kind = 0 then
        let gen ← barWait acq e
        wrS d (gen.setWidth 64)
      else if e.kind = 1 then
        if (find? (s.cluster u).mutexes e.idx).isSome then leave
        wrS d 0
        acquire
      else
        match s.me.wait with
        | .event (some n) => do
          wrS d (BitVec.ofNat 64 n)
          acquire
        | .event none => leave
        | _ =>
          let cl := s.cluster u
          let n := look cl.events 0 e.idx
          if 0 < n then
            setState (s.setCluster u { cl with events := put cl.events 0 e.idx (n - 1) })
            wrS d (BitVec.ofNat 64 n)
            acquire
          else
            setState (s.setCluster u { cl with eventWait := cl.eventWait ++ [(e.idx, s.cur)] })
            waitFor (.event none))
    s

/-- EVSIG (R189); a remote one leaves as a message (R187). -/
def execEvsig (g : Guard) (rel : Bool) (a : Reg) (s : State) : Out :=
  instr g [a] []
    (do
      let x ← rdS a
      let e ← evCheck x [2] true
      if rel then fenceRel (if e.rem then 3 else 1)
      modState fun s =>
        if e.rem then s.modCluster (evUnit s.cur e) fun cl => { cl with fly := cl.fly ++ [.evsig s.cur e.idx] }
        else s.evsig (evUnit s.cur e) e.idx)
    s

/-- MTXL (R188). -/
def execMtxl (g : Guard) (a : Reg) (s : State) : Out :=
  instr g [a] []
    (do
      let x ← rdS a
      let e ← evCheck x [1] false
      let u := unitOf s.cur
      let cl := s.cluster u
      match s.me.wait with
      | .mutex true => fenceAcq 1
      | .mutex false => leave
      | _ =>
        match find? cl.mutexes e.idx with
        | some h =>
          require (h ≠ s.me.ctx) 0x4C
          setState (s.setCluster u { cl with mutexWait := cl.mutexWait ++ [(e.idx, s.cur)] })
          waitFor (.mutex false)
        | none => do
          setState (s.setCluster u { cl with mutexes := insert cl.mutexes e.idx s.me.ctx })
          fenceAcq 1)
    s

/-- A mutex becomes free and goes to the MTXL that arrived first (R188). -/
def State.freeMutex (s : State) (u i : Nat) : State :=
  let cl := s.cluster u
  match indexOf? (fun w => w.1 == i) cl.mutexWait with
  | some j =>
    match cl.mutexWait[j]? with
    | some w =>
      (s.setCluster u { cl with
        mutexes := insert cl.mutexes i (s.core w.2).ctx
        mutexWait := removeAt cl.mutexWait j }).modCore w.2 fun c => { c with wait := .mutex true }
    | none => s
  | none => s.setCluster u { cl with mutexes := erase cl.mutexes i }

/-- MTXU (R188). -/
def execMtxu (g : Guard) (a : Reg) (s : State) : Out :=
  instr g [a] []
    (do
      let x ← rdS a
      let e ← evCheck x [1] false
      let u := unitOf s.cur
      require (find? (s.cluster u).mutexes e.idx = some s.me.ctx) 0x4B
      fenceRel 1
      modState fun s => s.freeMutex u e.idx)
    s

/-! Event messages -/

/-- Whether a node of a launch is running (R148). -/
def State.live (s : State) (nd : NodeKey) : Bool :=
  match find? s.graphs nd.1 with
  | some g =>
    match g.launch with
    | some l => ((find? l.nodes nd.2).map (·.run)) == some .running
    | none => false
  | none => false

/-- The window of a node on a cluster (R181). -/
def Cluster.window (cl : Cluster) (nd : NodeKey) : Option Nat := (cl.windows.find? (·.2 = nd)).map (·.1)

/-- Assign the lowest-numbered free window of 48, its entries cleared (R181). -/
def Cluster.assign (cl : Cluster) (nd : NodeKey) : Option (Cluster × Nat) :=
  (leastFrom (fun w => (find? cl.windows w).isNone) 0 48).map fun w =>
    ({ cl with
        windows := insert cl.windows w nd
        entries := cl.entries.filter fun e => e.1 / 512 ≠ w }, w)

/-- The node's window, assigned if it holds none (R181). -/
def Cluster.ensure (cl : Cluster) (nd : NodeKey) : Option (Cluster × Nat) :=
  match cl.window nd with
  | some w => some (cl, w)
  | none => cl.assign nd

/-- Core that sent a message. -/
def EventMsg.core : EventMsg → Nat
  | .arrival c .. => c
  | .evsig c _ => c

/-- A remote arrival applies to the window of its node (R184, R187): none while no window is free.  A mismatch is
reported with the event-unit address (R451).  The arrival of a node that no longer runs is dropped. -/
def State.remoteArrive (s : State) (u : Nat) (nd : NodeKey) (name cnt : Nat) (addr : Word) : Option State :=
  if !s.live nd then some s
  else
    match (s.cluster u).ensure nd with
    | none => none
    | some (cl, w) =>
      let s := s.setCluster u cl
      match s.barArriveAt u (512 * w + name) cnt with
      | some s => some s
      | none => some (s.report nd 0x4A addr)

/-- Take a message of a kind that may reach the unit next: no earlier message of its core to this unit is under way or
to be sent again (R187).  One that waits at the unit has reached it (log 66). -/
def Cluster.nextMsg (cl : Cluster) (p : EventMsg → Bool) : Option (Nat × EventMsg) :=
  let held := cl.refused.map EventMsg.core
  let ok := fun (x : EventMsg × Nat) =>
    p x.1 && !has held x.1.core && !((cl.fly.take x.2).any fun m => m.core == x.1.core)
  (cl.fly.zipIdx.find? ok).map fun x => (x.2, x.1)

/-- REMOTE_ARRIVAL: a message that waits at the event unit and finds a window applies, else the next one under way
applies, waits among at most 64, or is refused; arrivals of one core apply in issue order (R187). -/
def execRemoteArrival (cluster : Nat) (s : State) : Out :=
  let cl := s.cluster cluster
  let try_ := fun (s : State) (m : EventMsg) =>
    match m with
    | .arrival _ nd name cnt addr => s.remoteArrive cluster nd name cnt addr
    | .evsig .. => none
  let later := fun (l : List EventMsg) (m : EventMsg) => l.any fun x => x.core == m.core
  match cl.waiting.zipIdx.findSome? fun x =>
    if later (cl.waiting.take x.2) x.1 then none else (try_ s x.1).map fun s' => (x.2, s') with
  | some (i, s') =>
    .next (s'.modCluster cluster fun cl => { cl with waiting := removeAt cl.waiting i })
  | none =>
    match cl.nextMsg fun m => match m with
      | .arrival .. => true
      | .evsig .. => false with
    | some (i, m) =>
      let s := s.setCluster cluster { cl with fly := removeAt cl.fly i }
      match if later cl.waiting m then none else try_ s m with
      | some s' => .next s'
      | none =>
        .next (s.modCluster cluster fun cl =>
          if cl.waiting.length < 64 then { cl with waiting := cl.waiting ++ [m] }
          else { cl with refused := cl.refused ++ [m] })
    | none => .next s

/-- REMOTE_EVSIG: a remote EVSIG takes effect at its event line at once, needing no window (R187, R189; log 66). -/
def execRemoteEvsig (cluster : Nat) (s : State) : Out :=
  let cl := s.cluster cluster
  match cl.nextMsg fun m => match m with
    | .arrival .. => false
    | .evsig .. => true with
  | some (i, .evsig _ line) =>
    .next ((s.setCluster cluster { cl with fly := removeAt cl.fly i }).evsig cluster line)
  | _ => .next s

/-- EVENT_MESSAGE_REISSUE: a refused message is sent again (R187). -/
def execEventMessageReissue (cluster : Nat) (s : State) : Out :=
  .next (s.modCluster cluster fun cl =>
    match cl.refused with
    | m :: r => { cl with refused := r, fly := m :: cl.fly }
    | [] => cl)

/-! Supersteps -/

/-- Scope of a domain level (R35). -/
def levelScope (l : Nat) : Nat := if l = 1 then 1 else if l ≤ 3 then 2 else l - 1

/-- DOMREG's fields for levels L to 5 (R36, R37). -/
def domainOf (l : Nat) (r : Word) : Nat :=
  r.toNat / 2 ^ (if l = 1 then 5 else if l = 2 then 10 else if l = 3 then 14 else if l = 4 then 40 else 52)

/-- The DOMREG of an issued task: that of its core, or of the core it left (R37). -/
def State.taskDomain (s : State) (t : Task) : Option Word :=
  match t.phase with
  | .issued k | .suspended k _ _ => some (s.core k).domreg
  | _ => none

/-- The other members of a task's domain at a level (R37). -/
def State.members (s : State) (t : TaskCtx) (l : Nat) (r : Word) : List Nat :=
  (s.tasks.filter fun x =>
    x.2.graph == t.graph && x.2.node == t.node && x.1 != t.id &&
      ((s.taskDomain x.2).map (domainOf l)) == some (domainOf l r)).map (·.1)

/-- The arrival of a task. -/
def State.stepOf (s : State) (id : Nat) : Option StepArrival := s.steps.find? (·.task = id)

/-- SSTEP at a level (R38, R333): release and delivery of the core's messages, arrival, wait for the members of the
domain, acquire. -/
def sstepInstr (l : Nat) : M Unit := do
  let s ← theState
  match s.me.task with
  | none =>
    fenceRel (levelScope l)
    fenceAcq (levelScope l)
  | some t => do
    if (s.stepOf t.id).isNone then
      fenceRel (levelScope l)
      let s ← theState
      if !s.me.journal.isEmpty then leave
      setState { s with steps := s.steps ++ [⟨t.id, l, false⟩] }
    let s ← theState
    let ms := s.members t l s.me.domreg
    let all := ms.all fun m => s.steps.any fun a => a.task == m && a.level == l && !a.done
    let mine := (s.stepOf t.id).map (·.done)
    if mine = some true then
      setState { s with steps := s.steps.filter (·.task ≠ t.id) }
      fenceAcq (levelScope l)
    else if all then
      setState { s with
        steps := (s.steps.filter (·.task ≠ t.id)).map fun a => if has ms a.task then { a with done := true } else a }
      fenceAcq (levelScope l)
    else waitFor .sstep

/-- SSTEP. -/
def execSstep (g : Guard) (level : BitVec 3) (s : State) : Out := instr g [] [] (sstepInstr level.toNat) s

/-! Counters -/

/-- WAITC (R191, R334). -/
def execWaitc (g : Guard) (acq : Bool) (k : BitVec 4) (a : Reg) (imm : BitVec 20) (s : State) : Out :=
  instr g [a] []
    (do
      let t : BitVec 32 := (s.me.regs.rs a + signExt imm).setWidth 32
      if (s.me.regs.rk k.toNat - t).toNat < 2 ^ 31 then
        if acq then fenceAcq 3
      else leave)
    s

/-- CADD (R191, R334). -/
def execCadd (g : Guard) (k : BitVec 4) (a : Reg) (imm : BitVec 20) (s : State) : Out :=
  regInstr g [a] []
    (fun r => r.wk k.toNat (r.rk k.toNat + (r.rs a + signExt imm).setWidth 32)) s

end Sys2Proof.Machine
end

