-- ==== Sys2Proof/Machine/Harness.lean ====
section
/-! DEFINITION. The harness: forming, forwarding, detaching, rejoining (12, R223 to R234; 16, R340). -/

namespace Sys2Proof.Machine

/-- Whether a core's HARN has been granted its destination. -/
def Wait.isHarn : Wait → Bool
  | .harn .. => true
  | _ => false

/-! HARN -/

/-- The checks and the arrival of HARN (R223, R224). -/
def harnArrive (x : Word) (b : Reg) : M Unit := do
  let s ← theState
  let e ← evCheck x [0] false
  require s.me.member.isNone 0x4F
  let cnt := (s.me.regs.rs b).toNat
  require (cnt ≠ 0 ∧ cnt ≤ 16) 0x4E
  fenceRel 1
  let s ← theState
  let e' := (s.cluster (unitOf s.cur)).entry (s.me.barbase + e.idx)
  if e'.arr ≠ 0 ∧ cnt ≠ e'.exp then faultAfter 0x4A
  modState fun s =>
    let u := unitOf s.cur
    s.modCluster u fun cl =>
      { cl with harns := cl.harns ++ [⟨s.me.barbase + e.idx, s.cur, s.me.task.map (·.id), s.me.nextPc⟩] }
  modMe fun c => { c with wait := .arrived }
  barArrive false x e cnt

/-- HARN (R223, R224): checks, a release arrival, the wait until its barrier fires, the destination.  A follower goes on
after the leader's HARN; the leader forwards what it issues next (R225), also where its own arrival made the barrier
fire. -/
def harnInstr (d a b : Reg) : M Unit := do
  let s ← theState
  let x := s.me.regs.rs a
  match s.me.wait with
  | .arrived | .harn .. => pure ()
  | _ => harnArrive x b
  let s ← theState
  match s.me.wait with
  | .harn dest next => do
    modMe fun c => { c with join := erase c.join (evAddr x).idx, regs := c.regs.ws d dest }
    fenceAcq 3
    match s.me.member, next with
    | some m, _ => if m.attached then jump m.start else modMe fun c => { c with member := some { m with issued := false } }
    | none, some a => jump a
    | none, none => pure ()
  | _ => leave

/-- HARN. -/
def execHarn (g : Guard) (d a b : Reg) (s : State) : Out := instr g [d, a, b] [] (harnInstr d a b) s

/-! Members -/

/-- The other members of a core's harness that have not exited and are on their cores. -/
def State.mates (s : State) (k : Nat) : List Nat :=
  match (s.core k).member with
  | some m =>
    match find? s.harnesses m.harness with
    | some h => h.cores.filter fun c => c != k && !h.exited.contains c &&
        ((s.core c).member.map (·.harness)) == some m.harness
    | none => []
  | none => []

/-- Whether a core leads a harness. -/
def Core.leads (c : Core) : Bool := (c.member.map (·.rank)) == some 0

/-- Whether a core is a follower that takes the forwarded stream. -/
def Core.follows (c : Core) : Bool := (c.member.map (·.attached)).getD false

/-- What a core waits for that goes on behind the REJOIN it waits in. -/
def Wait.leftRejoin : Wait → Wait
  | .rejoin .. => .none
  | w => w

/-- Stop taking the forwarded stream: a follower fetches for itself, from the first forwarded instruction it has not
executed, which takes it out of a REJOIN that has been granted, or else from its own next address (R227, R228, R233).  One
that has yet to complete its HARN completes it first. -/
def Core.detach (c : Core) : Core :=
  match c.member with
  | some m =>
    let c := { c with member := some { m with attached := false, buf := [], fly := [], last := false } }
    match m.buf ++ m.fly with
    | f :: _ => if m.attached && !c.wait.isHarn then { c with pc := f.addr, fline := none, wait := c.wait.leftRejoin } else c
    | [] => c
  | none => c

/-- DETACH (R229, R340): a leader's marks its followers, which detach when they reach it. -/
def execDetach (g : Guard) (s : State) : Out :=
  instr g [] []
    (do
      let c ← theCore
      if c.leads then
        modState fun s =>
          (s.mates s.cur).foldl
            (fun s f => s.modCore f fun c =>
              { c with member := c.member.map fun m => if m.attached then { m with last := true } else m }) s
      else if c.follows then
        modMe fun c =>
          { c with member := c.member.map fun m =>
              { m with attached := false, buf := [], fly := [], last := false } })
    s

/-- Whether a follower is sure to stay attached until it has taken what is under way to it (R227). -/
def Member.keepsUp (m : Member) : Bool := m.attached && !m.last && m.buf.length + m.fly.length ≤ 32

/-- Whether a follower waits in a REJOIN at an address. -/
def Core.waitsAt (c : Core) (a : Word) : Bool :=
  match c.wait with
  | .rejoin b false => b == a
  | _ => false

/-- Whether every member of the leader's harness that has not exited is on its core: a suspended follower does not wait in
REJOIN (R230, R234). -/
def State.mustered (s : State) (k : Nat) (m : Member) : Bool :=
  match find? s.harnesses m.harness with
  | some h => h.cores.all fun c => c == k || h.exited.contains c || (s.mates k).contains c
  | none => true

/-- REJOIN (R230, R340): the leader waits until each follower stays attached or waits in the same REJOIN. -/
def rejoinInstr : M Unit := do
  let s ← theState
  let c := s.me
  let a := c.pc
  match c.wait with
  | .rejoin _ true => pure ()
  | _ =>
    match c.member with
    | none => pure ()
    | some m =>
      if m.attached then pure ()
      else if m.rank = 0 then
        let fs := s.mates s.cur
        let waits := fun f => (s.core f).waitsAt a
        let ok := fs.all fun f => waits f || ((s.core f).member.map Member.keepsUp).getD false
        if ok && s.mustered s.cur m then
          setState ((fs.filter waits).foldl
            (fun s f => s.modCore f fun c =>
              { c with
                wait := .rejoin a true
                member := c.member.map fun m => { m with attached := true, buf := [], fly := [], last := false } })
            s)
        else leave
      else waitFor (.rejoin a false)

/-- REJOIN. -/
def execRejoin (g : Guard) (s : State) : Out := instr g [] [] rejoinInstr s

/-! The forwarding network -/

/-- HARNESS_FORWARD: the oldest instruction under way to the current core enters its buffer of 32 heads.  Where the buffer
is full, that instruction and every later one are discarded, and a mark behind the 32 heads says where the core, once it
has executed them, fetches for itself (R225, R227). -/
def execHarnessForward (s : State) : Out :=
  match s.me.member with
  | some m =>
    match m.fly with
    | f :: r =>
      if m.buf.length < 32 then
        .next (s.setMe { s.me with member := some { m with buf := m.buf ++ [f], fly := r } })
      else .next (s.setMe { s.me with member := some { m with buf := m.buf ++ [{ f with det := true }], fly := [], last := true } })
    | [] => .next s
  | none => .next s

/-- Control instructions whose target may differ between members (R228). -/
def branches : Instr → Bool
  | .br .. | .jmp .. | .call .. | .calli .. | .ret .. | .loop .. => true
  | _ => false

/-- Whether an instruction is a DETACH whose guard is true. -/
def isDetach (r : Regs) : Instr → Bool
  | .detach g => r.guard g
  | _ => false

/-- What a leader issues is forwarded to every attached follower (R225). -/
def State.forward (s : State) (k : Nat) (f : Forwarded) : State :=
  (s.mates k).foldl
    (fun s c => s.modCore c fun c =>
      { c with member := c.member.map fun m =>
          if m.attached && !m.last then { m with fly := m.fly ++ [f] } else m }) s

/-- A member of a dissolved harness goes on unharnessed from its own next address: out of its REJOIN, or from its HARN, once
that completes, to what the leader executed after it (R231). -/
def Core.unharness (c : Core) : Core :=
  let start := c.member.bind fun m => if m.attached then some m.start else none
  { c.detach with
    member := none
    wait := match c.detach.wait with
      | .rejoin a _ => .rejoin a true
      | .harn dest _ => .harn dest start
      | w => w }

/-- The leader's EXIT dissolves the harness (R231), for its suspended members too. -/
def State.dissolve (s : State) (k : Nat) : State :=
  match (s.core k).member with
  | some m =>
    let s := (s.mates k).foldl (fun s c => s.modCore c Core.unharness) s
    { s.modCore k (fun c => { c with member := none }) with
      harnesses := erase s.harnesses m.harness
      tasks := s.tasks.map fun t =>
        if (t.2.member.map (·.harness)) = some m.harness then (t.1, { t.2 with member := none }) else t }
  | none => s

/-- A follower that exits leaves the harness (R231). -/
def State.leaveHarness (s : State) (k : Nat) : State :=
  match (s.core k).member with
  | some m =>
    match find? s.harnesses m.harness with
    | some h =>
      { s.modCore k (fun c => { c with member := none }) with
        harnesses := insert s.harnesses m.harness { h with exited := addNat h.exited k } }
    | none => s.modCore k fun c => { c with member := none }
  | none => s

end Sys2Proof.Machine
end

