-- ==== Sys2Proof/Machine/Graph.lean ====
section
/-! DEFINITION. Graphs in a launch: readiness, grids, node boundaries, control nodes, and the end of a grid (08, R146 to
R154; 09, R163, R176, R178; 22, R461). -/

namespace Sys2Proof.Machine

/-! A task leaves -/

/-- Free the slots that a context owns on a core (R87, R461). -/
def Engine.freeCtx (e : Engine) (ctx : Nat) : Engine :=
  { e with acc := e.acc.filter (·.2.owner ≠ ctx), bslots := e.bslots.filter (·.2.owner ≠ ctx) }

/-- Free every mutex that a context holds in a package (R188). -/
def State.freeMutexes (s : State) (pkg ctx : Nat) : State :=
  s.clusters.foldl
    (fun (s : State) u =>
      if u.1 / 32 = pkg then
        u.2.mutexes.foldl (fun (s : State) m => if m.2 = ctx then s.freeMutex u.1 m.1 else s) s
      else s)
    s

/-- What the package holds for a task leaves with it: claims and reservations, slots, mutexes, image, forwarding
entries, rings, its phase of a superstep, its context identifier (R167, R188, R444, R459, R461). -/
def State.freeTask (s : State) (id : Nat) : State :=
  match find? s.tasks id with
  | none => s
  | some t =>
    let s := s.dropClaims id
    let s := s.freeMutexes t.pkg t.ctxid
    { s with
      cores := s.cores.map fun c =>
        if corePkg c.1 = t.pkg then
          (c.1, { c.2 with eng := c.2.eng.freeCtx t.ctxid, fwd := c.2.fwd.filter (·.task ≠ id) })
        else c
      clusters := s.clusters.map fun u => (u.1, { u.2 with harns := u.2.harns.filter (·.task ≠ some id) })
      rings := s.rings.filter (·.task ≠ id)
      steps := s.steps.filter (·.task ≠ id)
      tasks := erase s.tasks id
      pkgs := insert s.pkgs t.pkg
        { s.pkg t.pkg with
          images := match t.image with
            | some i => delNat (s.pkg t.pkg).images i
            | none => (s.pkg t.pkg).images
          ctxids := delNat (s.pkg t.pkg).ctxids t.ctxid } }

/-- A core whose task has left: it holds nothing of it and is free (R154, R309, R461). -/
def Core.vacate (c : Core) : Core :=
  { c with
    run := if c.run = .halted then .halted else .idle
    mode := .handler
    task := none
    wait := .none
    fline := none
    asyncTrap := none
    laterTraps := 0
    trapped := false
    dropped := []
    preempt := false
    due := .no
    stopped := false
    member := none
    rasD := 0
    ras := []
    join := []
    eng := { c.eng with
      handles := []
      bspilled := []
      mat := c.eng.mat.filter (·.ctx ≠ c.ctx)
      cpy := c.eng.cpy.filter (·.ctx ≠ c.ctx)
      matStop := false
      cpyStop := false
      held := []
      reserved := 0 } }

/-! Edges and readiness -/

/-- Number of the last node of a loop's body. -/
def NodeKind.bodyEnd : NodeKind → Option Nat
  | .loop _ _ e _ => some e
  | _ => none

/-- Whether a node runs tasks. -/
def NodeKind.isGrid : NodeKind → Bool
  | .kernel .. | .gang .. => true
  | _ => false

/-- State of an edge (R148, R149). -/
inductive EdgeState where
  | pending | followed | dropped
deriving DecidableEq, Repr

/-- Progress of node `i` in a launch. -/
def Launch.at_ (l : Launch) (i : Nat) : NodeSt := (find? l.nodes i).getD .idle

/-- State of an edge that leaves a node with a label: a loop between its passes has its body's edge followed. -/
def edgeState (st : NodeSt) (label : Nat) : EdgeState :=
  match st.run with
  | .skipped => .dropped
  | .done => if has st.taken label then .followed else .dropped
  | .running => if label = 1 && has st.taken 1 then .followed else .pending
  | _ => .pending

/-- Edges into a node, its back edge set aside: source and label (R148). -/
def Graph.incoming (g : Graph) (t : Nat) : List (Nat × Nat) :=
  let back := (g.nodes[t]?).bind fun n => n.kind.bodyEnd
  g.nodes.zipIdx.flatMap fun n =>
    if back = some n.2 then [] else (n.1.edges.filter (·.1 = t)).map fun e => (n.2, e.2)

/-- What becomes of a node that has not been reached: nothing yet, skipped, or ready (R148). -/
def Graph.verdict (g : Graph) (l : Launch) (t : Nat) : Option NodeRun :=
  let es := (g.incoming t).map fun e => edgeState (l.at_ e.1) e.2
  if es.any (· == .pending) then none
  else if !es.isEmpty && es.all (· == .dropped) then some .skipped
  else some .ready

/-- Element spaces that a node's kernels name. -/
def Node.spaces (n : Node) : List Nat :=
  match n.kind with
  | .kernel h _ _ => h.space.toList
  | .gang hs _ _ => hs.filterMap (·.space)
  | _ => []

/-- Whether a node of the launch bound to one of these spaces is running (R163). -/
def Graph.spaceBusy (g : Graph) (l : Launch) (t : Nat) (spaces : List Nat) : Bool :=
  g.nodes.zipIdx.any fun n =>
    n.2 != t && (l.at_ n.2).run == .running && n.1.spaces.any (has spaces)

/-- The sink (R146). -/
def Graph.sink (g : Graph) : Nat := (indexOf? (fun n => n.edges.isEmpty) g.nodes).getD 0

/-! Grids -/

/-- Cluster that an initial bound task goes to, with what a walk that is refused leaves in a log (R176, R477). -/
def State.homeCluster (s : State) (pkg : Nat) (sp : ElemSpace) (e i : Nat) : Nat × Note :=
  match s.servicePa (dispatcherOf pkg) ((sp.claim + 2 * e) % 2 ^ 64) with
  | .error x => (pkg * 32 + i % 32, x.2)
  | .ok pa =>
    match region (pa % 2 ^ 44) with
    | .hbm | .vault .. => (s.ownerOf (pa / 2 ^ 44) * 32 + homeSlice (pa % 2 ^ 44) / 8, .none)
    | _ => (pkg * 32 + i % 32, .none)

/-- Queue initial tasks `i` on, `n` of them, of a kernel: bound to elements from `first` on, or unbound (R151, R176).  A
task that finds its ready queue full waits in the overflow area. -/
def State.queueInitial (s : State) (k : NodeKey) (h : Header) (role stamp : Nat) (sp : Option ElemSpace) (first : Nat) :
    Nat → Nat → State
  | 0, _ => s
  | n + 1, i =>
    let pkg := graphPkg k.1
    let (cl, note) := match sp with
      | some x => s.homeCluster pkg x (first + i) i
      | none => (pkg * 32 + i % 32, .none)
    ((s.note note).addTask k h role (sp.map fun _ => first + i) i stamp cl (s.queueFull cl)).queueInitial k h role stamp sp first n
      (i + 1)

/-- The grid of a kernel or gang node starts (R147, R151, R155): its initial tasks are queued, with the cycle count of the
launching package as their stamp, also where they are placed in another (R169; log 68). -/
def State.startGrid (s : State) (k : NodeKey) (n : Node) : State :=
  let pkg := graphPkg k.1
  let stamp := s.cycle pkg
  match n.kind with
  | .kernel h first count =>
    let sp := h.space.bind (find? (s.pkg pkg).spaces)
    let s := s.modNodeSt k fun st => { st with run := .running, nextId := put [] 0 0 count, ran := [], taken := [] }
    s.queueInitial k h 0 stamp sp first count 0
  | .gang hs counts _ =>
    let ids := counts.zipIdx.foldl (fun m c => put m 0 (c.2 + 1) c.1) []
    let s := s.modNodeSt k fun st => { st with run := .running, nextId := ids, ran := [], taken := [] }
    (hs.zip counts).zipIdx.foldl
      (fun (s : State) m => s.queueInitial k m.1.1 (m.2 + 1) stamp none 0 m.1.2 0) s
  | _ => s

/-! Node boundaries -/

/-- Scope of a graph's node boundaries (R154, R438). -/
def Graph.scope (g : Graph) : Nat := if g.pkgs.length ≤ 1 then 3 else 4

/-- The boundary on one core (R154): after a release, its lines of both kinds, its shape records and its instruction
lines are invalidated. -/
def State.boundaryOn (s : State) (k : Nat) : State :=
  (s.invalidate k fun _ => true).modCore k fun c => { c with icache := [], eng := { c.eng with shapes := [] } }

/-- The windows of a node are freed on every cluster (R181). -/
def State.freeWindows (s : State) (k : NodeKey) : State :=
  { s with clusters := s.clusters.map fun u => (u.1, { u.2 with windows := u.2.windows.filter (·.2 ≠ k) }) }

/-- A running grid without tasks completes once the cores that ran it have made the release of the boundary (R151,
R154): none while one has not. -/
def State.finishGrid (s : State) (g : Graph) (k : NodeKey) : Option State :=
  if !(s.tasksOf k).isEmpty then none
  else
    let ran := (s.nodeSt k).ran
    let s := ran.foldl (fun (s : State) c => s.drain c) s
    if ran.all fun c => s.released c g.scope then
      let s := ran.foldl (fun (s : State) c => s.boundaryOn c) s
      some ((s.freeWindows k).modNodeSt k fun st => { st with run := .done, taken := [0] })
    else none

/-! The course of a launch -/

/-- One change at a node: it becomes ready or is skipped, its grid starts, or its grid completes (R148, R151, R152).  After a
fault a node that is ready and has not started does not start (log 68). -/
def State.stepNode (s : State) (key : Nat) (g : Graph) (l : Launch) (t : Nat) (n : Node) : Option State :=
  match (l.at_ t).run with
  | .idle =>
    if l.faulted then none
    else (g.verdict l t).map fun r => s.modNodeSt (key, t) fun st => { st with run := r }
  | .ready =>
    if l.faulted || !n.kind.isGrid || g.spaceBusy l t n.spaces then none else some (s.startGrid (key, t) n)
  | .running => if n.kind.isGrid then s.finishGrid g (key, t) else none
  | _ => none

/-- The changes a launch can make, lowest node first, at most `n` of them. -/
def State.advance (s : State) (key : Nat) : Nat → State
  | 0 => s
  | n + 1 =>
    match find? s.graphs key with
    | none => s
    | some g =>
      match g.launch with
      | none => s
      | some l =>
        match g.nodes.zipIdx.findSome? fun x => s.stepNode key g l x.2 x.1 with
        | some s' => s'.advance key n
        | none => s

/-- Whether nothing of a launch runs (R152). -/
def State.quiet (s : State) (key : Nat) (g : Graph) (l : Launch) : Bool :=
  (s.tasks.all fun t => t.2.graph ≠ key) &&
    g.nodes.zipIdx.all fun n => !(n.1.kind.isGrid && (l.at_ n.2).run == .running)

/-- A launch ends when its sink has completed or is skipped, or when after a fault nothing of it runs: the controller
forms the record (R148, R152, R153). -/
def State.endLaunch (s : State) (key : Nat) : State :=
  match find? s.graphs key with
  | none => s
  | some g =>
    match g.launch with
    | none => s
    | some l =>
      let sink := (l.at_ g.sink).run
      let ovr := if l.faulted then s.quiet key g l else sink == .done || sink == .skipped
      if l.stage = .running && ovr then
        let pkg := graphPkg key
        s.modLaunch key fun l => { l with stage := .formed ((s.cycle pkg + 2 ^ 64 - l.start) % 2 ^ 64) }
      else s

/-- Before the first node of a launch is ready, TLBINV is written at package scope in every package of the graph (R473), and
the instruction caches of their compute cores are invalidated (R415). -/
def State.launchTlb (s : State) (g : Graph) : State :=
  g.pkgs.foldl
    (fun (s : State) id =>
      let o := s.ownerOf id
      let s := s.tlbClear (o * 2048) 3
      { s with cores := s.cores.map fun c =>
          if corePkg c.1 = o && coreNo c.1 < 1536 then (c.1, { c.2 with icache := [] }) else c }) s

/-- A launch that has begun runs once nothing that translated before is outstanding in its packages (R473); its cycles count
from now, when its first node becomes ready (R153). -/
def State.startLaunch (s : State) (key : Nat) : State :=
  match find? s.graphs key, s.launchOf key with
  | some g, some l =>
    if l.stage = .starting && !g.pkgs.any fun id => s.tlbBusy (s.ownerOf id * 2048) 3 then
      (s.launchTlb g).modLaunch key fun l => { l with stage := .running, start := s.cycle (graphPkg key) }
    else s
  | _, _ => s

/-- The graph controller takes a launch as far as it goes. -/
def State.settle (s : State) (key : Nat) : State :=
  let n := ((find? s.graphs key).map fun g => g.nodes.length).getD 0
  let s := s.startLaunch key
  if ((s.launchOf key).map (·.stage)) = some .running then (s.advance key (3 * n + 1)).endLaunch key else s

/-- The next pending launch of a graph begins when none is under way (R440). -/
def State.beginLaunch (s : State) (key : Nat) : State :=
  match find? s.graphs key with
  | none => s
  | some g =>
    if g.launch.isNone && 0 < g.pending then
      let l : Launch :=
        { num := g.nextLaunch, nodes := [], tasks := 0, start := s.cycle (graphPkg key), stage := .starting
          faulted := false }
      let g' := { g with launch := some l, nextLaunch := g.nextLaunch + 1, pending := g.pending - 1 }
      let s : State := { s with graphs := insert s.graphs key g' }
      s.settle key
    else s

/-! Control nodes -/

/-- A control node completes, taking the edges of a label (R147, R148). -/
def State.takeEdges (s : State) (k : NodeKey) (label status : Nat) : State :=
  s.modNodeSt k fun st => { st with run := .done, taken := addNat st.taken label, status := status }

/-- A pass of a loop begins: every body node is reset, and the passes of the launch are counted (R149, R441). -/
def State.beginPass (s : State) (k : NodeKey) (first last : Nat) : State :=
  let reset := fun (st : NodeSt) => { NodeSt.idle with passes := st.passes }
  let s := (upFrom first (last + 1 - first)).foldl (fun (s : State) i => s.modNodeSt (k.1, i) reset) s
  s.modNodeSt k fun st => { st with run := .running, taken := [1], passes := min 0xFFFF (st.passes + 1) }

/-- Whether a control node is to read its word: it is ready, or a pass of the loop has ended (R147, R149). -/
def controlDue (l : Launch) (t : Nat) (n : Node) : Bool :=
  match (l.at_ t).run with
  | .ready => true
  | .running =>
    match n.kind.bodyEnd with
    | some e => (l.at_ e).run == .done || (l.at_ e).run == .skipped
    | none => false
  | _ => false

/-- The controller reads a control word at its home, and the node acts on it (R147, R149, R150). -/
def State.evalControl (s : State) (k : NodeKey) (n : Node) : State :=
  let read := fun (a : Nat) (f : Nat → State) =>
    match s.serviceWord (dispatcherOf (graphPkg k.1)) a with
    | .ok w => f w
    | .error (_, n) => (s.note n).report k 0x44 (BitVec.ofNat 64 a)
  match n.kind with
  | .cond a => read a.toNat fun w => s.takeEdges k (if w ≠ 0 then 1 else 0) 0
  | .switch a n => read a.toNat fun w => s.takeEdges k (min w (n - 1)) 0
  | .loop a first last cap =>
    read a.toNat fun w =>
      if w = 0 then s.takeEdges k 0 0
      else if cap ≠ 0 && cap ≤ (s.nodeSt k).passes then s.takeEdges k 0 0x43
      else s.beginPass k first last
  | _ => s

/-- CONTROL_NODE_EVAL: a control node that is due is evaluated (R147); the graph controller then takes the launch on,
also where the node is a grid whose boundary was waited for (R154). -/
def execControlNodeEval (graph node : Nat) (s : State) : Out :=
  match s.launchOf graph, s.node (graph, node) with
  | some l, some n =>
    if !n.kind.isGrid && !l.faulted && l.stage = .running && controlDue l node n then
      .next ((s.evalControl (graph, node) n).settle graph)
    else .next (s.settle graph)
  | _, _ => .next s

/-! The end of a grid -/

/-- Key of the core that a task has issued on. -/
def Task.core (t : Task) : Option Nat :=
  match t.phase with
  | .issued k => some k
  | _ => none

/-- The stop of an ended grid, whose STATUS is that of the node, reaches a core once: it is recorded, or counted where a
cause is recorded already (R178 step 1, R446). -/
def State.stopCause (s : State) (status k : Nat) : State :=
  if (s.core k).stopped then s
  else (s.modCore k fun c => { c with stopped := true }).asyncCause k { status := status, source := 3 }

/-- The core of an ended grid stops at its next instruction boundary, where it takes the cause recorded (R178 step 1,
R446), or the stop where its task had taken a cause before and went on; its buffer drains. -/
def State.stopCore (s : State) (status k : Nat) : State :=
  let s :=
    if (s.core k).mode = .task then
      let s := (s.stopCause status k).modCore k fun c =>
        { c.detach with asyncTrap := c.asyncTrap.or (some { status := status, source := 3 }) }
      s.takeAsync k
    else s
  s.drain k

/-- Whether a core has stopped with nothing under way: its loads are performed, its buffer has drained, its posted stores
are performed or refused, and its running commands have ended (R178 step 2, R461). -/
def Core.still (c : Core) : Bool :=
  decide (c.mode = .handler) && c.loads.isEmpty && c.drained && c.journal.isEmpty && !c.eng.cpy.any (·.begun)

/-- The suspended tasks of an ended grid are discarded: accesses that waited for them are refused as for a missing entry
(R178 step 1, R461). -/
def State.discardSuspended (s : State) (k : NodeKey) : State :=
  let gone := ((s.tasksOf k).filter fun t => !t.2.phase.waits && t.2.core.isNone).map (·.1)
  { s with cores := s.cores.map fun c => (c.1, { c.2 with fwd := c.2.fwd.filter fun e => !has gone e.task }) }

/-- What a media queue holds of a context is removed (R394, R461). -/
def Die.dropCtx (d : Die) (pkg die ctx : Nat) : Die :=
  if die / 4 = pkg then { d with med := d.med.filter (·.ctx ≠ ctx), medStop := delNat d.medStop ctx } else d

/-- Steps 3 of R178 and R461 for one task of an ended grid. -/
def State.endTask (s : State) (x : Nat × Task) : State :=
  let t := x.2
  let s : State := { s with dies := s.dies.map fun d => (d.1, d.2.dropCtx t.pkg d.1 t.ctxid) }
  let harness := match t.core with
    | some k => (s.core k).member.map (·.harness)
    | none => t.member.map (·.harness)
  let s : State := { s with harnesses := match harness with
    | some h => erase s.harnesses h
    | none => s.harnesses }
  let s := match t.core with
    | some k => s.modCore k Core.vacate
    | none => s
  (s.freeTask x.1).refill t.cluster

/-- GRID_END: the grid of a node that has faulted ends on every package (R178, R461): its cores stop, its suspended tasks
are discarded, and once the cores are still everything it held is freed and the launch proceeds as R152 states. -/
def execGridEnd (graph node : Nat) (s : State) : Out :=
  let k := (graph, node)
  let st := s.nodeSt k
  if st.run ≠ .faulted then .next s
  else
    let cores := (s.tasksOf k).filterMap fun t => t.2.core
    let s := s.discardSuspended k
    let s := cores.foldl (fun (s : State) c => s.stopCore st.status c) s
    if cores.all fun c => (s.core c).still then
      let s := (s.tasksOf k).foldl State.endTask s
      .next ((s.freeWindows k).settle graph)
    else .next s

end Sys2Proof.Machine
end

