-- ==== Sys2Proof/Machine/Dispatcher.lean ====
section
/-! DEFINITION. The dispatcher: EXIT and retirement, hobbling, claims and reservations, issue, gangs, balance and
pre-emption requests (08, R143, R154 to R159; 09, R164 to R179; 10, R181; 15, R309; 22, R444, R448, R449, R454). -/

namespace Sys2Proof.Machine

/-! Retirement -/

/-- Whether every command that a task pushed has ended (R154, R115): those of its core's queues, and those of its
context in the media queues of the package. -/
def State.commandsEnded (s : State) (k : Nat) : Bool :=
  let c := s.core k
  c.eng.mat.isEmpty && c.eng.cpy.isEmpty &&
    s.dies.all fun d => !(d.1 / 4 == corePkg k && d.2.med.any fun m => m.ctx == c.ctx)

/-- The conditions of R154 and R309; a refusal or an engine's trap that has reached the core keeps the task from
retiring. -/
def State.mayRetire (s : State) (k : Nat) : Bool :=
  let c := s.core k
  s.commandsEnded k && c.journal.isEmpty && c.drained && c.asyncTrap.isNone

/-- Whether the receiving instance abandons a pipe: messages are left in its rings, or the pipe is open (R157). -/
def State.abandons (s : State) (t : TaskCtx) : Bool :=
  match s.node (t.graph, t.node) with
  | some n =>
    n.pipes.any fun d =>
      d.dst == t.role &&
        (!s.pipeClosed (t.graph, t.node) d || 0 < (s.ring t.id d.num).count || !(s.ring t.id d.num).ovr.isEmpty ||
          0 < (s.ring t.id d.num).fly)
  | none => false

/-- The harness side of an EXIT (R231). -/
def State.exitHarness (s : State) (k : Nat) : State := if (s.core k).leads then s.dissolve k else s.leaveHarness k

/-- The exclusive task that holds the stop of a node has exited: the oldest other one that waits holds it, or new issues
resume (R172). -/
def State.endStop (s : State) (k : NodeKey) (id : Nat) : State :=
  let ts := (s.tasksOf k).filter fun t => t.1 != id && decide (t.2.phase = .exclusive)
  let next := match ts with
    | [] => none
    | t :: r => some (r.foldl (fun a b => if b.2.older a.2 then b else a) t).1
  s.modNodeSt k fun st => { st with stopFor := if st.stopFor = some id then next else st.stopFor }

/-- A task retires: what it held is freed, its core is free, and the launch goes on (R154, R87, R188, R309); an abandoned
pipe ends the grid instead (R157). -/
def State.retire (s : State) (k : Nat) : State :=
  match (s.core k).task with
  | none => s
  | some t =>
    if s.abandons t then s.report (t.graph, t.node) 0x45 t.taskid
    else
      let s := (s.exitHarness k).modCore k Core.vacate
      let s := s.freeTask t.id
      let s := s.endStop (t.graph, t.node) t.id
      (s.modLaunch t.graph fun l => { l with tasks := min 0xFFFF_FFFF (l.tasks + 1) }).settle t.graph

/-- EXIT (R309). -/
def exitInstr : M Unit := do
  let c ← theCore
  require (c.mode = .task) 0x1B
  modState fun s => s.drain s.cur
  let s ← theState
  if s.mayRetire s.cur then
    setState (s.retire s.cur)
    leave
  else waitFor .exit

/-- EXIT. -/
def execExit (g : Guard) (s : State) : Out := instr g [] [] exitInstr s

/-- TASK_RETIRE: a task that waits at its EXIT retires once its conditions hold (R154). -/
def execTaskRetire (core : Nat) (s : State) : Out :=
  if (s.core core).wait = .exit then
    let s := s.drain core
    .next (if s.mayRetire core then s.retire core else s)
  else .next s

/-! Eligibility and order -/

/-- Whether a node's kernels declare barriers (R181). -/
def Node.hasBars (n : Node) : Bool :=
  match n.kind with
  | .kernel h _ _ => 0 < h.bars
  | .gang hs _ _ => hs.any (0 < ·.bars)
  | _ => false

/-- Whether a task of a node may be taken up on a cluster: its node runs, and the window it needs is held or free there
(R175, R178, R181). -/
def State.admits (s : State) (k : NodeKey) (cl : Nat) : Bool :=
  s.live k &&
    match s.node k with
    | some n => !n.hasBars || ((s.cluster cl).ensure k).isSome
    | none => false

/-- Whether an exclusive task stops the new issues of its node, other than its own (R172). -/
def State.stopped (s : State) (k : NodeKey) (id : Nat) : Bool := (s.nodeSt k).stopFor.any (· != id)

/-- Assign a node's window on a cluster if it declares barriers (R181). -/
def State.ensureWindow (s : State) (k : NodeKey) (cl : Nat) : State :=
  match s.node k with
  | some n =>
    if n.hasBars then
      match (s.cluster cl).ensure k with
      | some (u, _) => s.setCluster cl u
      | none => s
    else s
  | none => s

/-- Key of a task's node. -/
def Task.key (t : Task) : NodeKey := (t.graph, t.node)

/-- Whether a gang's instances have been issued, so that its posted tasks go one by one, while no member is suspended or
asked to be: a gang is pre-empted and resumes whole, and nothing of it is issued meanwhile (R155; log 69). -/
def State.gangDone (s : State) (t : Task) : Bool :=
  t.role = 0 || ((s.nodeSt t.key).ran ≠ [] && (s.tasksOf t.key).all fun u =>
    u.2.phase.waits || u.2.core.any fun k => !(s.core k).preempt)

/-- A free compute core (R143, R452). -/
def State.freeCore (s : State) (k : Nat) : Bool :=
  let c := s.core k
  decide (c.run = .idle) && c.service && c.task.isNone

/-- Lowest free core of a cluster (R175). -/
def State.lowestFree (s : State) (cl : Nat) : Option Nat := leastFrom s.freeCore (cl / 32 * 2048 + cl % 32 * 48) 48

/-- Whether a cluster lies within a task's declared scope of another (R159, R177). -/
def Header.covers (h : Header) (a b : Nat) : Bool :=
  match h.scope with
  | 1 => a == b
  | 2 => a / 8 == b / 8
  | _ => a / 32 == b / 32

/-- Cluster to which a suspended task is bound by a Join of its image or a mutex it holds (R186, R188, R460): the one it
left. -/
def State.bound (s : State) (t : Task) (core image : Nat) : Bool :=
  let a := s.imageAt t.pkg image
  (upFrom 0 512).any (fun n => bitOf (s.num (a + 0x2C00 + 4 * n) 4) 16) ||
    (s.cluster (coreCluster core)).mutexes.any fun m => m.2 == t.ctxid

/-- Whether a suspended task may resume on a core (R158, R460, R234): within its scope, on the cluster it is bound to, and
on the core it left if harnessed.  A stop of its node's new issues does not hold it (R172). -/
def State.mayResume (s : State) (t : Task) (k : Nat) : Bool :=
  match t.phase with
  | .suspended old image _ =>
    t.hdr.covers (coreCluster old) (coreCluster k) && coreNo k < 1536 && corePkg k == t.pkg &&
      (coreCluster k == coreCluster old || !s.bound t old image) &&
      (t.member.isNone || k == old) && s.admits t.key (coreCluster k)
  | _ => false

/-- The harness that a task belongs to, on its core or suspended (R233). -/
def State.harnessOf (s : State) (t : Task) : Option Nat :=
  match t.core with
  | some k => (s.core k).member.map (·.harness)
  | none => t.member.map (·.harness)

/-- The other tasks that resume only together with one: the members of its harness, or the issued ones of its gang (R155,
R234). -/
def State.together (s : State) (id : Nat) (t : Task) : List (Nat × Task) :=
  s.tasks.filter fun u =>
    u.1 != id && !u.2.phase.waits &&
      ((t.role ≠ 0 && u.2.key == t.key) || (t.member.isSome && s.harnessOf u.2 == s.harnessOf t))

/-- The suspended tasks among those that resume with one. -/
def State.resumeWith (s : State) (id : Nat) (t : Task) : List (Nat × Task) := (s.together id t).filter (·.2.core.isNone)

/-- Whether a suspended task and all that resume with it can resume as a whole: none of them is still to be suspended (R155,
R234).  A task whose HARN was counted while it was suspended joins a harness that was not pre-empted (R224; log 47). -/
def State.whole (s : State) (id : Nat) (t : Task) : Bool :=
  t.core.isNone && (s.together id t).all fun u => u.2.core.all fun k => !(s.core k).preempt

/-- The task by which a suspended unit, those that resume together, is compared with others: the one with the lowest key
(log 46). -/
def State.lead (s : State) (id : Nat) (t : Task) : Task :=
  match s.resumeWith id t with
  | u :: _ => if u.1 < id then u.2 else t
  | [] => t

/-- The core that a suspended task resumes on where some are taken already: the one it left if it is free, else the lowest
free one that it may take. -/
def State.placeFor (s : State) (used : List Nat) (t : Task) : Option Nat :=
  let free := fun (k : Nat) => !has used k && s.freeCore k && s.mayResume t k
  match t.phase with
  | .suspended old _ _ => if free old then some old else leastFrom free (t.pkg * 2048) 1536
  | _ => none

/-- Cores for suspended tasks, each its own: none where one finds none. -/
def State.places (s : State) : List Nat → List (Nat × Task) → Option (List (Nat × Nat))
  | _, [] => some []
  | used, u :: r =>
    match s.placeFor used u.2 with
    | some k => (s.places (k :: used) r).map ((u.1, k) :: ·)
    | none => none

/-- Whether a suspended task, with those that resume together with it, can resume now. -/
def State.canResume (s : State) (id : Nat) (t : Task) : Bool :=
  s.whole id t && (s.places [] ((id, t) :: s.resumeWith id t)).isSome

/-- Whether a suspended task of a slice stands before a task of a class that has never issued, and can resume now (R158,
R175). -/
def State.resumeFirst (s : State) (cl prio : Nat) : Bool :=
  s.tasks.any fun t =>
    t.2.cluster == cl && prio ≤ (s.lead t.1 t.2).hdr.prio && s.canResume t.1 t.2

/-- Whether a queued task stands in the order of its slice, a stop of its node set aside (R172, R175). -/
def State.inOrder (s : State) (t : Task) : Bool :=
  decide (t.phase = .queued) && !t.ovr && s.gangDone t && s.admits t.key t.cluster

/-- Whether a queued task is eligible (R172, R175). -/
def State.eligible (s : State) (id : Nat) (t : Task) : Bool := s.inOrder t && !s.stopped t.key id

/-- Free compute cores of a cluster. -/
def State.freeCores (s : State) (cl : Nat) : Nat :=
  ((upFrom (cl / 32 * 2048 + cl % 32 * 48) 48).filter s.freeCore).length

/-- Whether a gang that has not issued finds cores for all its tasks at once (R155). -/
def State.gangFits (s : State) (k : NodeKey) : Bool :=
  let ts := s.tasksOf k
  s.live k && (s.nodeSt k).ran = [] && ts.all fun t =>
    decide (t.2.phase = .queued) && !t.2.ovr && s.admits k t.2.cluster &&
      (ts.filter fun u => u.2.cluster == t.2.cluster).length ≤ s.freeCores t.2.cluster

/-- Whether a task may go on at its slice: eligible, or a member of a gang that can issue now. -/
def State.contends (s : State) (id : Nat) (t : Task) : Bool :=
  s.eligible id t || (t.role ≠ 0 && !s.stopped t.key id && s.gangFits t.key)

/-- Higher priority class first, then older (R175). -/
def Task.before (t u : Task) : Bool := u.hdr.prio < t.hdr.prio || (t.hdr.prio == u.hdr.prio && t.older u)

/-- The first task of the gang that a task belongs to, while that gang has not issued, else the task itself. -/
def State.head (s : State) (t : Task) : Task :=
  if t.role = 0 || (s.nodeSt t.key).ran ≠ [] then t else (((s.tasksOf t.key).head?).map (·.2)).getD t

/-- Whether a task stands before another; a gang that has not issued compares by its first task, so that no two wait for each
other (R175; log 69). -/
def State.passes (s : State) (u t : Task) : Bool := (s.head u).before (s.head t)

/-- Whether no task of a slice that may go on, nor a suspended one that can resume now, stands before a task (R175).  R169
does not order unbound tasks of two nodes with one stamp: either may come first. -/
def State.noneBefore (s : State) (id : Nat) (t : Task) : Bool :=
  (s.tasks.all fun u => u.1 == id || u.2.cluster != t.cluster || !s.contends u.1 u.2 || !s.passes u.2 t) &&
    !s.resumeFirst t.cluster (s.head t).hdr.prio

/-- Whether a task is a first eligible one of its slice (R175). -/
def State.firstInOrder (s : State) (id : Nat) (t : Task) : Bool := s.eligible id t && s.noneBefore id t

/-- Change a task. -/
def State.modTask (s : State) (id : Nat) (f : Task → Task) : State :=
  match find? s.tasks id with
  | some t => { s with tasks := insert s.tasks id (f t) }
  | none => s

/-- Hobbles of a slice in flight (R175). -/
def State.hobbles (s : State) (cl : Nat) : Nat :=
  (s.tasks.filter fun t => t.2.cluster == cl &&
    match t.2.phase with
    | .reserving _ | .hobbling _ | .releasing => true
    | _ => false).length

/-! Hobbling -/

/-- The task's claims are granted: its place in the order of issue is taken (R175). -/
def State.grant (s : State) (id : Nat) : State :=
  { s with fresh := s.fresh + 1 }.modTask id fun t => { t with phase := .granted, issues := s.fresh }

/-- Age limit of a task's node in cycles (R173). -/
def State.ageLimit (s : State) (t : Task) : Nat :=
  match s.node t.key with
  | some n => if n.age = 0 then 65536 else n.age
  | none => 65536

/-- Age of a task in cycles (R173): its stamp may come from the counter of another package, which is a little ahead (R491);
the age is then zero. -/
def State.age (s : State) (t : Task) : Nat :=
  let d := (s.cycle t.pkg + 2 ^ 64 - t.stamp) % 2 ^ 64
  if d < 2 ^ 63 then d else 0

/-- Whether a task reserves before it hobbles (R173). -/
def State.aged (s : State) (t : Task) : Bool := t.old || s.ageLimit t < s.age t

/-- A status of a claim ends the grid, reported by the dispatcher with the bound element (R161, R451). -/
def State.claimFault (s : State) (t : Task) (e : Nat × Note) : State :=
  (s.note e.2).report t.key e.1 (BitVec.ofNat 64 (t.elem.getD 0))

/-- An exclusive task that is the first of its slice stops the new issues of its node; of several, the oldest that has not
issued holds the stop (R172). -/
def State.stopIssues (s : State) (id : Nat) (t : Task) : State :=
  (s.modTask id fun t => { t with phase := .exclusive, excl := true }).modNodeSt t.key fun st =>
    { st with stopFor :=
        match st.stopFor.bind fun x => (find? s.tasks x).map fun u => (x, u) with
        | some (x, u) => if u.phase = .exclusive && t.older u then some id else some x
        | none => some id }

/-- A task begins its claims: its own claim word must be reached (R161, R176; log 45), and its claim set is computed now
(R170, R171).  The node's window is assigned when it begins to hobble, a reservation sequence before the hobble counting
as its beginning (R181; log 68). -/
def State.beginClaims (s : State) (id : Nat) (t : Task) (reserves : Bool) : State :=
  match s.ownWord t, s.claimSet t with
  | .error e, _ | _, .error e => s.claimFault t e
  | .ok (), .ok none => (s.ensureWindow t.key t.cluster).stopIssues id t
  | .ok (), .ok (some []) => s.grant id
  | .ok (), .ok (some set) =>
    (s.ensureWindow t.key t.cluster).modTask id fun t => { t with phase := if reserves then .reserving set else .hobbling set }

/-- HOBBLE: the slice takes up the first eligible task (R175): it begins to claim its set in ascending order, reserving
first when it is old (R173); a task that claims nothing is granted at once, and an exclusive one stops the other issues
of its node (R172).  Under the stop of another exclusive task, one that is first of its slice joins those that wait for
it. -/
def execHobble (task : Nat) (s : State) : Out :=
  match find? s.tasks task with
  | some t =>
    if s.firstInOrder task t && s.hobbles t.cluster < 16 then .next (s.beginClaims task t (s.aged t))
    else if s.inOrder t && s.noneBefore task t then
      match s.claimSet t, s.ownWord t with
      | .ok none, .ok () => .next ((s.ensureWindow t.key t.cluster).stopIssues task t)
      | _, _ => .next s
    else .next s
  | none => .next s

/-- CLAIM_AT: a claim message of a hobbling task is answered at the home of the word (R170). -/
def execClaimAt (task elem : Nat) (s : State) : Out :=
  match find? s.tasks task with
  | some t =>
    match t.phase with
    | .hobbling (e :: rest) =>
      if e ≠ elem || !s.live t.key then .next s
      else
        match s.wordOf t e with
        | .error e => .next (s.claimFault t e)
        | .ok pa =>
          let r := s.claimAt pa task
          if r.2 then
            let s := r.1.modTask task fun t => { t with phase := .hobbling rest, claims := (e, pa) :: t.claims }
            .next (if rest.isEmpty then s.grant task else s)
          else .next (s.modTask task fun t => { t with phase := if t.claims.isEmpty then .waiting else .releasing })
    | _ => .next s
  | none => .next s

/-- RELEASE_AT: a task whose hobble was refused gives back its newest claim (R170); with the last one it waits out 128
cycles (R171). -/
def execReleaseAt (task elem : Nat) (s : State) : Out :=
  match find? s.tasks task with
  | some t =>
    match t.phase, t.claims with
    | .releasing, (e, pa) :: rest =>
      if e ≠ elem then .next s
      else
        .next ((s.releaseClaim t.pkg pa).modTask task fun t =>
          { t with claims := rest, phase := if rest.isEmpty then .waiting else .releasing })
    | _, _ => .next s
  | none => .next s

/-- RESERVE: a reservation message of an old task is answered at the home of the word; after the last one the task
hobbles (R173). -/
def execReserve (task elem : Nat) (s : State) : Out :=
  match find? s.tasks task with
  | some t =>
    match t.phase with
    | .reserving (e :: rest) =>
      if e ≠ elem || !s.live t.key then .next s
      else
        match s.wordOf t e with
        | .error e => .next (s.claimFault t e)
        | .ok pa =>
          let s := s.reserve pa task t
          if rest.isEmpty then .next (s.beginClaims task t false)
          else .next (s.modTask task fun t => { t with phase := .reserving rest })
    | _ => .next s
  | none => .next s

/-- HOBBLE_RETRY_EXPIRY: the 128 cycles of a refused task have passed (R171). -/
def execHobbleRetryExpiry (task : Nat) (s : State) : Out :=
  .next (s.modTask task fun t => if t.phase = .waiting then { t with phase := .queued } else t)

/-- AGE_LIMIT_EXPIRY: the age of a task passes its node's limit (R173). -/
def execAgeLimitExpiry (task : Nat) (s : State) : Out :=
  .next (s.modTask task fun t => { t with old := true })

/-! Issue -/

/-- The lowest CTXID that no task of a package holds (R444). -/
def Package.freeCtx (p : Package) : Nat :=
  (leastFrom (fun i => !has p.ctxids i) 1 (p.ctxids.length + 1)).getD 1

/-- First entry of the window that a node holds on a core's cluster (R182); without a window it is not stated and reads a
free value (log 8). -/
def State.windowBase (s : State) (k : Nat) (nd : NodeKey) : State × Nat :=
  match (s.cluster (coreCluster k)).window nd with
  | some w => (s, 512 * w)
  | none => ({ s with free := s.free + 1 }, 512 * ((Config.freeValue s.free).toNat % 48))

/-- Smallest SPBANKS that covers a number of bytes (R29). -/
def banksFor (n : Nat) : Nat := (n + 0xFFFF) / 0x1_0000

/-- The state of a core at a task's first instruction (R29 to R31). -/
def Core.start (c : Core) (t : TaskCtx) (base : Nat) : Core :=
  { c with
    run := .running
    mode := .task
    pc := t.hdr.entry
    fline := none
    regs := .zero
    bfmt := []
    mthr := 0x0000_FFFF_FFFF_FFFF
    barbase := base
    task := some t
    rasD := 0
    ras := []
    join := []
    wait := .none
    asyncTrap := none
    laterTraps := 0
    trapped := false
    dropped := []
    preempt := false
    due := .no
    stopped := false
    member := none }

/-- A task issues on a core (R143, R144, R167, R29 to R31, R444): a bound one acquires. -/
def State.issueOn (s : State) (id k : Nat) : State :=
  match find? s.tasks id with
  | none => s
  | some t =>
    let s := s.ensureWindow t.key (coreCluster k)
    let ctx := (s.pkg t.pkg).freeCtx
    let s := s.modPkg t.pkg fun p => { p with ctxids := addNat p.ctxids ctx }
    let s := if (s.core k).spbanks < banksFor t.hdr.scratch then s.resplit k (banksFor t.hdr.scratch) else s
    let s := s.clearSpad k 0 t.hdr.scratch
    let (s, base) := s.windowBase k t.key
    let x : TaskCtx :=
      { id := id, taskid := BitVec.ofNat 64 t.taskid
        elemid := match t.elem with
          | some e => BitVec.ofNat 64 e
          | none => BitVec.allOnes 64
        graph := t.graph, node := t.node, role := t.role, ctxid := ctx, hdr := t.hdr }
    let s := s.modCore k fun c => c.start x base
    let s := if t.elem.isSome then s.acquire k 3 else s
    let s := s.modTask id fun t => { t with phase := .issued k, ctxid := ctx }
    (s.modNodeSt t.key fun st => { st with ran := addNat st.ran k }).refill t.cluster

/-- Whether a core can take a task that needs a number of banks: a change of its SPBANKS waits until no command that a task has
left in a queue names a byte of its L space (R28, R29, R394). -/
def State.banksReady (s : State) (k banks : Nat) : Bool := (s.core k).spbanks == banks || !s.splitWaits k

/-- Banks with which a task issues on a core: at least as many as it has (R29). -/
def State.banksOf (s : State) (k : Nat) (t : Task) : Nat := max (s.core k).spbanks (banksFor t.hdr.scratch)

/-- Whether the node has an issued or suspended task (R172). -/
def State.nodeBusy (s : State) (k : NodeKey) : Bool := (s.tasksOf k).any fun t => !t.2.phase.waits

/-- Whether a task may take the next free core of its cluster: granted, the first in the order of grants, or exclusive,
holding the stop, with its node empty (R172, R175). -/
def State.mayIssue (s : State) (id : Nat) (t : Task) : Bool :=
  s.admits t.key t.cluster && !s.stopped t.key id && s.gangDone t &&
    match t.phase with
    | .granted =>
      s.tasks.all fun u =>
        u.1 == id || u.2.cluster != t.cluster || u.2.phase != .granted || s.stopped u.2.key u.1 ||
          !s.admits u.2.key t.cluster || t.issues < u.2.issues
    | .exclusive => (s.nodeSt t.key).stopFor = some id && !s.nodeBusy t.key
    | _ => false

/-- TASK_ISSUE: a granted task issues on the free core of its cluster with the lowest number (R175). -/
def execTaskIssue (task : Nat) (s : State) : Out :=
  match find? s.tasks task with
  | some t =>
    match s.lowestFree t.cluster with
    | some k =>
      if s.mayIssue task t && !s.resumeFirst t.cluster t.hdr.prio && s.banksReady k (s.banksOf k t) then
        .next ({ s with fresh := s.fresh + 1 }.modTask task (fun t => { t with issues := s.fresh }) |>.issueOn task k)
      else .next s
    | none => .next s
  | none => .next s

/-- Issue tasks each on the lowest free core of its cluster: none where one finds no core. -/
def State.issueAll (s : State) : List (Nat × Task) → Option State
  | [] => some s
  | t :: r =>
    match s.lowestFree t.2.cluster with
    | some k =>
      if s.admits t.2.key t.2.cluster && s.banksReady k (s.banksOf k t.2) then
        ({ s with fresh := s.fresh + 1 }.modTask t.1 (fun t => { t with issues := s.fresh }) |>.issueOn t.1 k).issueAll r
      else none
    | none => none

/-- Whether nothing stands before a task of a gang at its slice: no suspended task, no task of another node that may go on,
none that is granted and waits for a core (R155, R158, R175). -/
def State.gangFirst (s : State) (k : NodeKey) : Bool :=
  (s.tasksOf k).all fun t =>
    !s.resumeFirst t.2.cluster (s.head t.2).hdr.prio && s.tasks.all fun u =>
      u.2.key == k || u.2.cluster != t.2.cluster || (!s.mayIssue u.1 u.2 && !(s.contends u.1 u.2 && s.passes u.2 t.2))

/-- GANG_ISSUE: the tasks of a gang issue together, when there are cores for all of them and none stands before one of them at
its slice (R155). -/
def execGangIssue (graph node : Nat) (s : State) : Out :=
  let k := (graph, node)
  match s.node k with
  | some n =>
    if n.counts.isEmpty || !s.gangFits k || !s.gangFirst k then .next s
    else .next ((s.issueAll (s.tasksOf k)).getD s)
  | none => .next s

/-! Balance -/

/-- Pairs of adjacent clusters of a package (R177): the neighbours in each ring of a die, then those of the dies. -/
def adjacentPairs (pkg : Nat) : List (Nat × Nat) :=
  (upFrom 0 32).map (fun c => (pkg * 32 + c, pkg * 32 + c / 8 * 8 + (c + 1) % 8)) ++
    (upFrom 0 32).map fun c => (pkg * 32 + c, pkg * 32 + (c + 8) % 32)

/-- Whether a task counted as ready and never issued may move: it waits in its queue, or for another attempt, and holds no
claim, reservation sequence or grant (log 68). -/
def Task.fresh (t : Task) : Bool := t.ready && (t.phase == .queued || t.phase == .waiting)

/-- Lowest class among the tasks of a list. -/
def lowestClass (ts : List (Nat × Task)) : Nat := ts.foldl (fun m t => min m t.2.hdr.prio) 3

/-- The youngest task of a list. -/
def youngest : List (Nat × Task) → Option (Nat × Task)
  | [] => none
  | t :: r => some (r.foldl (fun a b => if a.2.older b.2 then b else a) t)

/-- Move up to `n` tasks from one cluster to another, of those listed with the cluster that held them before the exchange:
each time the youngest of the lowest class among those whose scope contains both (R177). -/
def State.moveTasks (s : State) (held : Nat → Option Nat) (a b : Nat) : Nat → State
  | 0 => s
  | n + 1 =>
    let ts := s.tasks.filter fun t =>
      t.2.cluster == a && held t.1 == some a && t.2.fresh && t.2.hdr.covers a b
    match youngest (ts.filter fun t => t.2.hdr.prio == lowestClass ts) with
    | some t => (s.modTask t.1 fun t => { t with cluster := b }).moveTasks held a b n
    | none => s

/-- One exchange of a pair, with the counts of every slice taken before. -/
def State.balance (s : State) (held : Nat → Option Nat) (counts : Nat → Nat) (p : Nat × Nat) : State :=
  let (x, y) := (counts p.1, counts p.2)
  if y ≤ x then s.moveTasks held p.1 p.2 (min 16 ((x - y) / 4)) else s.moveTasks held p.2 p.1 (min 16 ((y - x) / 4))

/-- BALANCE_EXCHANGE: every 256 cycles the adjacent slices of a package exchange their counts of tasks that have never
issued, and move some (R177).  Between dies too the counts are of all such tasks (log 68). -/
def execBalanceExchange (pkg : Nat) (s : State) : Out :=
  let ready := s.tasks.filter fun t => t.2.ready
  let counts := fun cl => (ready.filter fun t => t.2.cluster == cl).length
  let held := fun id => (find? s.tasks id).map (·.cluster)
  .next ((adjacentPairs pkg).foldl (fun (s : State) p => s.balance held counts p) s)

/-! Pre-emption requests -/

/-- Cores that are pre-empted together with a core: those of its harness, or of its gang (R155, R233). -/
def State.unit (s : State) (k : Nat) : List Nat :=
  match (s.core k).task with
  | none => [k]
  | some t =>
    if t.role ≠ 0 then (s.tasksOf (t.graph, t.node)).filterMap fun t => t.2.core
    else addNat (s.mates k) k

/-- Whether a core's task may be pre-empted for a task: another graph, a lower class, not asked already (R159). -/
def State.victim (s : State) (u : Task) (k : Nat) : Bool :=
  let c := s.core k
  match c.task with
  | some t => t.graph != u.graph && t.hdr.prio < u.hdr.prio && !c.preempt && decide (c.mode = .task) && s.live (t.graph, t.node)
  | none => false

/-- Number of a core's task in the order of issue, which a resumption leaves as it was (log 46), and its class. -/
def State.rank (s : State) (k : Nat) : Nat × Nat :=
  match (s.core k).task with
  | some t => (t.hdr.prio, ((find? s.tasks t.id).map (·.issues)).getD 0)
  | none => (4, 0)

/-- The better victim of two cores: the lower class, then the later issue, then the lower number (R159). -/
def State.chooseVictim (s : State) (a b : Nat) : Nat :=
  let (x, y) := (s.rank a, s.rank b)
  if y.1 < x.1 || (y.1 == x.1 && x.2 < y.2) then b else a

/-- PREEMPT_REQUEST: a ready task has found no free core of its cluster for 16,384 cycles, and the slice asks for the
pre-emption of a task of a lower class (R159, R454).  Every task of the slice that has no core counts as ready, suspended
ones and those that wait in their hobble among them (log 46). -/
def execPreemptRequest (cluster : Nat) (s : State) : Out :=
  let ready := s.tasks.filter fun t =>
    t.2.cluster == cluster && !t.2.ovr && t.2.core.isNone && s.admits t.2.key cluster
  let cores := upFrom (cluster / 32 * 2048 + cluster % 32 * 48) 48
  let vs := cores.filter fun k => ready.any fun u => s.victim u.2 k
  if (s.lowestFree cluster).isSome then .next s
  else
    match vs with
    | [] => .next s
    | v :: r =>
      let k := r.foldl s.chooseVictim v
      if s.canSave (s.unit k) then
        .next ((s.unit k).foldl (fun (s : State) k => s.modCore k fun c => { c with preempt := true }) s)
      else .next s

end Sys2Proof.Machine
end

