-- ==== Sys2Proof/Machine/Fleet.lean ====
section
/-! DEFINITION. What an operator reads: the telemetry block, the management bus, clock steps (25, R495 to R501). -/

namespace Sys2Proof.Machine

/-- The boot status word (R499). -/
def bootWord (p : Package) : Nat :=
  p.svn % 2 ^ 32 * 2 ^ 32 + p.slot % 2 * 2 ^ 16 + p.failb % 16 * 2 ^ 12 + p.faila % 16 * 2 ^ 8 + p.step % 16

/-- A link's 32 bytes of lane health (R496). -/
def linkHealth (l : Link) : List Byte :=
  let (state, lane) :=
    match l.up with
    | .out => (0, 0xFF)
    | .healthy => (1, 0xFF)
    | .erased n => (2, n)
  [BitVec.ofNat 8 state, BitVec.ofNat 8 l.gen, BitVec.ofNat 8 lane, 0] ++ toBytes 4 l.retrain ++ toBytes 8 l.symErr ++
    toBytes 8 l.resent ++ toBytes 8 l.laneFail

/-- A record of the refusal log (R497). -/
def refusedBytes (r : Refused) : List Byte :=
  toBytes 7 r.addr ++ [0] ++ toBytes 3 r.endpoint ++ [BitVec.ofNat 8 r.kind] ++ toBytes 4 0

/-- The log of a die: 16 records and the count of those not kept (R497). -/
def logBytes (d : Die) : List Byte :=
  let rs := (d.log.take 16).flatMap refusedBytes
  rs ++ List.replicate (256 - rs.length) 0 ++ toBytes 8 d.logMore ++ List.replicate 8 0

/-- Clock steps of the four dies (R495, R501). -/
def State.clockSteps (s : State) (pkg : Nat) : Nat :=
  (upFrom 0 4).foldl (fun n d => n + (s.die (4 * pkg + d)).clock % 16 * 2 ^ (4 * d)) 0

/-- The body of the telemetry block, offset 8 on (R495): power, coolant inlet and hottest junction are what the
module's sensors read. -/
def State.telemetryBody (s : State) (pkg power tin tjmax : Nat) : List Byte :=
  let p := s.pkg pkg
  let c := p.counters
  let head := toBytes 8 (bootWord p) ++ toBytes 8 (s.cycle pkg) ++ toBytes 4 power ++ toBytes 2 tin ++
    toBytes 2 tjmax ++ toBytes 4 (s.clockSteps pkg) ++ List.replicate 0x1C 0
  let counts := [c.cimpar, c.accce, c.accue, c.memce, c.memue, c.dropped, c.extra, c.hfault].flatMap (toBytes 8)
  let links := (upFrom 0 12).flatMap fun i => linkHealth (p.link i)
  let logs := (upFrom 0 4).flatMap fun d => logBytes (s.die (4 * pkg + d))
  let group := match p.parity with
    | some g => [BitVec.ofNat 8 g.state, BitVec.ofNat 8 g.flags, 0, 0, 0, 0, 0, 0]
    | none => List.replicate 8 0
  head ++ counts ++ List.replicate 0x80 0 ++ links ++ List.replicate 0x180 0 ++ logs ++ List.replicate 0xC0 0 ++ group

/-- Global physical address of a package's telemetry block (R495). -/
def State.telemetryAt (s : State) (pkg : Nat) : Nat := (s.pkg pkg).id * 2 ^ 44 + 0x07F_FFFF_8000

/-- The pursers of a package write bytes of a line: a home that their world may not reach refuses the write and logs it
(R476, R477). -/
def State.purserLine (s : State) (pkg : Nat) (l : Nat × List (Nat × Byte)) : State :=
  match s.shut (firmware (pkg * 2048 + 1536)) .store (64 * l.1 + (l.2.headD (0, 0)).1) 1 with
  | some note => s.note note
  | none => s.homeWrite none false l.1 l.2

/-- SEQ of a package's telemetry block goes up by one (R498). -/
def State.telemetrySeq (s : State) (pkg : Nat) : State :=
  let a := s.telemetryAt pkg
  (byLine a (toBytes 8 ((s.num a 8 + 1) % 2 ^ 64))).foldl (fun s l => s.purserLine pkg l) s

/-- TELEMETRY_UPDATE: every 10 ms the pursers rewrite the telemetry block, one write in each of these steps (R498): SEQ
becomes odd, the lines of the body are written, SEQ becomes even.  Each write is at its home before the next, as the
releases between them ask. -/
def execTelemetryUpdate (pkg power tin tjmax : Nat) (s : State) : Out :=
  let p := s.pkg pkg
  let left := fun (s : State) (u : Option (List (Nat × List (Nat × Byte)))) => s.modPkg pkg fun p => { p with update := u }
  if p.step < 8 then .next s
  else
    match p.update with
    | none =>
      .next (left (s.telemetrySeq pkg) (some (byLine (s.telemetryAt pkg + 8) (s.telemetryBody pkg power tin tjmax))))
    | some (l :: r) => .next (left (s.purserLine pkg l) (some r))
    | some [] => .next (left (s.telemetrySeq pkg) none)

/-- SMBUS_BLOCK_READ: command code 0x10 is answered with a byte count of 8 and the boot status word; every other code
with a not-acknowledge (R499). -/
def execSmbusBlockRead (pkg code : Nat) (s : State) : Out :=
  .next (s.modPkg pkg fun p => { p with busOut := if code = 0x10 then some (8 :: toBytes 8 (bootWord p)) else none })

/-- SMBUS_OTHER_COMMAND: the management bus accepts no write and answers any other command with a not-acknowledge
(R499). -/
def execSmbusOtherCommand (pkg _code : Nat) (s : State) : Out := .next (s.modPkg pkg fun p => { p with busOut := none })

/-- CLOCK_STEP, with what is sensed: a millisecond in which the die's junction, in degrees Celsius, exceeds 105, or the
module's power, in watts, its cap (R500), lowers its clocks by one step, down to step 8; one in which neither holds raises
them (R501).  The junction is what THERMAL_RESET looks at. -/
def execClockStep (die : Nat) (sensed : Nat × Nat) (s : State) : Out :=
  let (junction, power) := sensed
  let hot := 105 < junction || (s.pkg (die / 4)).cap < power
  .next (s.modDie die fun d =>
    { d with clock := if hot then min 8 (d.clock + 1) else d.clock - 1, junction := junction })

end Sys2Proof.Machine
end

