-- ==== Sys2Proof/Machine/Float.lean ====
section
/-! DEFINITION. The scalar floating-point instructions (15, R296 to R302). -/

namespace Sys2Proof.Machine

/-- Bits of an exact result converted to a type, extended to the register (R282, R297). -/
def fresult (t : Ty) (rm : Rm) (v : Val) : Word := extend (fconv t rm v).bits t

/-- Val of a register's low bits (R282, R283). -/
def rval (t : Ty) (x : Word) : Val := val t x.toNat

/-- FADD (R297). -/
def execFadd (g : Guard) (t : Ty) (rm : Rm) (d a b : Reg) (s : State) : Out :=
  binary g d a b (fun x y => fresult t rm ((rval t x).add rm (rval t y))) s

/-- FSUB (R297). -/
def execFsub (g : Guard) (t : Ty) (rm : Rm) (d a b : Reg) (s : State) : Out :=
  binary g d a b (fun x y => fresult t rm ((rval t x).sub rm (rval t y))) s

/-- FMUL (R297). -/
def execFmul (g : Guard) (t : Ty) (rm : Rm) (d a b : Reg) (s : State) : Out :=
  binary g d a b (fun x y => fresult t rm ((rval t x).mul (rval t y))) s

/-- FMA, one rounding (R297). -/
def execFma (g : Guard) (t : Ty) (rm : Rm) (d a b c : Reg) (s : State) : Out :=
  regInstr g [d, a, b, c] []
    (fun r => r.ws d (fresult t rm (((rval t (r.rs a)).mul (rval t (r.rs b))).add rm (rval t (r.rs c))))) s

/-- FDIV (R297). -/
def execFdiv (g : Guard) (t : Ty) (rm : Rm) (d a b : Reg) (s : State) : Out :=
  binary g d a b (fun x y => fresult t rm ((rval t x).div (rval t y))) s

/-- The type that f[2] of format A selects (R298). -/
def ftype (dbl : Bool) : Ty := if dbl then .f64 else .f32

/-- FSQRT (R297, R298). -/
def execFsqrt (g : Guard) (dbl : Bool) (rm : Rm) (d a : Reg) (s : State) : Out :=
  unary g d a (fun x => fresult (ftype dbl) rm (rval (ftype dbl) x).sqrt) s

/-- FMIN (R299). -/
def execFmin (g : Guard) (t : Ty) (d a b : Reg) (s : State) : Out :=
  binary g d a b (fun x y => BitVec.ofNat 64 (fminmax t false x.toNat y.toNat)) s

/-- FMAX (R299). -/
def execFmax (g : Guard) (t : Ty) (d a b : Reg) (s : State) : Out :=
  binary g d a b (fun x y => BitVec.ofNat 64 (fminmax t true x.toNat y.toNat)) s

/-- FCMP (R300). -/
def execFcmp (g : Guard) (cond : Cond) (t : Ty) (d a b : Reg) (s : State) : Out :=
  regInstr g [a, b] [] (fun r => r.wp d.toNat (fltCond cond (rval t (r.rs a)) (rval t (r.rs b)))) s

/-- FCVT (R302). -/
def execFcvt (g : Guard) (dt st : Ty) (rm : Rm) (d a : Reg) (s : State) : Out :=
  unary g d a (fun x => fresult dt rm (rval st x)) s

/-- FCLASS (R298, R301). -/
def execFclass (g : Guard) (dbl : Bool) (d a : Reg) (s : State) : Out :=
  unary g d a (fun x => fclass (ftype dbl) x.toNat) s

end Sys2Proof.Machine
end

