-- ==== Sys2Proof/Machine/Matrix.lean ====
section
/-! DEFINITION. The matrix unit (05; 04, R75 to R78; 18, R382 to R386; 22, R458): alignment and products, handles,
lazy saving, and the commands MZERO, MLDB, MMUL, MEPI, MREL, MSPILL, MFILL; soft errors. -/

namespace Sys2Proof.Machine

/-! Alignment and products -/

/-- Alignment position P of a format (R75). -/
def alignPos (t : Ty) : Nat := if t == .bf16 then 14 else 6

/-- Element exponent of an encoding (R75); none for a NaN or an infinity. -/
def elemExp (t : Ty) (x : Nat) : Option Int :=
  let f := fmtOf t
  let e := x / 2 ^ f.mbits % 2 ^ f.ebits
  match f.decode x with
  | .fin .. => some (if e = 0 then 1 - (f.bias : Int) else (e : Int) - f.bias)
  | _ => none

/-- TruncZ(v · 2^(P − e)) (R76). -/
def alignTo (p : Nat) (e : Int) : Val → Int
  | .fin neg m q =>
    let sh := q + p - e
    let n : Int := (if 0 ≤ sh then m * 2 ^ sh.toNat else m / 2 ^ (-sh).toNat : Nat)
    if neg then -n else n
  | _ => 0

/-- Align a block of elements: its exponent and integers; none where it holds a NaN or an infinity (R76). -/
def alignBlock (t : Ty) (xs : List Nat) : Option (Int × List Int) :=
  match xs.map (elemExp t) with
  | [] => none
  | e :: es =>
    if (e :: es).all Option.isSome then
      let b := es.foldl (fun (m : Int) x => max m (x.getD m)) (e.getD 0)
      some (b, xs.map fun x => alignTo (alignPos t) b ((fmtOf t).decode x))
    else none

/-- A list as numbered elements, without those equal to a default. -/
def sparse {α : Type} [DecidableEq α] (d : α) (l : List α) : List (Nat × α) :=
  (l.zipIdx.map fun x => (x.2, x.1)).filter fun x => x.2 ≠ d

/-- The columns of a tile given by rows. -/
def columns (rows : List (List Nat)) : List (List Nat) := (upFrom 0 128).map fun j => rows.map fun r => r.getD j 0

/-- Align a tile by columns: for each column its four block exponents, −128 where a block holds a NaN or an infinity,
and its 128 integers (R76). -/
def alignTile (t : Ty) (rows : List (List Nat)) : List (List Int × List Int) :=
  (columns rows).map fun c =>
    let bs := (pieces 32 4 c).map (alignBlock t)
    (bs.map fun b => (b.map (·.1)).getD (-128), (bs.map fun b => (b.map (·.2)).getD (List.replicate 32 0)).flatten)

/-- The slots that a tile fills: one, or the high and low planes of a pair for BF16 (R76, R82). -/
def tileSlots (t : Ty) (owner : Nat) (scale : BitVec 8) (rows : List (List Nat)) : List BSlot :=
  let cs := alignTile t rows
  let exps := sparse 0 (cs.flatMap fun c => c.1.map fun e => BitVec.ofInt 8 e)
  let ints := (upFrom 0 128).flatMap fun k => cs.map fun c => ofInt 16 (c.2.getD k 0)
  let slot := fun (plane : Nat) (f : Nat → Nat) =>
    { owner := owner, plane := plane, bad := false, hurt := [], scale := scale
      data := sparse 0 (ints.map fun x => BitVec.ofNat 8 (f x)), exps := exps : BSlot }
  if t == .bf16 then [slot 1 (· / 256), slot 2 id] else [slot 0 id]

/-- B as a product reads it: integer of row k and column j, block exponent of column j and block g, alignment position,
scale. -/
structure BView where
  int   : Nat → Nat → Int
  exp   : Nat → Nat → Int
  pos   : Nat
  scale : Int

/-- The B slot of a context; an empty slot is zero (R30), a high plane stands with the slot after it (R76).  Where that slot
holds no longer its low plane, what the context has there is read as the low bytes, an 8-bit tile's integers too, and a slot
of another context or an empty one as zero (DESIGN CHOICE, log 59). -/
def Engine.bView (e : Engine) (ctx i : Nat) : BView :=
  match (find? e.bslots i).filter (·.owner = ctx) with
  | none => ⟨fun _ _ => 0, fun _ _ => 0, 6, 0⟩
  | some b =>
    let exp := fun j g => toSigned 8 (look b.exps 0 (4 * j + g)).toNat
    let hi := fun k j => toSigned 8 (look b.data 0 (128 * k + j)).toNat
    if b.plane = 1 then
      let low := (((find? e.bslots (i + 1)).filter (·.owner = ctx)).map (·.data)).getD []
      ⟨fun k j => hi k j * 256 + ((look low 0 (128 * k + j)).toNat : Int), exp, 14, toSigned 8 b.scale.toNat⟩
    else ⟨hi, exp, 6, toSigned 8 b.scale.toNat⟩

/-- A product s · 2^e enters an accumulator element: saturated at MaxFinite with a count, then one rounded addition
(R77). -/
def accAdd (c : Nat) (s e : Int) : Nat × Nat :=
  let f := fmtOf .f32
  let ovr := magLt f.maxFin.1 f.maxFin.2 s.natAbs e
  let t : Val := if ovr then .fin (s < 0) f.maxFin.1 f.maxFin.2 else .fin (s < 0) s.natAbs e
  ((fconv .f32 .near ((val .f32 c).add .near t)).bits, if ovr then 1 else 0)

/-- One accumulator element with the four blocks of an A row and a column of B: its new value and the block overflows
(R77). -/
def macElem (blocks : List (Option (Int × List Int))) (pa : Nat) (sa : Int) (b : BView) (j c : Nat) : Nat × Nat :=
  blocks.zipIdx.foldl
    (fun acc x =>
      let g := x.2
      match x.1 with
      | none => ((fmtOf .f32).nanBits, acc.2)
      | some (ea, as) =>
        if b.exp j g = -128 then ((fmtOf .f32).nanBits, acc.2)
        else
          let s := (as.zipIdx.map fun y => y.1 * b.int (32 * g + y.2) j).foldl (· + ·) 0
          let r := accAdd acc.1 s (ea - pa + b.exp j g - b.pos + sa + b.scale)
          (r.1, acc.2 + r.2))
    (c, 0)

/-- Row `i` of a slot. -/
def AccSlot.row (a : AccSlot) (i : Nat) : List Nat := (upFrom (128 * i) 128).map fun n => (look a.data 0 n).toNat

/-- Write row `i` of a slot. -/
def AccSlot.setRow (a : AccSlot) (i : Nat) (xs : List Nat) : AccSlot :=
  { a with data := xs.zipIdx.foldl (fun m x => put m 0 (128 * i + x.2) (BitVec.ofNat 32 x.1)) a.data }

/-- Row `i` of a slot takes the product of an A row (R77). -/
def AccSlot.mac (a : AccSlot) (i : Nat) (ta : Ty) (sa : Int) (b : BView) (row : List Nat) : AccSlot :=
  let blocks := (pieces 32 4 row).map (alignBlock ta)
  let rs := (a.row i).zipIdx.map fun x => macElem blocks (alignPos ta) sa b x.2 x.1
  { a.setRow i (rs.map (·.1)) with ovf := min 0xFFFF (a.ovf + (rs.map (·.2)).foldl (· + ·) 0) }

/-! Images of slots -/

/-- Header of a slot's image (R458). -/
def slotHeader (kind index plane bad scale empty ovf ctx : Nat) : List Byte :=
  toBytes 64
    (kind + index * 2 ^ 8 + plane * 2 ^ 16 + bad * 2 ^ 24 + scale * 2 ^ 32 + empty * 2 ^ 40 + ovf * 2 ^ 64 +
      ctx * 2 ^ 96)

/-- Image of a handle (R458). -/
def handleImage (i : Nat) (a : AccSlot) : List Byte :=
  slotHeader 0 i 0 0 0 0 a.ovf a.owner ++ (upFrom 0 16384).flatMap fun n => toBytes 4 (look a.data 0 n).toNat

/-- Image of a B slot, empty or loaded (R386, R458). -/
def bImage (i : Nat) : Option BSlot → List Byte
  | none => slotHeader 1 i 0 0 0 1 0 0 ++ List.replicate 16896 0
  | some b =>
    slotHeader 1 i b.plane (if b.bad then 1 else 0) b.scale.toNat 0 0 b.owner ++
      (upFrom 0 16384).map (look b.data 0) ++ (upFrom 0 512).map (look b.exps 0)

/-- The slot that a handle's image holds, for a context. -/
def accOfImage (ctx : Nat) (bs : List Byte) : AccSlot :=
  { owner := ctx, ovf := bytesNum bs 8 2, bad := []
    data := sparse 0 ((pieces 4 16384 (bs.drop 64)).map fun x => BitVec.ofNat 32 (ofBytes x)) }

/-- The slot that a B slot's image holds, for a context; none for an empty one. -/
def bOfImage (ctx : Nat) (bs : List Byte) : Option BSlot :=
  if bytesNum bs 5 1 % 2 = 1 then none
  else
    some
      { owner := ctx, plane := bytesNum bs 2 1, bad := bytesNum bs 3 1 % 2 == 1, hurt := []
        scale := bs.getD 4 0, data := sparse 0 ((bs.drop 64).take 16384), exps := sparse 0 (bs.drop 16448) }

/-! Lazy saving -/

/-- The task of a package that holds a context and an image (R95). -/
def State.ownerImage (s : State) (pkg ctx : Nat) : Option (Task × Nat) :=
  (s.tasks.find? fun t => t.2.ctxid == ctx && t.2.cluster / 32 == pkg && t.2.image.isSome).bind fun t =>
    t.2.image.map fun i => (t.2, i)

/-- Change a core's engines. -/
def State.modEng (s : State) (k : Nat) (f : Engine → Engine) : State := s.modCore k fun c => { c with eng := f c.eng }

/-- What the core's trap registers hold after an ownership trap (R95, R448, R450), which its handler services at
once. -/
def State.ownershipTrap (s : State) (k : Nat) : State :=
  s.modCore k fun c =>
    if c.mode = .task then { c with trapCause := (Trap.cause { status := 0, source := 5 } false), trapPc := c.pc, trapInfo := 0 }
    else c

/-- A status 0x37 is counted for the operator (R94, R495). -/
def State.countAccue (s : State) (k : Nat) : State :=
  s.modPkg (corePkg k) fun p => { p with counters := { p.counters with accue := bump p.counters.accue } }

/-- Save the accumulator slot of another context in its image, and free it (R95); a context without an image has
nothing to save, and a save that its home refuses ends the owner's grid (R476; log 12). -/
def State.saveAcc (s : State) (k p : Nat) : State :=
  match find? (s.core k).eng.acc p with
  | none => s
  | some a =>
    let s := s.modEng k fun e => { e with acc := erase e.acc p }
    match s.ownerImage (corePkg k) a.owner with
    | none => s
    | some (t, i) =>
      let base := s.imageAt (corePkg k) i
      match leastFrom (fun h => s.num (base + 0x64 + h) 1 == 1 + 16 * p) 0 16 with
      | none => s
      | some h =>
        match s.shut (firmware k) .engine (base + 0x11_5000 + 0x1_1000 * h) 65600 with
        | some note => (s.note note).report (t.graph, t.node) 0x60 0
        | none =>
          let s := (s.homeBytes none false (base + 0x11_5000 + 0x1_1000 * h) (handleImage h a)).setByte (base + 0x64 + h) 2
          if a.bad.isEmpty then s else (s.countAccue k).report (t.graph, t.node) 0x37 0

/-- Save the B slot of another context in its image, and empty it (R95). -/
def State.saveB (s : State) (k i : Nat) : State :=
  match find? (s.core k).eng.bslots i with
  | none => s
  | some b =>
    let s := s.modEng k fun e => { e with bslots := erase e.bslots i }
    match s.ownerImage (corePkg k) b.owner with
    | none => s
    | some (t, n) =>
      let base := s.imageAt (corePkg k) n
      match s.shut (firmware k) .engine (base + 0xE_D000 + 0x5000 * i) 16960 with
      | some note => (s.note note).report (t.graph, t.node) 0x60 0
      | none => (s.homeBytes none false (base + 0xE_D000 + 0x5000 * i) (bImage i (some b))).setByte (base + 0x74 + i) 2

/-- A free accumulator slot: the lowest, or one that lazy saving frees (R86, R88, R95). -/
def eTakeSlot (d : Doer) : E Nat := do
  let s ← eState
  let e := (s.core d.core).eng
  match leastFrom (fun p => (find? e.acc p).isNone) 0 8 with
  | some p => pure p
  | none =>
    match leastFrom (fun p => ((find? e.acc p).map (·.owner)) != some d.ctx) 0 8 with
    | some p => do
      eMod fun s => (s.ownershipTrap d.core).saveAcc d.core p
      pure p
    | none => stop 0x34

/-- Read an image from a context image, which lies in HBM. -/
def eImage (d : Doer) (a n : Nat) : E (List Byte) := fun w =>
  match w.st.shut (firmware d.core) .engine a n with
  | some note => .error ⟨0x60, note, w, false⟩
  | none => if w.st.bad a n then .error ⟨0x26, .memue (corePkg d.core), w, false⟩ else .ok (w.st.bytes a n, w)

/-- Restore a spilled handle into a slot (R96). -/
def eFillHandle (d : Doer) (h : Nat) : E Nat := do
  eMod fun s => s.ownershipTrap d.core
  let p ← eTakeSlot d
  let s ← eState
  let bs ← eImage d (s.slotImage d.core false h) 65600
  eMod fun s => s.modEng d.core fun e =>
    { e with handles := insert e.handles h (.bound p), acc := insert e.acc p (accOfImage d.ctx bs) }
  pure p

/-- The slot of a handle that a command writes through: bound now if it is unbound (R86, R88), filled if spilled. -/
def eBind (d : Doer) (h : Nat) : E Nat := do
  let s ← eState
  let e := (s.core d.core).eng
  match find? e.handles h with
  | some (.bound p) => pure p
  | some .spilled => eFillHandle d h
  | none => do
    eReq (e.handles.length < 8) 0x34
    let p ← eTakeSlot d
    eMod fun s => s.modEng d.core fun e =>
      { e with handles := insert e.handles h (.bound p), acc := insert e.acc p ⟨d.ctx, 0, [], []⟩ }
    pure p

/-- The slot of a handle that a command only reads (R86). -/
def eBound (d : Doer) (h : Nat) : E Nat := do
  let s ← eState
  match find? (s.core d.core).eng.handles h with
  | some (.bound p) => pure p
  | some .spilled => eFillHandle d h
  | none => stop 0x38

/-- A slot's contents. -/
def eAcc (d : Doer) (p : Nat) : E AccSlot := do
  let s ← eState
  pure ((find? (s.core d.core).eng.acc p).getD ⟨d.ctx, 0, [], []⟩)

/-- Replace a slot's contents. -/
def eSetAcc (d : Doer) (p : Nat) (a : AccSlot) : E Unit :=
  eMod fun s => s.modEng d.core fun e => { e with acc := insert e.acc p a }

/-- Words of a slot that a test picks are read: a double-bit error among them ends the command (R94). -/
def eReadWords (d : Doer) (a : AccSlot) (p : Nat → Bool) : E Unit :=
  if a.bad.any p then do
    eMod fun s => s.countAccue d.core
    stop 0x37
  else pure ()

/-- Rows of a slot are read. -/
def eReadRows (d : Doer) (a : AccSlot) (row n : Nat) : E Unit :=
  eReadWords d a fun w => 128 * row ≤ w && w < 128 * (row + n)

/-- Another context's tile leaves a B slot that a command takes (R95). -/
def eTakeB (d : Doer) (i : Nat) : E Unit := do
  let s ← eState
  match find? (s.core d.core).eng.bslots i with
  | some b => if b.owner = d.ctx then pure () else eMod fun s => (s.ownershipTrap d.core).saveB d.core i
  | none => pure ()

/-- A spilled B slot that a command names is restored (R96). -/
def eFillB (d : Doer) (i : Nat) : E Unit := do
  let s ← eState
  if has (s.core d.core).eng.bspilled i then
    eMod fun s => s.ownershipTrap d.core
    eTakeB d i
    let bs ← eImage d (s.slotImage d.core true i) 16960
    eMod fun s => s.modEng d.core fun e =>
      { e with
        bspilled := delNat e.bspilled i
        bslots := match bOfImage d.ctx bs with
          | some b => insert e.bslots i b
          | none => erase e.bslots i }
  else pure ()

/-- Write tile slots from slot `i` on (R82, R94, R95); a spilled one that is named is filled first (R96, R112). -/
def eWriteB (d : Doer) : Nat → List BSlot → E Unit
  | _, [] => pure ()
  | i, b :: r => do
    eFillB d i
    eTakeB d i
    eMod fun s => s.modEng d.core fun e =>
      { e with bspilled := delNat e.bspilled i, bslots := insert e.bslots i b }
    eWriteB d (i + 1) r

/-- The slot at `i` of the context, after filling it if spilled. -/
def eOwnB (d : Doer) (i : Nat) : E (Option BSlot) := do
  eFillB d i
  let s ← eState
  pure ((find? (s.core d.core).eng.bslots i).filter (·.owner = d.ctx))

/-- Fill and check the B operand of a product: the low plane of a pair is refused with 0x3A, a bad plane with 0x35
(R383, R94). -/
def eReadB (d : Doer) (i : Nat) : E Unit := do
  let b ← eOwnB d i
  match b with
  | none => pure ()
  | some b => do
    eReq (b.plane ≠ 2) 0x3A
    if b.plane = 1 then
      let low ← eOwnB d (i + 1)
      eReq (!b.bad && !((low.map (·.bad)).getD false)) 0x35
    else eReq (!b.bad) 0x35

/-! The commands -/

/-- MZERO (R382). -/
def mzeroBody (core : Nat) (c : Cmd) : E CmdEnd := do
  let d := c.doer core
  let h := recNum c.record 4 1
  eReq (flagsOk c.record 1 && h < 16 && reserved c.record 5 64) 0x3A
  eHandle d h
  let p ← eBind d h
  let a ← eAcc d p
  eSetAcc d p ⟨a.owner, 0, [], []⟩
  pure ⟨0, 0, false⟩

/-- MZERO. -/
def execMzero (core : Nat) (s : State) : Out := .next (s.runHead core .mat 1 true (mzeroBody core))

/-- Release a handle's slot (R87). -/
def eRelease (d : Doer) (h : Nat) : E Unit := do
  let s ← eState
  match find? (s.core d.core).eng.handles h with
  | none => pure ()
  | some _ => do
    let p ← eBound d h
    eMod fun s => s.modEng d.core fun e => { e with handles := erase e.handles h, acc := erase e.acc p }

/-- MREL (R87, R382). -/
def mrelBody (core : Nat) (c : Cmd) : E CmdEnd := do
  let d := c.doer core
  let h := recNum c.record 4 1
  eReq (flagsOk c.record 1 && h < 16 && reserved c.record 5 64) 0x3A
  eHandle d h
  eRelease d h
  pure ⟨0, 0, false⟩

/-- MREL. -/
def execMrel (core : Nat) (s : State) : Out := .next (s.runHead core .mat 6 false (mrelBody core))

/-- A row of 128 elements from bytes. -/
def rowElems (t : Ty) (bs : List Byte) : List Nat := (pieces (elemSize t) 128 bs).map ofBytes

/-- Read A rows from a bank, EC8 rows as E4M3 (R71, R383). -/
def eRowsA (d : Doer) (t : Ty) (off n : Nat) : E (List (List Nat)) := do
  if t == .ec8 then
    let cs ← readSegments d 1 off (n / 16)
    pure (pieces 128 n cs)
  else
    let bs ← eSpad d.core off (n * 128 * elemSize t)
    pure ((pieces (128 * elemSize t) n bs).map (rowElems t))

/-- Formats the matrix unit takes (R75). -/
def matFmt (t : Ty) : Bool := t == .bf16 || t == .e4m3 || t == .e5m2 || t == .ec8

/-- The format in which elements of a type enter the unit. -/
def portFmt (t : Ty) : Ty := if t == .ec8 then .e4m3 else t

/-- Rows of A enter an accumulator slot from a row on (R77, R383). -/
def macRows (a : AccSlot) (row : Nat) (t : Ty) (sa : Int) (b : BView) : List (List Nat) → AccSlot
  | [] => a
  | x :: r => macRows (a.mac row t sa b x) (row + 1) t sa b r

/-- End of the A rows of an MMUL. -/
def State.endA (s : State) (d : Doer) (t : Ty) (off n : Nat) : Int :=
  if t == .ec8 then s.rowEnd d 1 off (n / 16) else off + n * 128 * elemSize t

/-- MMUL (R383). -/
def mmulBody (core : Nat) (c : Cmd) : E CmdEnd := do
  let d := c.doer core
  let r := c.record
  let (h, bp, row0, n, off) := (recNum r 4 1, recNum r 5 1, recNum r 6 1, recNum r 8 2, recNum r 12 4)
  eReq
    (flagsOk r 1 && h < 16 && bp < 8 && row0 < 128 && 1 ≤ n && n ≤ 128 && reserved r 7 8 && reserved r 10 12 &&
      reserved r 16 64) 0x3A
  let s ← eState
  let bank := off / 0x1_0000
  let cr := s.core core
  let f := cr.fmtAt bank
  let sa := cr.scaleAt bank
  let hi := s.endA d f off n
  eHandle d h
  eDecl d off hi
  eReq (row0 + n ≤ 128 && bank < cr.spbanks && matFmt f) 0x3A
  eReq (if f == .ec8 then n % 16 == 0 && off % 64 == 0 else off % (128 * elemSize f) == 0) 0x3A
  eReq (hi ≤ (bank + 1) * 0x1_0000) 0x3A
  let b ← eOwnB d bp
  eReq ((b.map (·.plane)) != some 2) 0x3A
  let rows ← eRowsA d f off n
  eReadB d bp
  let p ← eBind d h
  let a ← eAcc d p
  eReadRows d a row0 n
  let s ← eState
  let a := macRows a row0 (portFmt f) sa ((s.core core).eng.bView d.ctx bp) rows
  eSetAcc d p a
  pure ⟨0, min 0xFFFF a.ovf, false⟩

/-- MMUL. -/
def execMmul (core : Nat) (s : State) : Out := .next (s.runHead core .mat 3 false (mmulBody core))

/-- Read the 128 × 128 tile of an MLDB (R384): the row starts, and for EC8 the segment that holds the columns. -/
def eTile (d : Doer) (o : Opnd) (k0 j0 : Nat) : E (List (List Nat)) :=
  eCollect (upFrom k0 128) fun k => do
    if o.fmt == .ec8 then
      let a ← skipSegments d o.space (o.addr [0, k]) (j0 / 2048)
      let x ← readSegment d o.space a true
      pure ((x.1.drop (j0 % 2048)).take 128)
    else
      eCollect (upFrom j0 128) fun j => do
        let bs ← eRead d o.space (spaceAddr (o.addr [j, k])) o.esz
        pure (ofBytes bs)

/-- The byte ranges that the tile of an MLDB names: its rows, or the span from its lowest to its highest byte. -/
def State.tileSpans (s : State) (d : Doer) (o : Opnd) (k0 j0 : Nat) : List (Int × Int) :=
  if o.fmt == .ec8 then
    (upFrom k0 128).map fun k => (o.addr [0, k], s.rowEnd d o.space (o.addr [0, k]) (j0 / 2048 + 1))
  else
    let e := { o with base := 0 }.extent [128, 128]
    let a := o.addr [j0, k0]
    [(a + e.1, a + e.2 - (o.esz - 1 : Nat) + (o.esz : Nat))]

/-- MLDB (R384). -/
def mldbBody (core : Nat) (c : Cmd) : E CmdEnd := do
  let d := c.doer core
  let r := c.record
  let (bp, rsp, ra, k0, j0) := (recNum r 4 1, recNum r 5 1, recNum r 8 8, recNum r 16 8, recNum r 24 8)
  eReq
    (flagsOk r 1 && bp < 8 && has [0, 1, 3] rsp && ra % 64 == 0 && reserved r 6 8 && reserved r 32 64) 0x3A
  if rsp = 1 then eDecl d ra (ra + 192)
  let sh ← eShape d rsp ra
  let s ← eState
  let o := s.opnd core sh
  let spans := s.tileSpans d o k0 j0
  if o.space = 1 then eEach spans fun x => eDecl d x.1 x.2
  eReq (sh.rank == 2 && k0 + 128 ≤ sh.dims.getD 1 0 && j0 + 128 ≤ sh.dims.getD 0 0 && matFmt o.fmt) 0x3A
  eReq ((o.fmt != .ec8 || j0 % 128 == 0) && (o.fmt != .bf16 || bp % 2 == 0)) 0x3A
  if o.space = 2 && o.fmt != .ec8 then
    let at_ := o.addr [j0, k0]
    eAwaitX d { o with base := at_.toNat } [128, 128]
    eReq (0 ≤ at_ && s.opndIn d { o with base := at_.toNat } [128, 128]) 0x3A
  else eReq (spans.all fun x => s.spanIn d o.space o.base x.1 x.2) 0x3A
  let rows ← eTile d o k0 j0
  eWriteB d bp (tileSlots (portFmt o.fmt) d.ctx (BitVec.ofInt 8 o.scale) rows)
  pure ⟨0, 0, false⟩

/-- MLDB. -/
def execMldb (core : Nat) (s : State) : Out := .next (s.runHead core .mat 2 false (mldbBody core))

/-- Rows of a slot leave through a bank's format and scale to consecutive tile rows at an L offset (R92). -/
def epiRows (d : Doer) (a : AccSlot) (t : Ty) (sc : Int) (row off : Nat) : Nat → E Unit
  | 0 => pure ()
  | n + 1 => do
    let xs ← eCollect (a.row row) fun x => eCount (fconv t .near ((val .f32 x).scale (-sc)))
    eWrite d 1 off (xs.flatMap (toBytes (elemSize t)))
    epiRows d a t sc (row + 1) (off + 128 * elemSize t) n

/-- An epilogue: tile rows, the counter record after them, and the thresholds (R92, R93). -/
def epilogue (d : Doer) (p row n off tag : Nat) : E CmdEnd := do
  let s ← eState
  let c := s.core d.core
  let t := c.fmtAt (off / 0x1_0000)
  let mthr := c.mthr.toNat
  let a ← eAcc d p
  eReadRows d a row n
  epiRows d a t (c.scaleAt (off / 0x1_0000)) row off n
  let w : Work ← fun w => .ok (w, w)
  let sum := w.sat + w.nan * 2 ^ 16 + a.ovf * 2 ^ 32
  eWrite d 1 (off + n * 128 * elemSize t) (toBytes 16 (sum + tag * 2 ^ 48))
  let ovr := mthr % 2 ^ 16 < w.sat || mthr / 2 ^ 16 % 2 ^ 16 < w.nan || mthr / 2 ^ 32 % 2 ^ 16 < a.ovf
  pure ⟨if ovr then 0x36 else 0, sum, false⟩

/-- MEPI (R92, R93, R385). -/
def mepiBody (core : Nat) (c : Cmd) : E CmdEnd := do
  let d := c.doer core
  let r := c.record
  let (h, row0, n, off) := (recNum r 4 1, recNum r 6 1, recNum r 8 2, recNum r 12 4)
  eReq
    (flagsOk r 2 && h < 16 && row0 < 128 && 1 ≤ n && n ≤ 128 && off % 64 == 0 && reserved r 5 6 && reserved r 7 8 &&
      reserved r 10 12 && reserved r 16 64) 0x3A
  let s ← eState
  let bank := off / 0x1_0000
  let cr := s.core core
  let f := cr.fmtAt bank
  let last := off + n * 128 * elemSize f
  eHandle d h
  eDecl d off (last + 16 : Nat)
  eReq (row0 + n ≤ 128 && bank < cr.spbanks && f != .raw && f != .ec8) 0x3A
  eReq (last ≤ (bank + 1) * 0x1_0000 && last + 16 ≤ s.spadTop core) 0x3A
  let p ← eBound d h
  let e ← epilogue d p row0 n off (recTag r)
  if recFlag r 1 then eRelease d h
  pure e

/-- MEPI. -/
def execMepi (core : Nat) (s : State) : Out := .next (s.runHead core .mat 4 false (mepiBody core))

/-- MSPILL (R386, R458). -/
def mspillBody (core : Nat) (c : Cmd) : E CmdEnd := do
  let d := c.doer core
  let r := c.record
  let (kind, i, a) := (recNum r 4 1, recNum r 5 1, recNum r 8 8)
  eReq
    (flagsOk r 1 && kind < 2 && i < (if kind = 0 then 16 else 8) && a % 4096 == 0 && reserved r 6 8 &&
      reserved r 16 64) 0x3A
  if kind = 0 then eHandle d i
  let img ←
    if kind = 0 then do
      let p ← eBound d i
      let x ← eAcc d p
      eReadRows d x 0 128
      pure (handleImage i { x with owner := d.ctx })
    else do
      let b ← eOwnB d i
      pure (bImage i b)
  eEach (upFrom 0 ((img.length + 4095) / 4096)) fun u => do
    let _ ← eTranslate d .w ((a + 4096 * u) % 2 ^ 64)
  eWrite d 0 a img
  pure ⟨0, 0, false⟩

/-- MSPILL. -/
def execMspill (core : Nat) (s : State) : Out := .next (s.runHead core .mat 7 false (mspillBody core))

/-- MFILL (R386, R458). -/
def mfillBody (core : Nat) (c : Cmd) : E CmdEnd := do
  let d := c.doer core
  let r := c.record
  let (kind, i, a) := (recNum r 4 1, recNum r 5 1, recNum r 8 8)
  eReq
    (flagsOk r 1 && kind < 2 && i < (if kind = 0 then 16 else 8) && a % 4096 == 0 && reserved r 6 8 &&
      reserved r 16 64) 0x3A
  if kind = 0 then eHandle d i
  let bs ← eRead d 0 a (if kind = 0 then 65600 else 16960)
  let plane := bytesNum bs 2 1
  eReq (bytesNum bs 0 1 == kind && plane ≤ (if kind = 0 then 0 else 2) && (plane == 0 || i % 2 == plane - 1)) 0x3A
  if kind = 0 then
    let p ← eBind d i
    let x := accOfImage d.ctx bs
    eSetAcc d p x
    pure ⟨0, x.ovf, false⟩
  else
    match bOfImage d.ctx bs with
    | some b => eWriteB d i [b]
    | none => do
      eFillB d i
      eTakeB d i
      eMod fun s => s.modEng core fun e =>
        { e with bspilled := delNat e.bspilled i, bslots := erase e.bslots i }
    pure ⟨0, 0, false⟩

/-- MFILL. -/
def execMfill (core : Nat) (s : State) : Out := .next (s.runHead core .mat 8 false (mfillBody core))

/-! Soft errors -/

/-- CIM_PARITY_SCRUB: the read-back of the current core's compute-in-memory marks the slots with a failing row bad and counts
the rows (R94, R495). -/
def execCimParityScrub (s : State) : Out :=
  let found := (s.me.eng.bslots.flatMap fun b => b.2.hurt).length
  let s := s.modEng s.cur fun e =>
    { e with bslots := e.bslots.map fun b => if b.2.hurt = [] then b else (b.1, { b.2 with bad := true, hurt := [] }) }
  .next (s.modPkg (corePkg s.cur) fun p =>
    { p with counters := { p.counters with cimpar := (upFrom 0 found).foldl (fun n _ => bump n) p.counters.cimpar } })

/-- SOFT_ERROR: a bit of storage is corrupted of itself (R94, R10): which bit of a compute-in-memory slot is a free value
(log 8), and the parity of its row of 128 bytes fails from then on; a single error of the accumulators and the memory is
corrected, a double one marks the word or byte. -/
def execSoftError (t : SoftTarget) (s : State) : Out :=
  match t with
  | .cim k i =>
    match find? (s.core k).eng.bslots i with
    | some b =>
      let n := (Config.freeValue s.free).toNat % (16384 * 8)
      let x := look b.data 0 (n / 8) ^^^ BitVec.ofNat 8 (2 ^ (n % 8))
      .next ({ s with free := s.free + 1 }.modEng k fun e =>
        { e with bslots := insert e.bslots i { b with hurt := addNat b.hurt (n / 1024), data := put b.data 0 (n / 8) x } })
    | none => .next s
  | .acc k p w double =>
    match find? (s.core k).eng.acc p with
    | some a =>
      if double then
        .next (s.modEng k fun e => { e with acc := insert e.acc p { a with bad := addNat a.bad (w % 16384) } })
      else
        .next (s.modPkg (corePkg k) fun x =>
          { x with counters := { x.counters with accce := bump x.counters.accce } })
    | none => .next s
  | .mem pa double =>
    if double then .next { s with ue := addNat s.ue pa }
    else
      .next (s.modPkg (s.ownerOf (pa / 2 ^ 44)) fun x =>
        { x with counters := { x.counters with memce := bump x.counters.memce } })

end Sys2Proof.Machine
end

