-- ==== Sys2Proof/Machine/Media.lean ====
section
/-! DEFINITION. The die's media engine: VDEC and RSZ (07, R136 to R139; 18, R371, R391 to R393). -/

namespace Sys2Proof.Machine

/-- Who runs a command of the media queue. -/
def MedCmd.doer (c : MedCmd) (die : Nat) : Doer := ⟨c.core, c.ctx, c.handler, some die⟩

/-- Decoder context that a VDEC names. -/
def decCtx (r : LineBits) : Nat := recNum r 4 1

/-- A command of the media queue ends: it leaves the queue, and a grid-ending status stops its context's other commands
(R136, R371). -/
def State.endMed (s : State) (die idx : Nat) (c : MedCmd) (e : CmdEnd) : State :=
  let s := s.modDie die fun d => { d with med := removeAt d.med idx }
  let s := s.cmdEnds (c.doer die) .med c.record 0 e
  if endsGrid .med e.status then s.modDie die fun d => { d with medStop := addNat d.medStop c.ctx } else s

/-- Second half of the element of a VDEC that writes no picture: AUX is 0xFFFF_FFFF (R138). -/
def noPicture : Nat := 0xFFFF_FFFF * 2 ^ 32

/-- Run the `idx`-th command of a die's media queue, if its CODE is the one given, or no code of the queue and `first` (R369
step 1); a VDEC waits for the earlier ones of its decoder context (R136), and a command for the posted stores that its
pusher issued before it (R216).  A refused VDEC writes no picture. -/
def State.runMed (s : State) (die idx code : Nat) (first : Bool) (body : MedCmd → E CmdEnd) : State :=
  let d := s.die die
  match d.med[idx]? with
  | none => s
  | some c =>
    let behind := code == 0x40 && (d.med.take idx).any fun x =>
      recCode x.record == 0x40 && decCtx x.record == decCtx c.record
    if has d.medStop c.ctx then s
    else if recCode c.record = code then
      if behind || !(s.core c.core).performedTo c.after then s
      else
        match body c (.start s []) with
        | .ok (r, w) => w.st.endMed die idx c r
        | .error x =>
          if x.again then s.keepTlbs c.core x.work.st
          else (x.work.st.note x.note).endMed die idx c ⟨x.status, if code = 0x40 then noPicture else 0, false⟩
    else if first && !queueCode .med (recCode c.record) then s.endMed die idx c ⟨0x3A, 0, false⟩
    else s

/-! VDEC -/

/-- A decoder context as a VDEC finds it: opened anew by RESET, its output pictures numbered from 0 on (DESIGN CHOICE, log
10), else open for its CODEC; none where it may not run (R392). -/
def openFor (d : Die) (r : LineBits) : Option Decoder :=
  let codec := recNum r 5 1
  if recFlag r 1 then some ⟨codec, [], [], 0, false, 0, 0, false⟩
  else (find? d.decoders (decCtx r)).filter (·.codec = codec)

/-- Write the rows of one plane: `n` rows from row `y`, `w` samples of `bps` bytes. -/
def eWritePlane (d : Doer) (sample : Nat → Nat) (base pitch w bps : Nat) (y : Nat) : Nat → E Unit
  | 0 => pure ()
  | n + 1 => do
    eWrite d 0 ((base + y * pitch) % 2 ^ 64) ((upFrom (y * w) w).flatMap fun i => toBytes bps (sample i))
    eWritePlane d sample base pitch w bps (y + 1) n

/-- Check that the rows of one plane can be written. -/
def eCheckPlane (d : Doer) (base pitch w : Nat) (n : Nat) : E Unit :=
  eEach (upFrom 0 n) fun y => eCanWrite d 0 ((base + y * pitch) % 2 ^ 64) w

/-- Whether a stream is one of R137: its size even and within bounds, ten bits only for H.265 and AV1. -/
def streamOk (codec : Nat) (ten : Bool) (w h : Nat) : Bool :=
  w % 2 == 0 && h % 2 == 0 && 64 ≤ w && w ≤ 8192 && 64 ≤ h && h ≤ 4352 && (!ten || codec == 2 || codec == 3)

/-- A sample of a picture as its surface stores it: one of a block that could not be decoded is mid-grey (R138), and P010
holds the ten bits in the upper bits of two bytes (log 10). -/
def Decoder.sample (x : Decoder) (p plane i : Nat) : Nat :=
  let top := if x.ten then 1024 else 256
  let v := if x.corrupt && Config.codecLost x.codec x.bytes p plane i then top / 2
    else Config.codecSample x.codec x.bytes p plane i % top
  if x.ten then 64 * v else v

/-- VDEC (R138, R391, R392): what a codec makes of a unit, and the samples it decodes, are opaque (log 10).  A picture that
waits is written with the depth and the size of the newest unit; a corrupt one that readies no picture gives none (DESIGN
CHOICE, log 10). -/
def vdecBody (die : Nat) (c : MedCmd) : E CmdEnd := do
  let d := c.doer die
  let r := c.record
  let (codec, bs, len, pitch) := (recNum r 5 1, recNum r 8 8, recNum r 0x10 4, recNum r 0x14 4)
  let (ya, ca, rows) := (recNum r 0x18 8, recNum r 0x20 8, recNum r 0x28 2)
  eReq
    (flagsOk r 2 && decCtx r < 64 && 1 ≤ codec && codec ≤ 3 && len ≤ 2 ^ 26 && pitch % 64 == 0 && pitch ≤ 32768 &&
      ya % 4096 == 0 && ca % 4096 == 0 && 64 ≤ rows && rows ≤ 4352 && reserved r 6 8 && reserved r 0x2A 64) 0x3A
  let s ← eState
  match openFor (s.die die) r with
  | none => stop 0x3A
  | some x => do
    let unit ← if len = 0 then pure [] else eRead d 0 bs len
    let (verdict, ten, w, h, ready) :=
      if len = 0 then (0, x.ten, x.width, x.height, 0) else Config.codecUnit codec x.bytes unit
    eReq (verdict ≠ 1 && (len == 0 || (verdict == 2 && ready == 0) || streamOk codec ten w h)) 0x3A
    let (ten, w, h) := if verdict == 2 && ready == 0 then (x.ten, x.width, x.height) else (ten, w, h)
    let pend := x.pending ++ upFrom x.next ready
    let x : Decoder := ⟨codec, x.bytes ++ unit, pend.drop 1, x.next + ready, ten, w, h, x.corrupt || verdict == 2⟩
    let keep : E Unit := eMod fun s => s.modDie die fun d => { d with decoders := insert d.decoders (decCtx r) x }
    let st := if verdict = 2 then 0x3F else 0
    match pend with
    | [] => do
      keep
      pure ⟨st, noPicture, false⟩
    | p :: _ => do
      let bps := if ten then 2 else 1
      eReq (w * bps ≤ pitch && h ≤ rows) 0x3A
      eCheckPlane d ya pitch (w * bps) h
      eCheckPlane d ca pitch (w * bps) (h / 2)
      eWritePlane d (x.sample p 0) ya pitch w bps 0 h
      eWritePlane d (x.sample p 1) ca pitch w bps 0 (h / 2)
      keep
      pure ⟨st, p % 2 ^ 32 * 2 ^ 32 + 1, false⟩

/-- VDEC. -/
def execVdec (die idx : Nat) (s : State) : Out := .next (s.runMed die idx 0x40 true (vdecBody die))

/-! RSZ -/

/-- Read `n` rows of a plane's rectangle from row `y` on: `w` samples of `bps` bytes at column `x`. -/
def eReadPlane (d : Doer) (base pitch x w bps : Nat) (y n : Nat) : E (List Nat) := do
  let rs ← eCollect (upFrom y n) fun y => do
    let bs ← eRead d 0 ((base + y * pitch + x * bps) % 2 ^ 64) (w * bps)
    pure ((pieces bps w bs).map ofBytes)
  pure rs.flatten

/-- A rational number: numerator, and denominator, which is not zero. -/
structure Frac where
  num : Int
  den : Nat
deriving DecidableEq, Repr

/-- Sum of fractions. -/
def Frac.add (x y : Frac) : Frac := ⟨x.num * y.den + y.num * x.den, x.den * y.den⟩

/-- A fraction scaled by another. -/
def Frac.mul (x y : Frac) : Frac := ⟨x.num * y.num, x.den * y.den⟩

/-- An integer as a fraction. -/
def Frac.ofInt (x : Int) : Frac := ⟨x, 1⟩

/-- Taps around a position along one axis, as source index and weight: bilinear, or the 4-tap cubic of a = −0.5 (R139
stage 1). -/
def taps (cubic : Bool) (pos : Frac) : List (Int × Frac) :=
  let i := pos.num.fdiv pos.den
  let d : Int := pos.den
  let r := pos.num.fmod pos.den
  if cubic then
    let w := fun (n : Int) => (⟨n, 2 * pos.den ^ 3⟩ : Frac)
    [(i - 1, w (-(r ^ 3) + 2 * r ^ 2 * d - r * d ^ 2)), (i, w (3 * r ^ 3 - 5 * r ^ 2 * d + 2 * d ^ 3)),
      (i + 1, w (-(3 * r ^ 3) + 4 * r ^ 2 * d + r * d ^ 2)), (i + 2, w (r ^ 3 - r ^ 2 * d))]
  else [(i, ⟨d - r, pos.den⟩), (i + 1, ⟨r, pos.den⟩)]

/-- A plane of samples: its width, its height, and the sample at a column and a row. -/
structure Plane where
  w : Nat
  h : Nat
  samples : List Nat
deriving DecidableEq, Repr

/-- The sample at a column and a row; beyond the rectangle its edge repeats (R139 stage 1). -/
def Plane.at_ (p : Plane) (x y : Int) : Nat :=
  let clamp := fun (v : Int) (n : Nat) => min v.toNat (n - 1)
  p.samples.getD (clamp y p.h * p.w + clamp x p.w) 0

/-- A plane resampled at a position (R139 stage 1). -/
def Plane.resample (p : Plane) (cubic : Bool) (x y : Frac) : Frac :=
  (taps cubic y).foldl
    (fun a v => a.add (v.2.mul ((taps cubic x).foldl (fun a u => a.add (u.2.mul (.ofInt (p.at_ u.1 v.1)))) (.ofInt 0))))
    (.ofInt 0)

/-- Weights of red and blue in luma, over 10,000: BT.601, BT.709, BT.2020 (R139 stage 2; log 11). -/
def lumaWeights (matrix : Nat) : Int × Int := [(2990, 1140), (2126, 722), (2627, 593)].getD matrix (0, 0)

/-- R, G or B on the scale 0 to 1 from luma and chroma samples of `bits` bits, by the matrix and the range (R139 stage 2; log
11). -/
def rgbOf (matrix : Nat) (full : Bool) (bits : Nat) (y cb cr : Frac) (plane : Nat) : Frac :=
  let unit : Nat := 2 ^ (bits - 8)
  let ys : Frac := if full then y.mul ⟨1, 2 ^ bits - 1⟩ else (y.add (.ofInt (-(16 * unit)))).mul ⟨1, 219 * unit⟩
  let cs := fun (c : Frac) =>
    (c.add (.ofInt (-(128 * unit)))).mul ⟨1, if full then 2 ^ bits - 1 else 224 * unit⟩
  let (kr, kb) := lumaWeights matrix
  let kg : Nat := (10000 - kr - kb).toNat
  let red := (cs cr).mul ⟨2 * (10000 - kr), 10000⟩
  let blue := (cs cb).mul ⟨2 * (10000 - kb), 10000⟩
  match plane with
  | 0 => ys.add red
  | 1 => ys.add ((red.mul ⟨-kr, kg⟩).add (blue.mul ⟨-kb, kg⟩))
  | _ => ys.add blue

/-- A fraction as a value, exact for rounding to any format. -/
def Frac.val (x : Frac) : Val := (Val.ofInt x.num).div (Val.ofInt x.den)

/-- Whether an FP32 pattern can be what some order of the FP32 operations makes of an exact value on the scale 0 to `top`: it
differs by less than top · 2^-15, which 64 roundings of values up to 8 · top in magnitude stay within (log 11). -/
def rszNear (top : Nat) (v : Val) (x : Nat) : Bool :=
  let d := (val .f32 x).sub .near v
  let b := (Val.ofInt top).scale (-15)
  d.lt b && b.neg.lt d

/-- The FP32 value of one output sample of RSZ before its clamp, on the scale 0 to `top` (R139 stages 1 and 2): what the order
of the FP32 operations makes of it within their rounding errors, or its exact value rounded (log 11). -/
def rszValue (r : LineBits) (fmt top : Nat) (luma cb cr : Plane) (ow oh plane ox oy : Nat) : Nat :=
  let axis := fun (n out o : Nat) => (⟨(Config.rszPos n out o).1, (Config.rszPos n out o).2 + 1⟩ : Frac)
  let x := axis luma.w ow ox
  let y := axis luma.h oh oy
  let half : Frac := ⟨1, 2⟩
  let cx := x.mul half
  let cy := (y.add ⟨-1, 2⟩).mul half
  let cubic := recNum r 5 1 == 1
  let v := rgbOf (recNum r 6 1) (recNum r 7 1 == 1) (if recNum r 4 1 = 1 then 10 else 8) (luma.resample cubic x y)
    (cb.resample cubic cx cy) (cr.resample cubic cx cy) plane
  let exact := (v.mul (.ofInt top)).val
  let x := (Config.rszRounded (toBytes 64 r.toNat) fmt (luma.samples ++ cb.samples ++ cr.samples) plane ox oy).toNat
  if rszNear top exact x then x else (fconv .f32 .near exact).bits % 2 ^ 32

/-- An output value from its FP32 value: clamped to the nominal range and converted (R139 stage 3, R68). -/
def rszOut (o : Opnd) (top : Nat) (v : Nat) : Nat :=
  let x := val .f32 v
  let hi : Nat := if o.fmt == .bf16 then top else 255
  let y := if x.lt (Val.ofInt 0) then Val.ofInt 0 else if (Val.ofInt hi).lt x then Val.ofInt hi else x
  let z :=
    if o.fmt == .s8 then y.sub .near (Val.ofInt 128)
    else if o.fmt == .bf16 then val .f32 (fconv .f32 .near (y.div (Val.ofInt top))).bits
    else y
  (fconv o.fmt .near (z.scale (-o.scale))).bits

/-- RSZ (R139, R393). -/
def rszBody (die : Nat) (c : MedCmd) : E CmdEnd := do
  let d := c.doer die
  let r := c.record
  let (sfmt, pitch, x, y) := (recNum r 4 1, recNum r 0x18 4, recNum r 0x20 2, recNum r 0x22 2)
  let (w, h, dr, ds) := (recNum r 0x24 2, recNum r 0x26 2, recNum r 0x28 8, recNum r 0x30 1)
  eReq
    (flagsOk r 1 && sfmt < 2 && recNum r 5 1 < 2 && recNum r 6 1 < 3 && recNum r 7 1 < 2 && pitch % 64 == 0 &&
      pitch ≤ 32768 && x % 2 == 0 && y % 2 == 0 && w % 2 == 0 && 2 ≤ w && w ≤ 8192 && h % 2 == 0 && 2 ≤ h &&
      h ≤ 4352 && dr % 64 == 0 && has [0, 1, 3] ds && reserved r 0x1C 0x20 && reserved r 0x31 64) 0x3A
  if ds = 1 then eDecl d dr (dr + 192)
  let sh ← eShape d ds dr
  let s ← eState
  let o := s.opnd c.core sh
  eDeclOpnd d o true
  let bps := if sfmt = 1 then 2 else 1
  eReq
    (sh.rank == 3 && sh.dims.getD 2 0 == 3 && sh.dims.getD 0 0 ≤ 4096 && sh.dims.getD 1 0 ≤ 4096 &&
      sh.tiles == sh.dims && (o.fmt == .z8 || o.fmt == .s8 || o.fmt == .bf16)) 0x3A
  eReq ((x + w) * bps ≤ pitch) 0x3A
  eAwaitX d o o.tiles
  eReq (s.opndPlaced d o true) 0x3A
  let luma ← eReadPlane d (recNum r 8 8) pitch x w bps y h
  let chroma ← eReadPlane d (recNum r 0x10 8) pitch x w bps (y / 2) (h / 2)
  let value := fun (v : Nat) => if sfmt = 1 then v / 64 else v
  let part := fun (k : Nat) => (upFrom 0 (w / 2 * (h / 2))).map fun i => value (chroma.getD (2 * i + k) 0)
  let top := if sfmt = 1 then 1023 else 255
  let (ow, oh) := (o.tiles.getD 0 0, o.tiles.getD 1 0)
  eFor
    (fun i => do
      let ix := boxIndex o.tiles i
      let v := rszValue r o.fmt.code.toNat (if o.fmt == .bf16 then top else 255) ⟨w, h, luma.map value⟩
        ⟨w / 2, h / 2, part 0⟩ ⟨w / 2, h / 2, part 1⟩ ow oh (ix.getD 2 0) (ix.getD 0 0) (ix.getD 1 0)
      eWrite d o.space (spaceAddr (o.addr ix)) (toBytes o.esz (rszOut o top v)))
    0 (boxSize o.tiles)
  pure ⟨0, 0, false⟩

/-- RSZ. -/
def execRsz (die idx : Nat) (s : State) : Out := .next (s.runMed die idx 0x41 false (rszBody die))

end Sys2Proof.Machine
end

