-- ==== Sys2Proof/Machine/Miter.lean ====
section
/-! DEFINITION. Resident iteration on accumulator tiles: MITER and its phases (06, R98 to R116). -/

namespace Sys2Proof.Machine

/-! The record -/

/-- Whether a MITER is in FIX mode (R100). -/
def miterFix (r : LineBits) : Bool := recNum r 4 1 == 1

/-- Feedback format (R100). -/
def miterFF (r : LineBits) : Ty :=
  match recNum r 5 1 with
  | 0 => .e4m3
  | 1 => .e5m2
  | _ => .bf16

/-- CAP (R100). -/
def miterCap (r : LineBits) : Nat := recNum r 6 1

/-- L offset of the seed tile. -/
def miterSeed (r : LineBits) : Nat := recNum r 12 1 * 0x1_0000 + recNum r 14 2

/-- L offset of the destination tile. -/
def miterDest (r : LineBits) : Nat := recNum r 16 1 * 0x1_0000 + recNum r 18 2

/-- The values of R100, each field by itself (R101); a field whose flag is 0 is ignored. -/
def miterFields (r : LineBits) : Bool :=
  let fix := miterFix r
  let h := fun o => if fix then recNum r o 1 < 16 else recNum r o 1 == 0xFF
  flagsOk r 4 && recNum r 4 1 < 2 && recNum r 5 1 < 3 && 1 ≤ miterCap r && (fix || miterCap r ≤ 15) &&
    recNum r 7 1 < 8 && recNum r 8 1 < 16 && h 9 && h 10 && reserved r 11 12 && reserved r 13 14 &&
    reserved r 17 18 && reserved r 20 64 &&
    (!recFlag r 1 || (recNum r 12 1 < 14 && recNum r 14 2 % 256 == 0)) &&
    (!recFlag r 2 || (recNum r 16 1 < 14 && recNum r 18 2 % 256 == 0))

/-- Plane of a context's B slot, loaded or spilled. -/
def State.planeOf (s : State) (d : Doer) (i : Nat) : Nat :=
  let e := (s.core d.core).eng
  if has e.bspilled i then s.num (s.slotImage d.core true i + 2) 1
  else (((find? e.bslots i).filter (·.owner = d.ctx)).map (·.plane)).getD 0

/-- The checks of R101 and the handles of a FIX without seed, in their order (R369).  The declaration check of a seed or
destination tile in a raw or EC8 bank takes one byte an element, since no rule gives another extent (log 67). -/
def miterChecks (d : Doer) (r : LineBits) : E Unit := do
  eReq (miterFields r) 0x3A
  let s ← eState
  let c := s.core d.core
  let fix := miterFix r
  let (hx, hw, hs) := (recNum r 8 1, recNum r 9 1, recNum r 10 1)
  let (seed, depi) := (recFlag r 1, recFlag r 2)
  let bp := recNum r 7 1
  let fs := c.fmtAt (recNum r 12 1)
  let fd := c.fmtAt (recNum r 16 1)
  let size := fun (t : Ty) => 16384 * elemSize t
  eHandle d hx
  if fix then
    eHandle d hw
    eHandle d hs
  if seed then eDecl d (miterSeed r) (miterSeed r + size fs : Nat)
  if depi then eDecl d (miterDest r) (miterDest r + size fd + 16 : Nat)
  eReq (!fix || (hx != hw && hx != hs && hw != hs)) 0x3A
  eReq (fix || !seed) 0x3A
  eReq (!fix || miterFF r != .bf16 || bp % 2 == 0) 0x3A
  eReq (fix || s.planeOf d bp != 2) 0x3A
  eReq
    (!seed || (fs != .raw && fs != .ec8 && recNum r 12 1 < c.spbanks && recNum r 14 2 + size fs ≤ 0x1_0000)) 0x3A
  eReq
    (!depi || (fd != .raw && fd != .ec8 && recNum r 18 2 + size fd ≤ 0x1_0000 &&
      miterDest r + size fd + 16 ≤ s.spadTop d.core)) 0x3A
  eReq (!fix || seed || (find? c.eng.handles hx).isSome) 0x38

/-- Second half of a MITER's element (R109): a FIX that ends before its first test reports +∞ (R110). -/
def LoopState.element (l : LoopState) : Nat := l.res.toNat + l.iter * 2 ^ 32 + l.cnt * 2 ^ 48

/-- MITER: the command begins with its checks (R101, R369); its phases follow. -/
def execMiter (core : Nat) (s : State) : Out :=
  let e := (s.core core).eng
  match e.mat with
  | [] => .next s
  | c :: rest =>
    if e.matStop || c.begun || recCode c.record ≠ 5 || !(s.core core).performedTo c.after then .next s
    else
      match miterChecks (c.doer core) c.record (.start s []) with
      | .ok ((), w) => .next (w.st.setQueue core .mat ({ c with begun := true } :: rest))
      | .error x =>
        .next ((x.work.st.note x.note).endHead core .mat c 0 ⟨x.status, (c.loop.map LoopState.element).getD 0, false⟩)

/-! The feedback path -/

/-- A row of FP32 elements through the feedback path; what the conversions count goes to CNT (R98). -/
def feedRow (t : Ty) (xs : List Nat) : E (List Nat) := eCollect xs fun x => eCount (fconv t .near (val .f32 x))

/-- Words of a slot are read: a double-bit error among them ends the command (R94, R98). -/
def eReadCols (d : Doer) (a : AccSlot) (col n : Nat) : E Unit :=
  eReadWords d a fun w => col ≤ w % 128 && w % 128 < col + n

/-- FeedB(T, FF): a tile becomes the B slot, or pair, at BP (R99). -/
def feedB (d : Doer) (t : Ty) (h bp : Nat) : E Unit := do
  let p ← eBound d h
  let a ← eAcc d p
  eReadRows d a 0 128
  let rows ← eCollect (upFrom 0 128) fun i => feedRow t (a.row i)
  eWriteB d bp (tileSlots t d.ctx 0 rows)

/-- Rows `lo` to `lo` + 63 of Product(FeedA(T, FF), B[BP]); `tr` delivers the transpose (R106).  In place, a row is
replaced once it has been read; into another tile, the first half sets the tile to +0.0 with overflow count zero, and the
second reads the rows it adds to, as an MMUL does (R94).  Where several fail, a double-bit error of the A tile comes first,
then a bad B slot, then a destination that cannot be bound (DESIGN CHOICE, log 72). -/
def productHalf (d : Doer) (t : Ty) (tr : Bool) (src dst bp lo : Nat) : E Unit := do
  let p ← eBound d src
  let a ← eAcc d p
  if tr then eReadCols d a lo 64 else eReadRows d a lo 64
  eReadB d bp
  let rows ← eCollect (upFrom lo 64) fun i =>
    feedRow t (if tr then (upFrom 0 128).map fun k => (look a.data 0 (128 * k + i)).toNat else a.row i)
  let q ← eBind d dst
  let x ← eAcc d q
  if src ≠ dst ∧ lo ≠ 0 then eReadRows d x lo 64
  let s ← eState
  let b := (s.core d.core).eng.bView d.ctx bp
  let base : AccSlot :=
    if src = dst then (upFrom lo 64).foldl (fun (x : AccSlot) i => x.setRow i (List.replicate 128 0)) x
    else if lo = 0 then ⟨x.owner, 0, [], []⟩
    else x
  eSetAcc d q (macRows base lo t 0 b rows)

/-! The phases -/

/-- Coefficient i as an exact value (R102). -/
def State.coeff (s : State) (d : Doer) (i : Nat) : Val := val .f32 ((s.core d.core).regs.rq i).toNat

/-- The residual of S: max |RoundNE(S − I)|, a NaN for a NaN (R104). -/
def residual (a : AccSlot) : Nat :=
  let xs := (upFrom 0 16384).map fun n =>
    let x := val .f32 (look a.data 0 n).toNat
    (fconv .f32 .near (x.sub .near (Val.ofInt (if n / 128 = n % 128 then 1 else 0)))).bits % 2 ^ 31
  if xs.any fun x => 0x7F80_0000 < x then (fmtOf .f32).nanBits else xs.foldl max 0

/-- What TEST decides (R105): go on, diverge, converge, cap. -/
inductive Verdict where
  | goOn | diverge | done | cap
deriving DecidableEq, Repr

/-- TestResidual (R105). -/
def testResidual (s : State) (d : Doer) (l : LoopState) (cap r : Nat) : Verdict :=
  let x := val .f32 r
  if x.isNan || (s.coeff d 5).lt x then .diverge
  else if 0 < l.iter && ((s.coeff d 4).mul (val .f32 l.res.toNat)).lt x then .diverge
  else if x.lt (s.coeff d 3) || x.same (s.coeff d 3) then .done
  else if l.iter = cap then .cap
  else .goOn

/-- Element of phase W: q0·δ + q1·S + q2·W, an exact sum rounded once (R104). -/
def phaseW (q0 q1 q2 : Val) (n x y : Nat) : Nat :=
  let one := Val.ofInt (if n / 128 = n % 128 then 1 else 0)
  let sum := ((q0.mul one).add .near (q1.mul (val .f32 x))).add .near (q2.mul (val .f32 y))
  (fconv .f32 .near sum).bits

/-- Count conversions of a phase into CNT (R98, R104). -/
def LoopState.counted (l : LoopState) (w : Work) : LoopState := { l with cnt := min 0xFFFF (l.cnt + w.sat + w.nan) }

/-- The loop leaves with a status: phase EPI, or the end (R108). -/
def leaveLoop (r : LineBits) (l : LoopState) (st : Nat) : LoopState × Option CmdEnd :=
  if recFlag r 2 || recFlag r 3 then ({ l with phase := 12 }, none) else (l, some ⟨st, l.element, false⟩)

/-- The status with which the loop left, in phase EPI (R105). -/
def loopStatus (s : State) (d : Doer) (r : LineBits) (l : LoopState) : Nat :=
  let x := val .f32 l.res.toNat
  if miterFix r && !(x.lt (s.coeff d 3) || x.same (s.coeff d 3)) then 0x3B else 0

/-- Phase EPI (R108). -/
def phaseEpi (d : Doer) (r : LineBits) (l : LoopState) : E (LoopState × Option CmdEnd) := do
  let s ← eState
  let st := loopStatus s d r l
  let ovr ←
    if recFlag r 2 then do
      let p ← eBound d l.hx
      let e ← epilogue d p 0 128 (miterDest r) (recTag r)
      pure (e.status == 0x36)
    else pure false
  if recFlag r 3 && miterFix r then
    eRelease d l.hw
    eRelease d l.hs
  pure (l, some ⟨if ovr then 0x36 else st, l.element, false⟩)

/-- Phase SEED: X from its bank, each element converted to FP32 (R104). -/
def phaseSeed (d : Doer) (r : LineBits) (l : LoopState) : E Unit := do
  let s ← eState
  let c := s.core d.core
  let k := recNum r 12 1
  let t := c.fmtAt k
  let bs ← eSpad d.core (miterSeed r) (16384 * elemSize t)
  let xs ← eCollect ((pieces (elemSize t) 16384 bs).map ofBytes) fun x =>
    eCount (fconv .f32 .near ((val t x).scale (c.scaleAt k)))
  let p ← eBind d l.hx
  let a ← eAcc d p
  eSetAcc d p { a with data := sparse 0 (xs.map fun x => BitVec.ofNat 32 x) , bad := [] }

/-- Change the diagonal of a slot. -/
def AccSlot.diagonal (a : AccSlot) (f : Nat → Nat) : AccSlot :=
  let g := fun (m : List (Nat × BitVec 32)) (j : Nat) =>
    put m 0 (129 * j) (BitVec.ofNat 32 (f (look m 0 (129 * j)).toNat))
  { a with data := (upFrom 0 128).foldl g a.data }

/-- Set or change the diagonal of HX (R103). -/
def onDiagonal (d : Doer) (h : Nat) (f : Nat → Nat) : E Unit := do
  let p ← eBind d h
  let a ← eAcc d p
  eSetAcc d p (a.diagonal f)

/-- Phase TEST (R104, R105). -/
def phaseTest (d : Doer) (r : LineBits) (l : LoopState) : E (LoopState × Option CmdEnd) := do
  let p ← eBound d l.hs
  let a ← eAcc d p
  eReadRows d a 0 128
  let s ← eState
  let x := residual a
  let l' := { l with res := BitVec.ofNat 32 x }
  match testResidual s d l (miterCap r) x with
  | .diverge => pure (l', some ⟨0x39, l'.element, true⟩)
  | .done => pure (leaveLoop r l' 0)
  | .cap => pure (leaveLoop r l' 0x3B)
  | .goOn => pure ({ l' with phase := if (s.core d.core).regs.rq 2 &&& 0x7FFF_FFFF = 0 then 8 else 5 }, none)

/-- Phase W (R104); with γ zero W starts as zero. -/
def phaseWRun (d : Doer) (l : LoopState) : E Unit := do
  let s ← eState
  let zero := (s.core d.core).regs.rq 2 &&& 0x7FFF_FFFF = 0
  let ps ← eBound d l.hs
  let x ← eAcc d ps
  eReadRows d x 0 128
  let pw ← eBind d l.hw
  let y ← eAcc d pw
  if !zero then eReadRows d y 0 128
  let (q0, q1, q2) := (s.coeff d 0, s.coeff d 1, s.coeff d 2)
  let data := (upFrom 0 16384).map fun n =>
    BitVec.ofNat 32 (phaseW q0 q1 q2 n (look x.data 0 n).toNat (if zero then 0 else (look y.data 0 n).toNat))
  eSetAcc d pw { y with data := sparse 0 data, bad := [] }

/-- One phase, and the phase that follows or the end (R103, R104, R107). -/
def phaseBody (d : Doer) (r : LineBits) (l : LoopState) : E (LoopState × Option CmdEnd) := do
  let t := miterFF r
  let s ← eState
  let go := fun (n : Nat) => (({ l with phase := n }, none) : LoopState × Option CmdEnd)
  match l.phase with
  | 0 => do phaseSeed d r l; pure (go 1)
  | 1 => do feedB d t l.hx l.bp; pure (go 2)
  | 2 => do productHalf d t true l.hx l.hs l.bp 0; pure (go 3)
  | 3 => do productHalf d t true l.hx l.hs l.bp 64; pure (go 4)
  | 4 => phaseTest d r l
  | 5 => do feedB d t l.hs l.bp; pure (go 6)
  | 6 => do productHalf d t false l.hs l.hw l.bp 0; pure (go 7)
  | 7 => do productHalf d t false l.hs l.hw l.bp 64; pure (go 8)
  | 8 => do phaseWRun d l; pure (go 9)
  | 9 => do feedB d t l.hw l.bp; pure (go 10)
  | 10 => do productHalf d t false l.hx l.hx l.bp 0; pure (go 11)
  | 11 => do
    productHalf d t false l.hx l.hx l.bp 64
    pure ({ l with phase := 1, iter := l.iter + 1 }, none)
  | 12 => phaseEpi d r l
  | 16 => do
    let p ← eBind d l.hx
    let a ← eAcc d p
    eSetAcc d p { a with data := [], bad := [] }
    onDiagonal d l.hx fun _ => ((s.core d.core).regs.rq (miterCap r)).toNat
    pure (go 17)
  | 17 => do productHalf d t false l.hx l.hx l.bp 0; pure (go 18)
  | 18 => do productHalf d t false l.hx l.hx l.bp 64; pure (go 19)
  | 19 => do
    let p ← eBound d l.hx
    let a ← eAcc d p
    eReadWords d a fun w => w % 129 == 0
    let q := s.coeff d (miterCap r - 1 - l.iter)
    onDiagonal d l.hx fun x => (fconv .f32 .near ((val .f32 x).add .near q)).bits
    let l := { l with iter := l.iter + 1, phase := 17 }
    if l.iter = miterCap r then pure (leaveLoop r l 0) else pure (l, none)
  | _ => pure (l, none)

/-- MITER_PHASE: the running MITER of a core runs its next phase (R107, R110). -/
def execMiterPhase (core : Nat) (s : State) : Out :=
  let e := (s.core core).eng
  match e.mat with
  | [] => .next s
  | c :: rest =>
    match c.loop with
    | none => .next s
    | some l =>
      if e.matStop || !c.begun then .next s
      else
        match phaseBody (c.doer core) c.record l (.start s c.missed) with
        | .ok ((l', none), w) =>
          let l' := l'.counted w
          let l' := if l.saved then l'.withSlots c.ctx (w.st.core core).eng else l'
          .next (w.st.setQueue core .mat ({ c with loop := some l', missed := w.missed } :: rest))
        | .ok ((_, some x), w) => .next (w.st.endHead core .mat c 0 x)
        | .error x =>
          if x.again then .next (s.keepTlbs core x.work.st)
          else .next ((x.work.st.note x.note).endHead core .mat c 0 ⟨x.status, (l.counted x.work).element, false⟩)

end Sys2Proof.Machine
end

