-- ==== Sys2Proof/Machine/Pack.lean ====
section
/-! DEFINITION. Doubly compressed tiles: PACK and UNPACK (07, R130 to R134; 18, R389), and FETCHR (07, R135; 18,
R390). -/

namespace Sys2Proof.Machine

/-! The header -/

/-- Header of a doubly compressed tile matrix (R130), with its G address. -/
structure TileHdr where
  addr  : Nat
  rows  : Nat
  cols  : Nat
  fmt   : Nat
  scale : Int
  lock  : Nat
  nt : Nat
  nr : Nat
  nnz : Nat
  capt : Nat
  capr : Nat
  cape : Nat
  coord : Nat
  tptr : Nat
  ridx : Nat
  rptr : Nat
  cidx : Nat
  vals : Nat
  zero : Bool
deriving DecidableEq, Repr

/-- The header in 64 bytes. -/
def tileHdr (a : Nat) (bs : List Byte) : TileHdr :=
  let n := fun o => bytesNum bs o 4
  { addr := a, rows := n 0, cols := n 4, fmt := bytesNum bs 8 1, scale := toSigned 8 (bytesNum bs 9 1)
    lock := bytesNum bs 10 1, nt := n 0x0C, nr := n 0x10, nnz := n 0x14, capt := n 0x18, capr := n 0x1C
    cape := n 0x20, coord := n 0x28, tptr := n 0x2C, ridx := n 0x30, rptr := n 0x34, cidx := n 0x38, vals := n 0x3C
    zero := bytesNum bs 11 1 == 0 && n 0x24 == 0 }

/-- Element type of a matrix. -/
def TileHdr.ty (h : TileHdr) : Ty := Ty.ofCode (BitVec.ofNat 4 h.fmt)

/-- Whether a header meets R130. -/
def TileHdr.ok (h : TileHdr) : Bool :=
  h.addr % 64 == 0 && 1 ≤ h.rows && h.rows ≤ 2 ^ 31 && 1 ≤ h.cols && h.cols ≤ 2 ^ 31 && 1 ≤ h.fmt && h.fmt < 16 &&
    h.fmt != 7 && h.lock < 2 && h.zero && h.nt ≤ h.capt && h.nr ≤ h.capr && h.nnz ≤ h.cape && h.coord % 4 == 0 &&
    h.tptr % 4 == 0 && h.rptr % 4 == 0 && h.vals % elemSize h.ty == 0

/-- The dense side of a PACK or UNPACK: its offset, format and scale. -/
structure Dense where
  off   : Nat
  fmt   : Ty
  scale : Int
deriving DecidableEq, Repr

/-- Dense tile of a record (R389). -/
def Core.dense (c : Core) (r : LineBits) : Dense :=
  let off := recNum r 0x18 4
  ⟨off, c.fmtAt (off / 0x1_0000), c.scaleAt (off / 0x1_0000)⟩

/-- G address of a byte of the matrix. -/
def TileHdr.at_ (h : TileHdr) (off : Nat) : Nat := (h.addr + off) % 2 ^ 64

/-- A little-endian number of the matrix. -/
def eNumAt (d : Doer) (h : TileHdr) (off n : Nat) : E Nat := do
  let bs ← eRead d 0 (h.at_ off) n
  pure (ofBytes bs)

/-- Fields, declaration and the first step of PACK and UNPACK (R132 step 1, R134, R369, R389): the header. -/
def tileChecks (d : Doer) (r : LineBits) : E TileHdr := do
  let s ← eState
  let t := (s.core d.core).dense r
  eReq (flagsOk r 1 && reserved r 4 8 && t.off % 256 == 0 && reserved r 0x1C 64) 0x3A
  let last := t.off + 16384 * elemSize t.fmt
  eDecl d t.off last
  eReq (last ≤ s.spadTop d.core && (last - 1) / 0x1_0000 == t.off / 0x1_0000) 0x3A
  eReq (t.fmt != .raw && t.fmt != .ec8) 0x3A
  let a := recNum r 8 8
  let bs ← eRead d 0 a 64
  let h := tileHdr a bs
  eReq (128 * recNum r 0x10 4 < h.rows && 128 * recNum r 0x14 4 < h.cols) 0x3A
  pure h

/-- Key of a coordinate entry (R131). -/
def coordKey (x : Nat) : Nat := x % 2 ^ 16 * 2 ^ 16 + x / 2 ^ 16 % 2 ^ 16

/-! PACK -/

/-- Stored elements of one row: column and encoding (R132 step 4). -/
def packRow (d : Doer) (h : TileHdr) (t : Dense) (tr tc i : Nat) : E (List (Nat × Nat)) := do
  if 128 * tr + i < h.rows then
    let n := min 128 (h.cols - 128 * tc)
    let bs ← eSpad d.core (t.off + 128 * i * elemSize t.fmt) (n * elemSize t.fmt)
    let xs ← eCollect ((pieces (elemSize t.fmt) n bs).map ofBytes) fun x =>
      eCount (fconv h.ty .near ((val t.fmt x).scale (t.scale - h.scale)))
    pure ((xs.zipIdx.map fun x => (x.2, x.1)).filter fun x => x.2 != 0)
  else pure []

/-- Running totals after each list of a list. -/
def totals (n : Nat) : List (List (Nat × Nat)) → List Nat
  | [] => []
  | x :: r => (n + x.length) :: totals (n + x.length) r

/-- A free value for a command (log 8). -/
def eFree : E Word := fun w => .ok (Config.freeValue w.st.free, { w with st := { w.st with free := w.st.free + 1 } })

/-- Coordinate entry of a tile (R131); a coordinate beyond its 16 bits has no stated entry (log 8). -/
def coordWord (tr tc : Nat) : E Nat :=
  if tr < 2 ^ 16 ∧ tc < 2 ^ 16 then pure (tr + tc * 2 ^ 16)
  else do
    let x ← eFree
    pure (x.toNat % 2 ^ 32)

/-- Steps 2 to 7 of PACK (R132). -/
def packSteps (d : Doer) (r : LineBits) (h : TileHdr) : E Unit := do
  let s ← eState
  let t := (s.core d.core).dense r
  let (tr, tc) := (recNum r 0x10 4, recNum r 0x14 4)
  eReq h.ok 0x3E
  if 0 < h.nt then
    let x ← eNumAt d h (h.coord + 4 * (h.nt - 1)) 4
    eReq (coordKey x < tr * 2 ^ 16 + tc) 0x3C
  let rows ← eCollect (upFrom 0 128) fun i => do
    let x ← packRow d h t tr tc i
    pure (i, x)
  let rows := rows.filter fun x => !x.2.isEmpty
  let elems := rows.flatMap (·.2)
  if elems.isEmpty then pure ()
  else
    eReq (h.nt + 1 ≤ h.capt && h.nr + rows.length ≤ h.capr && h.nnz + elems.length ≤ h.cape) 0x3D
    let n := elemSize h.ty
    eWrite d 0 (h.at_ (h.vals + n * h.nnz)) (elems.flatMap fun x => toBytes n x.2)
    eWrite d 0 (h.at_ (h.cidx + h.nnz)) (elems.map fun x => BitVec.ofNat 8 x.1)
    eWrite d 0 (h.at_ (h.rptr + 4 * (h.nr + 1))) ((totals h.nnz (rows.map (·.2))).flatMap (toBytes 4))
    eWrite d 0 (h.at_ (h.ridx + h.nr)) (rows.map fun x => BitVec.ofNat 8 x.1)
    eWrite d 0 (h.at_ (h.tptr + 4 * (h.nt + 1))) (toBytes 4 (h.nr + rows.length))
    let c ← coordWord tr tc
    eWrite d 0 (h.at_ (h.coord + 4 * h.nt)) (toBytes 4 c)
    eWrite d 0 (h.at_ 0x0C)
      (toBytes 4 (h.nt + 1) ++ toBytes 4 (h.nr + rows.length) ++ toBytes 4 (h.nnz + elems.length))
    eAux elems.length

/-- What comes before the BUSY of a PACK is set: its checks, and the atomic's need to read and write the header's byte
(R133, R468). -/
def packLock (d : Doer) (r : LineBits) : E TileHdr := do
  let h ← tileChecks d r
  let _ ← eTranslate d .rw ((h.addr + 10) % 2 ^ 64)
  pure h

/-- Whether a PACK at the head of a core's copy queue would wait for BUSY (R133). -/
def State.packWaits (s : State) (core : Nat) : Bool :=
  match (s.core core).eng.cpy with
  | c :: _ =>
    recCode c.record == 0x22 &&
      match packLock (c.doer core) c.record (.start s c.missed) with
      | .ok (h, _) => h.lock % 2 == 1
      | .error _ => false
  | [] => false

/-- PACK sets BUSY, appends the tile and clears BUSY (R132, R133, R389). -/
def packBody (core : Nat) (c : Cmd) : E CmdEnd := do
  let d := c.doer core
  let h ← packLock d c.record
  eWrite d 0 (h.at_ 10) [BitVec.ofNat 8 h.lock]
  packSteps d c.record h
  let w : Work ← fun w => .ok (w, w)
  pure ⟨0, w.copyHi, false⟩

/-- PACK: it waits unbegun while BUSY is set (R133). -/
def execPack (core : Nat) (s : State) : Out :=
  if s.packWaits core then .next s else .next (s.runHead core .cpy 0x22 false (packBody core))

/-! UNPACK -/

/-- The binary search of R134. -/
def tileSearch (d : Doer) (h : TileHdr) (key : Nat) : Nat → Nat → Nat → E Nat
  | 0, lo, _ => pure lo
  | fuel + 1, lo, hi =>
    if lo < hi then do
      let mid := (lo + hi) / 2
      let x ← eNumAt d h (h.coord + 4 * mid) 4
      if coordKey x < key then tileSearch d h key fuel (mid + 1) hi else tileSearch d h key fuel lo mid
    else pure lo

/-- Whether numbers rise strictly below 128 (R131). -/
def rising : Nat → List Nat → Bool
  | _, [] => true
  | lo, x :: r => lo ≤ x && x < 128 && rising (x + 1) r

/-- The elements of row entry `r` of a found tile, checked against R131: row, column, encoding. -/
def tileRow (d : Doer) (h : TileHdr) (r : Nat) : E (Nat × List (Nat × Nat)) := do
  let i ← eNumAt d h (h.ridx + r) 1
  let a ← eNumAt d h (h.rptr + 4 * r) 4
  let b ← eNumAt d h (h.rptr + 4 * (r + 1)) 4
  eReq ((r != 0 || a == 0) && (r + 1 != h.nr || b == h.nnz)) 0x3E
  eReq (a ≤ b && b ≤ h.nnz && b - a ≤ 128) 0x3E
  let n := elemSize h.ty
  let cs ← eRead d 0 (h.at_ (h.cidx + a)) (b - a)
  eReq (rising 0 (cs.map BitVec.toNat)) 0x3E
  let vs ← eRead d 0 (h.at_ (h.vals + n * a)) (n * (b - a))
  pure (i, (cs.map BitVec.toNat).zip ((pieces n (b - a) vs).map ofBytes))

/-- The elements of tile `t`, by 128 · row + column (R131, R134). -/
def tileElems (d : Doer) (h : TileHdr) (t : Nat) : E (List (Nat × Nat)) := do
  let a ← eNumAt d h (h.tptr + 4 * t) 4
  let b ← eNumAt d h (h.tptr + 4 * (t + 1)) 4
  eReq ((t != 0 || a == 0) && (t + 1 != h.nt || b == h.nr)) 0x3E
  eReq (a ≤ b && b ≤ h.nr && b - a ≤ 128) 0x3E
  let rows ← eCollect (upFrom a (b - a)) (tileRow d h)
  eReq (rising 0 (rows.map (·.1))) 0x3E
  pure (rows.flatMap fun r => r.2.map fun c => (128 * r.1 + c.1, c.2))

/-- UNPACK (R134, R389). -/
def unpackBody (core : Nat) (c : Cmd) : E CmdEnd := do
  let d := c.doer core
  let r := c.record
  let h ← tileChecks d r
  eReq h.ok 0x3E
  let s ← eState
  let t := (s.core core).dense r
  let key := recNum r 0x10 4 * 2 ^ 16 + recNum r 0x14 4
  let lo ← tileSearch d h key 33 0 h.nt
  let found ←
    if lo < h.nt then do
      let x ← eNumAt d h (h.coord + 4 * lo) 4
      pure (x == recNum r 0x10 4 + recNum r 0x14 4 * 2 ^ 16)
    else pure false
  let es ← if found then tileElems d h lo else pure []
  let es ← eCollect es fun e => do
    let x ← eCount (fconv t.fmt .near ((val h.ty e.2).scale (h.scale - t.scale)))
    pure (e.1, x)
  eWrite d 1 t.off ((upFrom 0 16384).flatMap fun n => toBytes (elemSize t.fmt) (look es 0 n))
  eAux es.length
  let w : Work ← fun w => .ok (w, w)
  pure ⟨0, w.copyHi, false⟩

/-- UNPACK. -/
def execUnpack (core : Nat) (s : State) : Out := .next (s.runHead core .cpy 0x23 false (unpackBody core))

/-! FETCHR -/

/-- 4 KiB units of a FETCHR (R390). -/
def fetchUnits (r : LineBits) : Nat := (recNum r 16 4 + 4095) / 4096

/-- The checks of a FETCHR and the translation of its destination (R135, R369, R390). -/
def fetchChecks (d : Doer) (r : LineBits) : E (List FetchUnit) := do
  let (win, off, len, dst) := (recNum r 4 2, recNum r 8 8, recNum r 16 4, recNum r 24 8)
  eReq
    (flagsOk r 1 && win < 256 && 1 ≤ len && len ≤ 2 ^ 30 && dst % 4096 == 0 && reserved r 6 8 && reserved r 20 24 &&
      reserved r 32 64) 0x3A
  let s ← eState
  match find? (s.pkg (corePkg d.core)).windows win with
  | none => stop 0x3A
  | some w => do
    eReq (off + len ≤ w.len) 0x3A
    eCollect (upFrom 0 (fetchUnits r)) fun u => do
      let (pa, l) ← eTranslate d .w ((dst + 4096 * u) % 2 ^ 64)
      let ok := match region (pa % 2 ^ 44) with
        | .hbm | .vault .. => !l.f
        | _ => false
      eReq ok 0x3A
      pure ⟨u, pa, l.pr⟩

/-- FETCHR: the command begins; its units arrive in any order (R135). -/
def execFetchr (core : Nat) (s : State) : Out :=
  let e := (s.core core).eng
  match e.cpy with
  | [] => .next s
  | c :: rest =>
    if e.cpyStop || c.begun || recCode c.record ≠ 0x26 || !(s.core core).performedTo c.after then .next s
    else
      match fetchChecks (c.doer core) c.record (.start s []) with
      | .ok (us, w) => .next (w.st.setQueue core .cpy ({ c with begun := true, units := us } :: rest))
      | .error x =>
        if x.again then .next (s.keepTlbs core x.work.st)
        else .next ((x.work.st.note x.note).endHead core .cpy c 0 ⟨x.status, 0, false⟩)

/-- The first copy command of a core, if it is a FETCHR whose reads are under way. -/
def State.fetching (s : State) (core : Nat) : Option (Cmd × List Cmd) :=
  match (s.core core).eng.cpy with
  | c :: rest => if c.begun && recCode c.record == 0x26 then some (c, rest) else none
  | [] => none

/-- FETCHR_UNIT_ARRIVAL: a unit is written at its homes, whole (R135, R390), once none of them defers it (R494); with the
last the command completes. -/
def execFetchrUnitArrival (core unit : Nat) (s : State) : Out :=
  match s.fetching core with
  | none => .next s
  | some (c, rest) =>
    match c.units.find? (·.unit = unit) with
    | none => .next s
    | some u =>
      let r := c.record
      let n := min 4096 (recNum r 16 4 - 4096 * unit)
      let data := s.winBytes (corePkg core) (recNum r 4 2) (recNum r 8 8 + 4096 * unit) n
      match s.answer (c.doer core).who .engine u.pa n with
      | (0, _) =>
        if (upFrom (u.pa / 64) ((n + 63) / 64)).any (s.defers u.prot) then .next s
        else
        let s := s.homeBytes (some core) u.prot u.pa data
        let us := c.units.filter (·.unit ≠ unit)
        if us.isEmpty then .next (s.endHead core .cpy c 0 ⟨0, fetchUnits r * 2 ^ 32, false⟩)
        else .next (s.setQueue core .cpy ({ c with units := us } :: rest))
      | (st, note) => .next ((s.note note).endHead core .cpy c 0 ⟨engineStatus st, 0, false⟩)

/-- FETCHR_READ_TIMEOUT: a read that fails or does not complete ends the command (R135, R439). -/
def execFetchrReadTimeout (core : Nat) (s : State) : Out :=
  match s.fetching core with
  | none => .next s
  | some (c, _) =>
    .next (s.endHead core .cpy c 0 ⟨0x5A, (fetchUnits c.record - c.units.length) * 2 ^ 32, false⟩)

end Sys2Proof.Machine
end

