-- ==== Sys2Proof/Machine/Preempt.lean ====
section
/-! DEFINITION. Suspension into a context image and resumption from it (22, R454 to R460; 05, R95, R96; 06, R110 to R113;
12, R233, R234). -/

namespace Sys2Proof.Machine

/-! The image -/

/-- Loop state of a MITER in a queue image, zero for another command (R110, R456). -/
def loopBytes : Option LoopState → List Byte
  | none => List.replicate 32 0
  | some l =>
    toBytes 32
      (l.phase % 256 + l.iter % 256 * 2 ^ 8 + l.cnt % 65536 * 2 ^ 16 + l.res.toNat * 2 ^ 32 +
        (l.hx + l.hw * 2 ^ 8 + l.hs * 2 ^ 16 + l.bp * 2 ^ 24) * 2 ^ 64 +
        (l.slotx + l.slotw * 2 ^ 8 + l.slots * 2 ^ 16 + l.slotb * 2 ^ 24) * 2 ^ 96)

/-- The loop state that a queue image holds for a record. -/
def loopOfBytes (r : LineBits) (bs : List Byte) : Option LoopState :=
  if recCode r = 5 then
    let f := fun off n => bytesNum bs off n
    some
      { phase := f 0 1, iter := f 1 1, cnt := f 2 2, res := BitVec.ofNat 32 (f 4 4)
        hx := f 8 1, hw := f 9 1, hs := f 10 1, bp := f 11 1
        slotx := f 12 1, slotw := f 13 1, slots := f 14 1, slotb := f 15 1 }
  else none

/-- State byte of a handle (R457). -/
def Engine.handleState (e : Engine) (i : Nat) : Byte :=
  match find? e.handles i with
  | none => 0
  | some (.bound p) => BitVec.ofNat 8 (1 + 16 * p)
  | some .spilled => 2

/-- State byte of a B slot (R457). -/
def Engine.slotState (e : Engine) (ctx i : Nat) : Byte :=
  if has e.bspilled i then 2
  else
    match find? e.bslots i with
    | some b => if b.owner = ctx then BitVec.ofNat 8 (1 + 16 * i) else 0
    | none => 0

/-- Joins of the barrier names 0 to 511 (R456). -/
def Core.joinBytes (c : Core) : List Byte :=
  (upFrom 0 512).flatMap fun n =>
    match find? c.join n with
    | some g => toBytes 4 (2 ^ 16 + g.toNat)
    | none => toBytes 4 0

/-- The return-address store of a core, oldest entry first, with the entries of the spill area (R305, R456). -/
def State.rasBytes (s : State) (k : Nat) : List Byte :=
  let c := s.core k
  (upFrom 0 c.spilledRas).flatMap (fun i => s.bytes (s.rasSlot k i) 8) ++ c.ras.reverse.flatMap fun x => toBytes 8 x.toNat

/-- Header of a context image (R457). -/
def Core.imageHeader (c : Core) (k : Nat) (t : TaskCtx) (stamp : Nat) : List (Nat × List Byte) :=
  let e := c.eng
  [(0x00, toBytes 4 t.ctxid), (0x04, toBytes 2 t.node), (0x06, toBytes 2 (t.graph % 1024)),
    (0x08, toBytes 8 t.taskid.toNat), (0x10, toBytes 8 t.elemid.toNat), (0x18, toBytes 8 c.pc.toNat),
    (0x20, toBytes 8 stamp), (0x28, toBytes 2 c.rasD),
    (0x2A, [(upFrom 0 8).foldl (fun x i => if c.regs.rp i then x ||| 1#8 <<< i else x) 0]),
    (0x2B, toBytes 1 e.mat.length), (0x2C, toBytes 1 e.cpy.length), (0x2D, toBytes 1 e.held.length),
    (0x2E, toBytes 1 e.reserved), (0x2F, [0]), (0x30, toBytes 1 c.spbanks), (0x32, toBytes 2 (coreNo k)),
    (0x40, toBytes 8 c.mthr.toNat),
    (0x48, (upFrom 0 14).flatMap fun i => toBytes 2 (c.bfmtAt i).toNat),
    (0x64, (upFrom 0 16).map e.handleState), (0x74, (upFrom 0 8).map (e.slotState t.ctxid))]

/-- Registers, queues and stores of a context image (R456). -/
def State.imageBody (s : State) (k : Nat) (scratch : Nat) : List (Nat × List Byte) :=
  let c := s.core k
  let r := c.regs
  [(0x80, (upFrom 0 16).flatMap fun i => toBytes 4 (r.rk i).toNat),
    (0xC0, (upFrom 0 16).flatMap fun i => toBytes 4 (r.rq i).toNat),
    (0x100, (upFrom 0 64).flatMap fun i => toBytes 8 (r.rs (BitVec.ofNat 6 i)).toNat),
    (0x300, (upFrom 0 8).flatMap fun i => toBytes 32 (r.rm i).toNat),
    (0x400, (upFrom 0 32).flatMap fun i => toBytes 256 (r.rv i).toNat),
    (0x2400, s.rasBytes k), (0x2C00, c.joinBytes),
    (0x3400, c.eng.mat.flatMap fun x => toBytes 64 x.record.toNat ++ loopBytes (x.loop.map fun l => if x.begun then l.withSlots x.ctx c.eng else l)),
    (0x3A00, c.eng.cpy.flatMap fun x => toBytes 64 x.record.toNat),
    (0x4200, c.eng.held.flatMap fun x => toBytes 8 x.lo.toNat ++ toBytes 8 x.hi.toNat),
    (0x9400, (upFrom 0 ((scratch + 63) / 64)).map fun b =>
      (upFrom 0 8).foldl
        (fun x i => if s.full (s.windowPa k (8 * (8 * b + i))) && 64 * b + 8 * i < scratch then x ||| 1#8 <<< i else x) 0),
    (0xD000, s.bytes (s.windowPa k 0) scratch)]

/-- Write pieces of an image. -/
def State.writePieces (s : State) (a : Nat) : List (Nat × List Byte) → State
  | [] => s
  | p :: r => (s.homeBytes none false (a + p.1) p.2).writePieces a r

/-- A harness record of 64 bytes, whose layout is not given (R456; log 8): free values. -/
def State.harnessRecord (s : State) (m : Option Member) : State × List (Nat × List Byte) :=
  match m with
  | none => (s, [])
  | some _ =>
    ({ s with free := s.free + 8 },
      [(0x4600, (upFrom 0 8).flatMap fun i => toBytes 8 (Config.freeValue (s.free + i)).toNat)])

/-- Save a core's context into image `i` of its package: its named bytes are written, every other one but the images of
slots is zero (R455 to R457). -/
def State.saveImage (s : State) (k i : Nat) (t : TaskCtx) (stamp : Nat) : State :=
  let a := s.imageAt (corePkg k) i
  let head := (s.core k).imageHeader k t stamp
  let body := s.imageBody k t.hdr.scratch
  let out := fun (x : Nat) => x < a || a + 0xE_D000 ≤ x
  let s : State := { s with mem := s.mem.filter fun c => out c.1, ue := s.ue.filter out }
  let (s, rec_) := s.harnessRecord (s.core k).member
  s.writePieces a (head ++ body ++ rec_)

/-- What keeps `n` bytes of private memory from being read by the handler: a refusal because of its world, or an
uncorrectable error (R10, R476). -/
def State.unreadable (s : State) (k a n : Nat) : Option (Nat × Note) :=
  match s.shut (firmware k) .engine a n with
  | some note => some (0x60, note)
  | none => if s.bad a n then some (0x26, .memue (corePkg k)) else none

/-- What keeps a core's context from being saved into an image at an address: entries of its spill area or bytes of its
scratchpad that cannot be read, or an image that the core's world may not write (R10, R476). -/
def State.saveFails (s : State) (k a scratch : Nat) : Option (Nat × Note) :=
  ((upFrom 0 (s.core k).spilledRas).findSome? fun i => s.unreadable k (s.rasSlot k i) 8).or
    (((s.shut (firmware k) .engine a 0xE_D000).map fun note => (0x60, note)).or (s.unreadable k (s.windowPa k 0) scratch))

/-- What keeps a context from being restored from an image at an address (R10, R476). -/
def State.restoreFails (s : State) (k a scratch : Nat) : Option (Nat × Note) :=
  [(0, 0x4640), (0x5000, 272 * s.num (a + 0x2F) 1), (0x9400, (scratch + 63) / 64), (0xD000, scratch)].findSome? fun p =>
    s.unreadable k (a + p.1) p.2

/-- The handler of a core meets a fault while it saves or restores a context: the grid that it serves ends and the core takes
no task (R452; log 12). -/
def State.handlerFault (s : State) (k : Nat) (e : Nat × Note) : State :=
  let s := (s.note e.2).modCore k fun c => { c with preempt := false }
  s.trapOn k { status := e.1 } (s.core k).pc

/-! Suspension -/

/-- Whether the wait of an EXIT includes a PACK that waits for BUSY (R449): its other conditions hold or wait behind the
PACK. -/
def State.exitAtPack (s : State) (k : Nat) : Bool := s.packWaits k

/-- Whether a core with a pre-emption request has come to the point where its context can be saved (R448, R449, R454, R455):
no cause goes before, nothing is under way, no walk is waited for (R472), its running commands are at their ends or phase
boundaries. -/
def State.maySuspend (s : State) (k : Nat) : Bool :=
  let c := s.core k
  c.preempt && decide (c.mode = .task) && c.task.isSome && c.asyncTrap.isNone && !c.wait.granted && c.loads.isEmpty &&
    (c.wait != .exit || s.exitAtPack k) && c.drained && c.journal.isEmpty && c.prot == 0 &&
    !c.eng.cpy.any (·.begun) && decide (c.due = .no) && !s.walking k

/-- Lowest free image of a package (R454; log 12). -/
def Package.freeImage (p : Package) : Option Nat := leastFrom (fun i => !has p.images i) 0 4096

/-- A core whose task has been suspended: in handler mode with SOURCE 4, its trap registers set, and free (R450,
R455). -/
def Core.leaveTask (c : Core) : Core :=
  { (c.enter { status := 0, source := 4 } c.pc).vacate with
    eng := { c.eng with
      handles := [], bspilled := [], mat := [], cpy := [], held := [], reserved := 0, matStop := false
      cpyStop := false } }

/-- The forwarding entry of a suspended task (R454, R459): an older one of the same task is replaced. -/
def Core.setFwd (c : Core) (e : FwdEntry) : Core := { c with fwd := c.fwd.filter (·.task ≠ e.task) ++ [e] }

/-- Steps 1 to 8 of R455; where something of the context cannot be saved, nothing is. -/
def State.suspend (s : State) (k : Nat) : State :=
  let s := s.withdraw k
  let arrived := (s.core k).wait == .arrived
  let s := s.modCore k Core.detach
  let c := s.core k
  match c.task with
  | none => s
  | some t =>
    match find? s.tasks t.id with
    | none => s
    | some x =>
      match x.image.or (s.pkg x.pkg).freeImage with
      | none => s
      | some i =>
        match s.saveFails k (s.imageAt (corePkg k) i) t.hdr.scratch with
        | some e => (s.modCore k fun c => c.enter { status := 0, source := 4 } c.pc).handlerFault k e
        | none =>
          let s := s.saveImage k i t x.stamp
          let s := s.modPkg x.pkg fun p => { p with images := addNat p.images i }
          let s := s.modTask t.id fun x =>
            { x with
              phase := .suspended k i arrived, image := some i, cluster := coreCluster k, member := c.member
              dropped := c.dropped }
          s.modCore k fun c => c.leaveTask.setFwd ⟨t.id, (t.graph, t.node), none, []⟩

/-- TASK_SUSPEND: a core that has a pre-emption request suspends its task (R455); it drains its buffer first, and nothing
is done while it may not yet. -/
def execTaskSuspend (core : Nat) (s : State) : Out :=
  let s' := if (s.core core).preempt then s.drain core else s
  .next (if s'.maySuspend core then s'.suspend core else s')

/-! Resumption -/

/-- `n` words of `w` bytes from an address of an image. -/
def State.words (s : State) (a w n : Nat) : List Nat := (upFrom 0 n).map fun i => s.num (a + w * i) w

/-- A list of words as numbered registers, without zeros. -/
def regList {n : Nat} (l : List Nat) : List (Nat × BitVec n) := sparse 0 (l.map (BitVec.ofNat n))

/-- The registers that an image holds (R456). -/
def State.imageRegs (s : State) (a : Nat) : Regs where
  s := regList (s.words (a + 0x100) 8 64)
  v := regList (s.words (a + 0x400) 256 32)
  m := (regList (s.words (a + 0x300) 32 8)).filter (·.1 ≠ 0)
  p := BitVec.ofNat 8 (s.num (a + 0x2A) 1) &&& 0xFE
  k := regList (s.words (a + 0x80) 4 16)
  q := regList (s.words (a + 0xC0) 4 16)

/-- The handles that an image holds. -/
def State.imageHandles (s : State) (a : Nat) : List (Nat × HState) :=
  (upFrom 0 16).filterMap fun i =>
    let b := s.num (a + 0x64 + i) 1
    if b % 4 = 1 then some (i, .bound (b / 16 % 8)) else if b % 4 = 2 then some (i, .spilled) else none

/-- The commands of a queue image: entries of `w` bytes; a MITER whose loop state is not that of ENQ has begun, and goes on at
its next phase without its checks (R112, R113). -/
def State.imageQueue (s : State) (a w n ctx : Nat) : List Cmd :=
  (upFrom 0 n).map fun i =>
    let r : LineBits := BitVec.ofNat 512 (s.num (a + w * i) 64)
    let loop := if w = 96 then loopOfBytes r (s.bytes (a + w * i + 64) 32) else none
    { record := r, ctx := ctx, handler := false, begun := loop.any (· != loopStart r), after := 0, missed := []
      loop := loop, units := [] }

/-- The engines of a resumed task on its core (R460 steps 3 and 6). -/
def State.imageEngine (s : State) (k a ctx : Nat) : Engine :=
  let e := (s.core k).eng
  { e with
    handles := s.imageHandles a
    bspilled := (upFrom 0 8).filter fun i => s.num (a + 0x74 + i) 1 % 4 == 2
    mat := s.imageQueue (a + 0x3400) 96 (s.num (a + 0x2B) 1) ctx
    cpy := s.imageQueue (a + 0x3A00) 64 (s.num (a + 0x2C) 1) ctx
    matStop := false
    cpyStop := false
    held := (upFrom 0 (s.num (a + 0x2D) 1)).map fun i =>
      ⟨BitVec.ofNat 64 (s.num (a + 0x4200 + 16 * i) 8), BitVec.ofNat 64 (s.num (a + 0x4208 + 16 * i) 8)⟩
    reserved := s.num (a + 0x2E) 1 }

/-- The full-empty bits that an image holds return to the scratchpad (R460 step 2). -/
def State.restoreFe (s : State) (k a scratch : Nat) : State :=
  (upFrom 0 ((scratch + 7) / 8)).foldl
    (fun (s : State) w =>
      { s with fe := putNat s.fe (s.windowPa k (8 * w) / 8) (bitOf (s.num (a + 0x9400 + w / 8) 1) (w % 8)) }) s

/-- Joins that an image holds. -/
def State.imageJoin (s : State) (a : Nat) : List (Nat × BitVec 16) :=
  (upFrom 0 512).filterMap fun n =>
    let x := s.num (a + 0x2C00 + 4 * n) 4
    if bitOf x 16 then some (n, BitVec.ofNat 16 x) else none

/-- The member that a resumed task becomes: every follower is detached (R234). -/
def Member.again (m : Member) : Member := { m with attached := false, buf := [], fly := [], last := false, issued := false }

/-- A core that takes up a suspended task (R460 steps 2, 3 and 5): the return-address store holds its newest 16 entries,
the older ones stand in its spill area. -/
def Core.resume (c : Core) (s : State) (k a : Nat) (x : TaskCtx) (u : Task) (arrived : Bool) (base : Nat) :
    Core :=
  let d := s.num (a + 0x28) 2
  { c with
    run := .running
    mode := .task
    pc := BitVec.ofNat 64 (s.num (a + 0x18) 8)
    fline := none
    regs := s.imageRegs a
    bfmt := (upFrom 0 14).foldl (fun m i => put m 0 i (BitVec.ofNat 16 (s.num (a + 0x48 + 2 * i) 2))) []
    mthr := BitVec.ofNat 64 (s.num (a + 0x40) 8)
    barbase := base
    task := some x
    rasD := d
    ras := ((s.words (a + 0x2400) 8 d).reverse.take 16).map (BitVec.ofNat 64)
    join := s.imageJoin a
    eng := s.imageEngine k a x.ctxid
    wait := match u.harn with
      | some dest => .harn dest none
      | none => if arrived then .arrived else .none
    asyncTrap := none
    laterTraps := 0
    trapped := false
    dropped := u.dropped
    preempt := false
    due := .no
    stopped := false
    member := u.member.map Member.again }

/-- The older entries of the return-address store go to the spill area of the core (R305). -/
def State.restoreRas (s : State) (k a : Nat) : State :=
  let d := s.num (a + 0x28) 2
  (upFrom 0 (d - 16)).foldl (fun (s : State) i => s.setBytes (s.rasSlot k i) (s.bytes (a + 0x2400 + 8 * i) 8)) s

/-- The old core spills the slots it still holds for a context (R460 step 1). -/
def State.spillOld (s : State) (k ctx : Nat) : State :=
  let e := (s.core k).eng
  let s := (e.acc.filter (·.2.owner = ctx)).foldl (fun (s : State) a => s.saveAcc k a.1) s
  (e.bslots.filter (·.2.owner = ctx)).foldl (fun (s : State) b => s.saveB k b.1) s

/-- Scope of the acquire of a resumption (R219). -/
def resumeScope (old new : Nat) : Nat :=
  if old = new then 0
  else if coreCluster old = coreCluster new then 1
  else if coreDie old = coreDie new then 2
  else 3

/-- The spilled messages of a task are delivered in spill order (R460 step 4). -/
def State.deliverSpill (s : State) (k id : Nat) : List SpillMsg → State
  | [] => s
  | m :: r =>
    (if m.pipe = 255 then s.deliver k m.off m.counter m.data else s.deliverPipe k m.pipe id m.data).deliverSpill k id r

/-- The messages spilled for a task at the core it left. -/
def State.spilled (s : State) (k id : Nat) : List SpillMsg :=
  (((s.core k).fwd.find? (·.task = id)).map (·.spill)).getD []

/-- A task whose image cannot be read: its core holds it, in the handler that was to restore it, with nothing of its
context (log 12). -/
def Core.hold (c : Core) (id : Nat) (t : Task) : Core :=
  { c with
    run := .running
    mode := .handler
    task := some
      { id := id, taskid := BitVec.ofNat 64 t.taskid, elemid := (t.elem.map (BitVec.ofNat 64)).getD (BitVec.allOnes 64)
        graph := t.graph, node := t.node, role := t.role, ctxid := t.ctxid, hdr := t.hdr } }

/-- The forwarding entry of a task says on which core it has resumed (R459). -/
def Core.resumedOn (c : Core) (id k : Nat) : Core :=
  { c with fwd := c.fwd.map fun e => if e.task = id then { e with core := some k, spill := [] } else e }

/-- A task takes a core whose handler cannot restore it, the core it left telling where it is: its grid ends (R452). -/
def State.failResume (s : State) (id k old : Nat) (t : Task) (e : Nat × Note) : State :=
  let s := s.modTask id fun t => { t with phase := .issued k, cluster := coreCluster k, member := none, harn := none }
  ((s.modCore k fun c => c.hold id t).modCore old fun c => c.resumedOn id k).handlerFault k e

/-- A task is restored on a core (R460). -/
def State.restore (s : State) (id k old i : Nat) (arrived : Bool) (t : Task) : State :=
  let a := s.imageAt t.pkg i
  let banks := s.num (a + 0x30) 1
  let s := if (s.core k).spbanks = banks then s else s.resplit k banks
  let s := s.homeBytes none false (s.windowPa k 0) (s.bytes (a + 0xD000) t.hdr.scratch)
  let s := s.restoreFe k a t.hdr.scratch
  let s := s.restoreRas k a
  let (s, base) := s.windowBase k t.key
  let x : TaskCtx :=
    { id := id, taskid := BitVec.ofNat 64 (s.num (a + 8) 8), elemid := BitVec.ofNat 64 (s.num (a + 0x10) 8)
      graph := t.graph, node := t.node, role := t.role, ctxid := t.ctxid, hdr := t.hdr }
  let s := s.modCore k fun c => c.resume s k a x t arrived base
  let e := (s.core k).eng
  let keep := e.handles.any (fun h => h.2 == .spilled) || !e.bspilled.isEmpty
  let s := if keep then s else s.modPkg t.pkg fun p => { p with images := delNat p.images i }
  let s := s.modTask id fun t =>
    { t with
      phase := .issued k, cluster := coreCluster k, member := none, harn := none
      image := if keep then some i else none }
  let s := s.modCluster (coreCluster k) fun u =>
    { u with harns := u.harns.map fun h => if h.task = some id then { h with core := k } else h }
  let msgs := s.spilled old id
  let s := s.modCore old fun c => c.resumedOn id k
  let s := s.deliverSpill k id msgs
  let s := s.acquire k (resumeScope old k)
  s.modNodeSt t.key fun st => { st with ran := addNat st.ran k }

/-- A suspended task resumes on a core: the core it left spills the slots it holds of it, and the handler of the new one
restores it, unless its image cannot be read (R10, R460). -/
def State.resumeOn (s : State) (id k : Nat) : State :=
  match find? s.tasks id with
  | none => s
  | some t =>
    match t.phase with
    | .suspended old i arrived =>
      let s := if k = old then s else s.spillOld old t.ctxid
      let s := s.ensureWindow t.key (coreCluster k)
      match s.restoreFails k (s.imageAt t.pkg i) t.hdr.scratch with
      | some e => s.failResume id k old t e
      | none => s.restore id k old i arrived t
    | _ => s

/-- Whether a task outside a unit that resumes together stands before it and could take the place of its member `t` on a core
(R158, R175): of a higher class than the unit's lead, eligible at the slice or waiting for a core of that cluster; or
suspended too, of the same slice, in a unit whose lead stands before. -/
def State.outranked (s : State) (unit : List Nat) (lead t : Task) (k : Nat) : Bool :=
  s.tasks.any fun u =>
    !has unit u.1 &&
      ((lead.hdr.prio < (s.head u.2).hdr.prio &&
          ((u.2.cluster == t.cluster && s.contends u.1 u.2) || (u.2.cluster == coreCluster k && s.mayIssue u.1 u.2))) ||
        (u.2.cluster == t.cluster && (s.lead u.1 u.2).before lead && s.mayResume u.2 k && s.canResume u.1 u.2))

/-- Banks that the core of a suspended task had (R460 step 2). -/
def State.savedBanks (s : State) (t : Task) : Nat :=
  match t.phase with
  | .suspended _ i _ => s.num (s.imageAt t.pkg i + 0x30) 1
  | _ => 0

/-- Whether a member of a unit may take a core now. -/
def State.mayTake (s : State) (unit : List Nat) (lead : Task) (id k : Nat) : Bool :=
  match find? s.tasks id with
  | some t => !s.outranked unit lead t k && s.banksReady k (s.savedBanks t)
  | none => false

/-- TASK_RESUME: a suspended task is restored on a free core within its scope, with the suspended members of its harness or
gang, each on a core that nothing before it could take (R155, R158, R175, R234, R460). -/
def execTaskResume (task core : Nat) (s : State) : Out :=
  match find? s.tasks task with
  | some t =>
    if s.whole task t && s.freeCore core && s.mayResume t core then
      match s.places [core] (s.resumeWith task t) with
      | some ps =>
        let all := (task, core) :: ps
        .next (if all.all fun p => s.mayTake (all.map (·.1)) (s.lead task t) p.1 p.2 then
            all.foldl (fun (s : State) p => s.resumeOn p.1 p.2) s
          else s)
      | none => .next s
    else .next s
  | none => .next s

end Sys2Proof.Machine
end

