-- ==== Sys2Proof/Machine/Pursers.lean ====
section
/-! DEFINITION. The host's side: RMA, mailbox pages, requests but SUBMIT, launch completion and responses (21, R428 to
R443; 08, R153). -/

namespace Sys2Proof.Machine

/-! Host RMA -/

/-- Whether a logical port exists (R428). -/
def Package.portExists (p : Package) (port : Nat) : Bool :=
  port < 12 && (port % 2 == 0 || has p.mode1 (port / 2))

/-- The package passes traffic from step 8 on (R479). -/
def Package.opened (p : Package) : Bool := p.step == 8

/-- An error response of the transport (R429, R430). -/
def State.rmaError (s : State) (pkg : Nat) : State := s.modPkg pkg fun p => { p with errorOut := p.errorOut + 1 }

/-- Bytes of mailbox pages of a package (R432): 64 for each of 16 pursers. -/
def mailBytes : Nat := 1024 * 4096

/-- Whether `n` bytes at a local address lie in HBM, or in the vault ranges (R430). -/
def rmaRange (off n : Nat) : Bool :=
  off + n ≤ 0x080_0000_0000 || (0x100_0000_0000 ≤ off && off + n ≤ 0x102_0000_0000)

/-- The bytes of a host RMA that a die's region table assigns to the secure world (R430, R477): the refusal is logged at
the home of the first one. -/
def State.rmaSecure (s : State) (pkg off n : Nat) : Option Nat :=
  let id := (s.pkg pkg).id
  ((upFrom (off / 64) ((off + n + 63) / 64 - off / 64)).map fun l => max off (64 * l)).find?
    fun a => s.secure (id * 2 ^ 44 + a)

/-- Log a refused host RMA (R477). -/
def State.rmaRefused (s : State) (pkg port a : Nat) : State :=
  let id := (s.pkg pkg).id
  (s.note (.refusal (pkg * 4 + homeDie a) ⟨id * 2 ^ 44 + a, id * 2 ^ 12 + (2032 + port) * 2, AccKind.host.code⟩)).rmaError pkg

/-- Whether a write of host RMA is to be performed: on a connection whose writes are performed in order it is the next of its
sequence numbers, which count from 0 (R431; log 74). -/
def Package.rodDue (p : Package) : Option (Nat × Nat) → Bool
  | some (conn, num) => look p.rod 0 conn == num
  | none => true

/-- The write has been taken off its connection. -/
def State.rodTaken (s : State) (pkg : Nat) : Option (Nat × Nat) → State
  | some (conn, num) => s.modPkg pkg fun p => { p with rod := put p.rod 0 conn (num + 1) }
  | none => s

/-- Every byte of a write has been performed, and the write is acknowledged (R431). -/
def State.rmaAck (s : State) (pkg : Nat) : State := s.modPkg pkg fun p => { p with ackOut := p.ackOut + 1 }

/-- A host RMA write is performed, at mailbox bytes or at the homes of its bytes in device memory, and acknowledged; or it is
refused with an error response (R430, R431). -/
def State.rmaWrite (s : State) (pkg port ri off : Nat) (data : List Byte) : State :=
  let p := s.pkg pkg
  if ri = 1 && off + data.length ≤ mailBytes then
    (s.modPkg pkg fun p =>
      { p with mail := ((upFrom off data.length).zip data).foldl (fun m c => put m 0 c.1 c.2) p.mail }).rmaAck pkg
  else if ri = 2 && rmaRange off data.length then
    match s.rmaSecure pkg off data.length with
    | some a => s.rmaRefused pkg port a
    | none => (s.homeBytes none false (p.id * 2 ^ 44 + off) data).rmaAck pkg
  else s.rmaError pkg

/-- HOST_RMA_WRITE, through a logical port, with the connection and the sequence number of one that is performed in order:
one whose turn it is not waits and changes nothing (R430, R431, R442).  No full-empty bit changes. -/
def execHostRmaWrite (pkg : Nat) (port : Nat × Option (Nat × Nat)) (ri off : Nat) (data : List Byte) (s : State) : Out :=
  let p := s.pkg pkg
  if !p.opened || !p.portExists port.1 || 4096 < data.length || !p.rodDue port.2 then .next s
  else .next ((s.rodTaken pkg port.2).rmaWrite pkg port.1 ri off data)

/-- HOST_RMA_READ: each byte as its home holds it (R431); an uncorrectable error is answered with an error response. -/
def execHostRmaRead (pkg port ri off len : Nat) (s : State) : Out :=
  let p := s.pkg pkg
  let refuse := fun (s : State) => Host.Outcome.next ((s.rmaError pkg).modPkg pkg fun p => { p with readOut := none })
  if !p.opened || !p.portExists port || 4096 < len then .next s
  else if ri = 1 && off + len ≤ mailBytes then
    .next (s.modPkg pkg fun p => { p with readOut := some ((upFrom off len).map (look p.mail 0)) })
  else if ri = 2 && rmaRange off len then
    match s.rmaSecure pkg off len with
    | some a => .next ((s.rmaRefused pkg port a).modPkg pkg fun p => { p with readOut := none })
    | none =>
      let pa := p.id * 2 ^ 44 + off
      if s.bad pa len then refuse (s.note (.memue pkg))
      else .next (s.modPkg pkg fun p => { p with readOut := some (s.bytes pa len) })
  else refuse s

/-- UNSUPPORTED_PACKET: an error response and no change of the device's state (R429). -/
def execUnsupportedPacket (pkg port : Nat) (s : State) : Out :=
  if (s.pkg pkg).opened && (s.pkg pkg).portExists port then .next (s.rmaError pkg) else .next s

/-! Mailbox pages -/

/-- A number in a mailbox page. -/
def Package.mailNum (p : Package) (page off n : Nat) : Nat :=
  ofBytes ((upFrom (4096 * page + off) n).map (look p.mail 0))

/-- Write a number in a mailbox page. -/
def Package.setMail (p : Package) (page off n x : Nat) : Package :=
  { p with mail := ((upFrom (4096 * page + off) n).zip (toBytes n x)).foldl (fun m c => put m 0 c.1 c.2) p.mail }

/-- A page as its purser sees it. -/
def Package.page (p : Package) (i : Nat) : Page := look p.pages .closed i

/-- Change a page. -/
def State.modPage (s : State) (pkg i : Nat) (f : Page → Page) : State :=
  s.modPkg pkg fun p => { p with pages := put p.pages .closed i (f (p.page i)) }

/-- A response is produced (R435). -/
def State.respond (s : State) (pkg page : Nat) (r : Response) : State :=
  s.modPage pkg page fun g => { g with queue := g.queue ++ [r] }

/-- The request of a page is answered (R435, R437). -/
def State.answerWith (s : State) (pkg page : Nat) (r : Request) (status value : Nat) : State :=
  let ver := ((s.pkg pkg).page page).ver
  let x : Response :=
    { tag := r.tag, seq := if ver = 1 then 0 else r.seq, op := r.op, status := status
      value := if status = 0 then value % 2 ^ 32 else 0 }
  (s.respond pkg page x).modPage pkg page fun g => { g with current := none }

/-! Objects of requests -/

/-- A field of an object. -/
def fieldOf (bs : List Byte) (off n : Nat) : Nat := ofBytes ((bs.drop off).take n)

/-- A purser as a requester: it translates by its own PTROOT0 (R436). -/
def purserOf (pkg page : Nat) : Who := ⟨pkg * 2048 + 1536 + page / 64, true, false⟩

/-- A purser translates by its TLB or a walk (R436, R471): the address and its page; a foreign page is no device memory.
What a refusal leaves is kept (R477). -/
def State.purserPage (s : State) (w : Who) (va : Nat) : State × Option (Nat × Leaf) :=
  if !canonical va then (s, none)
  else
    match s.pageOf w (va % 2 ^ 57) with
    | (s, .page l) => (s, if l.f then none else some (l.pa + (va % 2 ^ 57 - l.base), l))
    | (s, .bad _ n) => (s.note n, none)
    | (s, .walks) => (s, none)

/-- The address of a claim array's word, which the purser itself maps (R162): no permission is asked of its page. -/
def State.purserPa (s : State) (w : Who) (va : Nat) : State × Option Nat :=
  match s.purserPage w va with
  | (s, x) => (s, x.map (·.1))

/-- A purser reads `n` bytes of one page at their home: a load, which needs R, and of a protected page that its group has
been joined (R468, R492). -/
def State.purserRead (s : State) (w : Who) (va n : Nat) : State × Option (List Byte) :=
  match s.purserPage w va with
  | (s, some (pa, l)) =>
    if !s.permits w l .r va then (s, none)
    else
      match s.homeRead w .load pa n with
      | .ok bs => (s, some bs)
      | .error (_, x) => (s.note x, none)
  | (s, none) => (s, none)

/-- A purser reads `n` bytes of an object, in parts of at most 8 bytes that lie in one aligned 8-byte word each; `fuel` is
at least their number. -/
def State.purserObject (s : State) (w : Who) (va n : Nat) : Nat → State × Option (List Byte)
  | 0 => (s, some [])
  | fuel + 1 =>
    if n = 0 then (s, some [])
    else
      let m := min n (8 - va % 8)
      match s.purserRead w (va % 2 ^ 64) m with
      | (s, none) => (s, none)
      | (s, some bs) =>
        match s.purserObject w (va + m) (n - m) fuel with
        | (s, some r) => (s, some (bs ++ r))
        | (s, none) => (s, none)

/-- The bytes of an object that an address argument names (R436). -/
def State.object (s : State) (pkg page a n : Nat) : State × Option (List Byte) := s.purserObject (purserOf pkg page) a n n

/-- Read the fields of a descriptor. -/
def descOf (bs : List Byte) : Desc where
  graph := fieldOf bs 0 2
  nnodes := fieldOf bs 2 2
  nedges := fieldOf bs 4 4
  nodes := fieldOf bs 8 8
  edges := fieldOf bs 0x10 8
  craddr := fieldOf bs 0x18 8
  crn := fieldOf bs 0x20 2
  npkg := fieldOf bs 0x22 2
  zero := fieldOf bs 0x24 4
  pkgs := fieldOf bs 0x28 8
  nsaddr := fieldOf bs 0x30 8
  crcaddr := fieldOf bs 0x38 8

/-- Ranges of a descriptor's own fields (R438). -/
def Desc.ok (d : Desc) : Bool :=
  d.graph < 1024 && 1 ≤ d.nnodes && d.nnodes ≤ 4096 && d.nedges ≤ 65536 && d.nodes % 64 == 0 && d.edges % 4 == 0 &&
    d.craddr % 32 == 0 && 1 ≤ d.crn && d.crn ≤ 1024 && 1 ≤ d.npkg && d.npkg ≤ 4096 && d.zero == 0 &&
    (d.npkg != 1 || d.pkgs == 0) && d.nsaddr % 4 == 0 && d.crcaddr % 8 == 0

/-- Addresses of the headers that a node record names. -/
def headerAddrs (bs : List Byte) : List Nat :=
  match fieldOf bs 0 1 with
  | 0 => [fieldOf bs 8 8]
  | 4 => [fieldOf bs 8 8, fieldOf bs 0x10 8, fieldOf bs 0x18 8]
  | _ => []

/-- Read a kernel header and its pipe entries (R422). -/
def State.readHeader (pkg page : Nat) (s : State) (a : Nat) : State × Option (List Byte) :=
  match s.object pkg page a 64 with
  | (s, none) => (s, none)
  | (s, some h) =>
    match s.object pkg page (a + 64) (16 * min 16 (fieldOf h 0x0B 1)) with
    | (s, some p) => (s, some (h ++ p))
    | r => r

/-- Read a list of things, each of which may fail. -/
def State.readAll {α β : Type} (f : State → α → State × Option β) (s : State) : List α → State × Option (List β)
  | [] => (s, some [])
  | x :: r =>
    match f s x with
    | (s, none) => (s, none)
    | (s, some y) =>
      match s.readAll f r with
      | (s, some ys) => (s, some (y :: ys))
      | r => r

/-- Read a node record and the headers it names. -/
def State.readNode (pkg page nodes : Nat) (s : State) (i : Nat) : State × Option NodeRec :=
  match s.object pkg page (nodes + 64 * i) 64 with
  | (s, none) => (s, none)
  | (s, some bs) =>
    match s.readAll (State.readHeader pkg page) (headerAddrs bs) with
    | (s, some hs) => (s, some ⟨bs, hs⟩)
    | (s, none) => (s, none)

/-- Read what a descriptor bounds (R437 step 2). -/
def State.readGraph (s : State) (pkg page : Nat) (d : Desc) : State × Option GraphObj :=
  match s.readAll (State.readNode pkg page d.nodes) (upFrom 0 d.nnodes) with
  | (s, none) => (s, none)
  | (s, some ns) =>
    match s.object pkg page d.edges (4 * d.nedges) with
    | (s, none) => (s, none)
    | (s, some es) =>
      match s.object pkg page d.pkgs (if d.npkg = 1 then 0 else 2 * d.npkg) with
      | (s, none) => (s, none)
      | (s, some ps) =>
        (s, some ⟨d, ns, (pieces 4 d.nedges es).map ofBytes,
          if d.npkg = 1 then [(s.pkg pkg).id] else (pieces 2 d.npkg ps).map ofBytes⟩)

/-- The objects of a request are read when it is taken: the record of REGSPACE or REGWIN; the descriptor of SUBMIT, and,
where its own fields are in range, what it bounds (R436, R437 step 2). -/
def State.readRequest (s : State) (pkg page : Nat) (r : Request) : State × ReqObj :=
  if has [1, 2, 4] r.op then
    match s.object pkg page (r.args.getD 0 0).toNat 64 with
    | (s, none) => (s, .unreadable)
    | (s, some bs) =>
      if r.op ≠ 4 then (s, .record bs)
      else if !(descOf bs).ok then (s, .badDesc)
      else
        match s.readGraph pkg page (descOf bs) with
        | (s, some g) => (s, .graph g)
        | (s, none) => (s, .unreadable)
  else (s, .nothing)

/-! Requests -/

/-- The slot of a request: a reserved byte, SEQ in version 1 or a FLAGS bit other than PHASE not zero is malformed
(R434, R437). -/
def Package.slotRequest (p : Package) (page ver slot : Nat) : Request :=
  let a := 64 * slot
  let flags := p.mailNum page (a + 1) 1
  { op := p.mailNum page a 1, seq := p.mailNum page (a + 2) 2
    tag := BitVec.ofNat 64 (p.mailNum page (a + 8) 8)
    args := (upFrom 0 4).map fun i => BitVec.ofNat 64 (p.mailNum page (a + 16 + 8 * i) 8)
    bad := (if ver = 1 then flags != 0 || p.mailNum page (a + 2) 2 != 0 else 1 < flags) ||
      p.mailNum page (a + 4) 4 != 0 || p.mailNum page (a + 0x30) 16 != 0
    obj := .nothing }

/-- Arguments of a request that are neither addresses nor GRAPHs, or that it does not use, outside their range (R436,
R437 step 1). -/
def Request.malformed (r : Request) : Bool :=
  let arg := fun i => (r.args.getD i 0).toNat
  let unused := fun i => (r.args.drop i).any (· ≠ 0)
  r.bad ||
    match r.op with
    | 0 => unused 0
    | 1 | 2 | 4 | 6 => unused 1
    | 3 => unused 1 || 255 < arg 0
    | 5 => unused 2 || arg 1 == 0 || 65535 < arg 1
    | _ => true

/-- A page opens, with CONS 0 and its slots zero (R433). -/
def State.openPage (s : State) (pkg page : Nat) : State :=
  let p := s.pkg pkg
  let ver := p.mailNum page 0x10 1
  if (ver = 1 || ver = 2) && p.mailNum page 0x11 1 / 2 == 0 && p.mailNum page 0x12 6 == 0 && p.mailNum page 0x28 24 == 0
  then
    let p := p.setMail page 8 8 0
    let p := p.setMail page 64 4032 0
    (s.setPkg pkg p).modPage pkg page fun g =>
      { g with
        isOpen := true, ver := ver, rspaddr := p.mailNum page 0x18 8, taken := 0, written := 0, opens := g.opens + 1 }
  else s

/-- Whether request number `j` of a page stands in its slot (R434). -/
def Package.placed (p : Package) (page ver j : Nat) : Bool :=
  if ver = 1 then j < p.mailNum page 0 8
  else p.mailNum page (64 * (j % 63 + 1) + 1) 1 % 2 == 1 - j / 63 % 2

/-- Whether the purser of a page serves a request (R433). -/
def Package.serving (p : Package) (page : Nat) : Bool :=
  p.pages.any fun g => g.1 / 64 == page / 64 && g.2.current.isSome

/-- Take the next request of an open page, if it is placed: its objects are read, and CONS moves on; one that is malformed or
unknown is answered at once (R434, R436, R437). -/
def State.takeRequest (s : State) (pkg page : Nat) : State :=
  let p := s.pkg pkg
  let g := p.page page
  if p.placed page g.ver g.taken && !p.serving page then
    let r := p.slotRequest page g.ver (g.taken % 63 + 1)
    let (s, obj) := if r.malformed then (s, .nothing) else s.readRequest pkg page r
    let s := (s.modPkg pkg fun p => p.setMail page 8 8 ((g.taken + 1) % 2 ^ 64)).modPage pkg page fun g =>
      { g with taken := g.taken + 1, current := some { r with obj := obj } }
    if r.malformed then s.answerWith pkg page r 0x54 0 else s
  else s

/-- MAILBOX_PAGE_VISIT: the purser opens or closes a page, or takes a request of it (R433, R434).  A page that has closed is
not opened again before the requests and responses of its earlier opening are complete (log 69). -/
def execMailboxPageVisit (pkg page : Nat) (s : State) : Out :=
  let p := s.pkg pkg
  let en := p.mailNum page 0x11 1 % 2 == 1
  if !p.opened || 1024 ≤ page then .next s
  else
    match (p.page page).isOpen, en with
    | false, true =>
      .next (if (p.page page).current.isNone && (p.page page).queue.isEmpty then s.openPage pkg page else s)
    | true, false => .next (s.modPage pkg page fun g => { g with isOpen := false })
    | true, true => .next (s.takeRequest pkg page)
    | false, false => .next s

/-- The request that a page's purser serves, if its OP is the one given. -/
def State.serving (s : State) (pkg page op : Nat) : Option Request :=
  (((s.pkg pkg).page page).current).filter fun r => r.op == op

/-- Serve a page's request of a code. -/
def State.serveRequest (s : State) (pkg page op : Nat) (f : Request → State) : Out :=
  match s.serving pkg page op with
  | some r => .next (f r)
  | none => .next s

/-- MAILBOX_NOP (R436). -/
def execMailboxNop (pkg page : Nat) (s : State) : Out :=
  s.serveRequest pkg page 0 fun r => s.answerWith pkg page r 0 0

/-! Element spaces -/

/-- Whether every 4 KiB unit of an address range maps HBM or vault, `n` units from `u` on (R160). -/
def State.mapsMemory (s : State) (w : Who) : Nat → Nat → State × Bool
  | 0, _ => (s, true)
  | n + 1, u =>
    match s.purserPa w (u * 4096) with
    | (s, some pa) =>
      match region (pa % 2 ^ 44) with
      | .hbm | .vault .. => s.mapsMemory w n (u + 1)
      | _ => (s, false)
    | (s, none) => (s, false)

/-- Every claim word of a space is set to zero (R162), as stores that their homes may refuse to the purser's world (R476;
log 71). -/
def State.zeroClaims (s : State) (w : Who) (claim : Nat) : Nat → Nat → State
  | 0, _ => s
  | n + 1, e =>
    (match s.purserPa w ((claim + 2 * e) % 2 ^ 64) with
     | (s, some pa) =>
       match s.answer w .store pa 2 with
       | (0, _) => s.homeBytes none false pa [0, 0]
       | (_, x) => s.note x
     | (s, none) => s).zeroClaims w claim n (e + 1)

/-- Register an element space from its record, or the status of its refusal (R160 to R162, R437). -/
def State.regspace (s : State) (pkg page : Nat) (bs : List Byte) : State × Except Nat Nat :=
  let w := purserOf pkg page
  let (n, offs, nbrs, claim) := (fieldOf bs 0 8, fieldOf bs 8 8, fieldOf bs 16 8, fieldOf bs 24 8)
  let (id, graph) := (fieldOf bs 0x20 2, fieldOf bs 0x22 2)
  let units := (claim + 2 * n - 1) / 4096 + 1 - claim / 4096
  if 1 ≤ n && n ≤ 2 ^ 40 && offs % 8 == 0 && nbrs % 8 == 0 && claim % 64 == 0 && id < 64 && graph < 1024 &&
      fieldOf bs 0x24 28 == 0 && (find? (s.pkg pkg).spaces id).isNone then
    let (s, maps) := s.mapsMemory w units (claim / 4096)
    if maps then
      let s := s.zeroClaims w claim n 0
      (s.modPkg pkg fun p => { p with spaces := insert p.spaces id ⟨n, offs, nbrs, claim, graph⟩ }, .ok id)
    else (s, .error 0x40)
  else (s, .error 0x40)

/-- REGSPACE (R160 to R163, R436). -/
def execRegspace (pkg page : Nat) (s : State) : Out :=
  s.serveRequest pkg page 1 fun r =>
    match r.obj with
    | .record bs =>
      match s.regspace pkg page bs with
      | (s, .ok id) => s.answerWith pkg page r 0 id
      | (s, .error st) => s.answerWith pkg page r st 0
    | _ => s.answerWith pkg page r 0x55 0

/-! Storage windows -/

/-- REGWIN (R436, R439). -/
def execRegwin (pkg page : Nat) (s : State) : Out :=
  s.serveRequest pkg page 2 fun r =>
    match r.obj with
    | .record bs =>
      let p := s.pkg pkg
      let win := fieldOf bs 0 2
      let x : StorageWin :=
        { port := fieldOf bs 2 1, mode := fieldOf bs 3 1, job := fieldOf bs 4 4, peer := (bs.drop 8).take 16
          ri := fieldOf bs 0x18 2, mkey := fieldOf bs 0x20 8, base := fieldOf bs 0x28 8, len := fieldOf bs 0x30 8 }
      if win < 256 && (find? p.windows win).isNone && (x.port == 0xFF || p.portExists x.port) && x.mode < 2 &&
          x.job < 2 ^ 24 && x.ri < 4096 && fieldOf bs 0x1A 6 == 0 && 1 ≤ x.len && x.len ≤ 2 ^ 48 &&
          fieldOf bs 0x38 8 == 0 then
        (s.modPkg pkg fun p => { p with windows := insert p.windows win x }).answerWith pkg page r 0 win
      else s.answerWith pkg page r 0x57 0
    | _ => s.answerWith pkg page r 0x55 0

/-- Whether a FETCHR that began on a window has not ended (R436). -/
def State.fetchingOn (s : State) (pkg win : Nat) : Bool :=
  s.cores.any fun c =>
    corePkg c.1 == pkg &&
      c.2.eng.cpy.any fun x => x.begun && recCode x.record == 0x26 && recNum x.record 4 2 == win

/-- UNREGWIN (R436). -/
def execUnregwin (pkg page : Nat) (s : State) : Out :=
  s.serveRequest pkg page 3 fun r =>
    let win := (r.args.getD 0 0).toNat
    if s.fetchingOn pkg win then s
    else (s.modPkg pkg fun p => { p with windows := erase p.windows win }).answerWith pkg page r 0 win

/-! Launches -/

/-- Launches of a graph that have not ended (R436, R437): queued, under way, or not yet acknowledged. -/
def Graph.unended (g : Graph) : Nat := g.pending + g.acks.length + if g.launch.isSome then 1 else 0

/-- LAUNCH (R436, R437, R440). -/
def execLaunch (pkg page : Nat) (s : State) : Out :=
  s.serveRequest pkg page 5 fun r =>
    let num := (r.args.getD 0 0).toNat
    let n := (r.args.getD 1 0).toNat
    let key := pkg * 1024 + num
    match (find? s.graphs key).filter fun _ => num < 1024 with
    | none => s.answerWith pkg page r 0x56 0
    | some g =>
      if 2 ^ 32 - 1 < g.unended + n then s.answerWith pkg page r 0x54 0
      else
        let first := g.nextLaunch + g.pending
        let s : State := { s with graphs := insert s.graphs key { g with pending := g.pending + n } }
        (s.answerWith pkg page r 0 first).beginLaunch key

/-- RELEASE: once the launches of a graph have ended, the graph and its spaces are freed (R436). -/
def execRelease (pkg page : Nat) (s : State) : Out :=
  s.serveRequest pkg page 6 fun r =>
    let num := (r.args.getD 0 0).toNat
    let key := pkg * 1024 + num
    match (find? s.graphs key).filter fun _ => num < 1024 with
    | none => s.answerWith pkg page r 0x56 0
    | some g =>
      if g.unended ≠ 0 then s
      else
        let s : State := { s with graphs := erase s.graphs key }
        (s.modPkg pkg fun p => { p with spaces := p.spaces.filter (·.2.graph ≠ num) }).answerWith pkg page r 0 num

/-! The end of a launch -/

/-- Write bytes in the host's memory by RMA (R435, R440). -/
def State.hostWrite (s : State) (a : Nat) (data : List Byte) : State :=
  { s with
    hostMem := data.zipIdx.foldl (fun m c => put m 0 ((a + c.2) % 2 ^ 64) c.1) s.hostMem }

/-- Status word of a node (R441). -/
def statusWord (n : Node) (st : NodeSt) : Nat :=
  let end_ := match st.run with
    | .done => 1
    | .skipped => 2
    | .faulted => 3
    | _ => 0
  let status := match st.run with
    | .done | .faulted => st.status
    | _ => 0
  (if n.kind.bodyEnd.isSome then min 0xFFFF st.passes else 0) * 2 ^ 16 + end_ * 2 ^ 8 + status

/-- Faulting node with the lowest number (R152). -/
def Graph.faulting (g : Graph) (l : Launch) : Option (Nat × NodeSt) :=
  ((upFrom 0 g.nodes.length).map fun i => (i, l.at_ i)).find? fun x => x.2.run == .faulted

/-- Graph completion record (R153). -/
def Graph.record (g : Graph) (l : Launch) (cycles : Nat) : List Byte :=
  let f := g.faulting l
  toBytes 8 l.num ++ toBytes 2 ((f.map (·.2.status)).getD 0) ++ toBytes 2 ((f.map (·.1)).getD 0xFFFF) ++
    toBytes 4 l.tasks ++ toBytes 8 ((f.map (·.2.info.toNat)).getD 0) ++ toBytes 8 cycles

/-- Whether the completion ring has no room for the record of a launch: the host's count is read at CRCADDR (R440); one
that cannot be read holds no stated value (log 8). -/
def State.ringFull (s : State) (key : Nat) (g : Graph) (l : Launch) : State × Bool :=
  if g.crcaddr = 0 then (s, false)
  else
    match s.purserRead (purserOf (graphPkg key) g.page) g.crcaddr 8 with
    | (s, some n) => (s, ofBytes n + g.crn ≤ l.num)
    | (s, none) => ({ s with free := s.free + 1 }, (Config.freeValue s.free).toNat + g.crn ≤ l.num)

/-- Steps 2 and 3 of R440; the next launch then begins. -/
def State.writeRecord (s : State) (key : Nat) (g : Graph) (l : Launch) (cycles : Nat) : State :=
  let i := l.num % max 1 g.crn
  let words := g.nodes.zipIdx.flatMap fun n => toBytes 4 (statusWord n.1 (l.at_ n.2))
  let s := if g.nsaddr = 0 then s else s.hostWrite (g.nsaddr + 4 * g.nodes.length * i) words
  let s := s.hostWrite (g.craddr + 32 * i) (g.record l cycles)
  let status := ((g.faulting l).map (·.2.status)).getD 0
  let g := { g with launch := none, full := false, acks := g.acks ++ [(l.num, status)] }
  let s : State := { s with graphs := insert s.graphs key g }
  s.beginLaunch key

/-- The purser takes a launch that has ended through steps 1 to 3 of R440; `again` where it has found the ring full. -/
def State.completeLaunch (s : State) (key : Nat) (again : Bool) : State :=
  match find? s.graphs key with
  | none => s
  | some g =>
    match g.launch with
    | none => s
    | some l =>
      match l.stage with
      | .starting | .running => s
      | .formed cycles =>
        if g.full ≠ again then s
        else
          let (s, full) := s.ringFull key g l
          if full then { s with graphs := insert s.graphs key { g with full := true } }
          else s.writeRecord key g l cycles

/-- GRAPH_COMPLETION_RECORD (R153, R440, R441). -/
def execGraphCompletionRecord (graph : Nat) (s : State) : Out := .next (s.completeLaunch graph false)

/-- COMPLETION_COUNT_REREAD: the count is read again while the ring is full (R440). -/
def execCompletionCountReread (graph : Nat) (s : State) : Out := .next (s.completeLaunch graph true)

/-- HOST_ACKNOWLEDGEMENT: the host has acknowledged the writes of a launch, and its completion response is produced, or
dropped where the page has closed (R440). -/
def execHostAcknowledgement (graph : Nat) (s : State) : Out :=
  match find? s.graphs graph with
  | none => .next s
  | some g =>
    match g.acks with
    | [] => .next s
    | (num, status) :: r =>
      let s : State := { s with graphs := insert s.graphs graph { g with acks := r } }
      let pkg := graphPkg graph
      let page := (s.pkg pkg).page g.page
      let x : Response :=
        { tag := g.tag, seq := if page.ver = 1 then 0 else 0xFFFF, op := 0x80, status := status, value := num % 2 ^ 32 }
      .next (if page.isOpen && page.opens == g.opening then s.respond pkg g.page x else s)

/-- Bytes of a response entry (R435). -/
def Response.bytes (r : Response) : List Byte :=
  toBytes 8 r.tag.toNat ++ toBytes 2 r.seq ++ toBytes 1 r.op ++ toBytes 1 r.status ++ toBytes 4 r.value

/-- RESPONSE_WRITE: the oldest response of a page is written once the ring has room (R435). -/
def execResponseWrite (pkg page : Nat) (s : State) : Out :=
  let p := s.pkg pkg
  let g := p.page page
  match g.queue with
  | [] => .next s
  | r :: rest =>
    if p.mailNum page 0x20 8 + 63 ≤ g.written then .next s
    else
      .next ((s.hostWrite (g.rspaddr + 16 * (g.written % 63)) r.bytes).modPage pkg page fun g =>
        { g with queue := rest, written := g.written + 1 })

end Sys2Proof.Machine
end

