-- ==== Sys2Proof/Machine/Submit.lean ====
section
/-! DEFINITION. SUBMIT: descriptors, node records, edges, kernel headers and pipes, and their checks (21, R436 to R438;
20, R422 to R425; 08, R142, R146, R149, R155; 09, R163; 19, R409). -/

namespace Sys2Proof.Machine

/-! Headers -/

/-- Ranges of a kernel header (R142, R422). -/
def headerOk (h : List Byte) : Bool :=
  let f := fieldOf h
  f 0 8 % 2 == 0 && 1 ≤ f 0 8 % 64 / 2 && f 0 8 % 64 / 2 ≤ 30 && 1 ≤ f 8 1 && f 8 1 ≤ 64 && f 9 1 ≤ 32 &&
    f 0x0A 1 ≤ 16 && f 0x0B 1 ≤ 16 && f 0x0C 2 ≤ 512 && f 0x0E 1 ≤ 3 && (f 0x0F 1 < 64 || f 0x0F 1 == 0xFF) &&
    (f 0x0F 1 != 0xFF || f 0x0E 1 == 0) && f 0x10 4 ≤ 0xE_0000 && 1 ≤ f 0x14 1 && f 0x14 1 ≤ 3 && f 0x15 1 ≤ 3 &&
    f 0x16 42 == 0

/-- The header that bytes describe (R422). -/
def headerOf (h : List Byte) : Header :=
  let f := fieldOf h
  { entry := BitVec.ofNat 64 (f 0 8), sregs := f 8 1, vregs := f 9 1, accs := f 0x0A 1, bars := f 0x0C 2
    scratch := f 0x10 4, pipes := f 0x0B 1, radius := f 0x0E 1
    space := if f 0x0F 1 = 0xFF then none else some (f 0x0F 1), scope := f 0x14 1, prio := f 0x15 1 }

/-! Nodes and edges -/

/-- KIND of a node record. -/
def NodeRec.kind (n : NodeRec) : Nat := fieldOf n.bytes 0 1

/-- Edges of a node: target and label (R424). -/
def GraphObj.edgesOf (g : GraphObj) (n : NodeRec) : List (Nat × Nat) :=
  ((g.edges.drop (fieldOf n.bytes 4 4)).take (fieldOf n.bytes 2 2)).map fun e => (e % 65536, e / 65536 % 256)

/-- Ranges of a node record (R424). -/
def NodeRec.ok (n : NodeRec) (nedges : Nat) : Bool :=
  let f := fieldOf n.bytes
  let age := f 0x20 4 == 0 || 1024 ≤ f 0x20 4
  let common := f 4 4 + f 2 2 ≤ nedges && f 0x2E 18 == 0 && n.headers.all headerOk
  common &&
    match n.kind with
    | 0 => f 1 1 == 0 && f 8 8 % 64 == 0 && f 0x18 8 ≤ 2 ^ 40 && age && f 0x28 6 == 0
    | 4 => f 1 1 == 0 && f 8 8 % 64 == 0 && f 0x10 8 % 64 == 0 && f 0x18 8 % 64 == 0 && age
    | 1 => f 1 1 == 0 && f 8 8 % 8 == 0 && f 0x10 24 == 0 && f 0x28 6 == 0
    | 2 => 1 ≤ f 1 1 && f 1 1 ≤ 16 && f 8 8 % 8 == 0 && f 0x10 24 == 0 && f 0x28 6 == 0
    | 3 => f 1 1 == 0 && f 8 8 % 8 == 0 && f 0x14 20 == 0 && f 0x2A 4 == 0
    | _ => false

/-- First and last node of a loop's body. -/
def NodeRec.body (n : NodeRec) : Option (Nat × Nat) :=
  if n.kind = 3 then some (fieldOf n.bytes 0x10 2, fieldOf n.bytes 0x12 2) else none

/-- Labels of a node's edges (R425). -/
def GraphObj.labelsOk (g : GraphObj) (n : NodeRec) : Bool :=
  let es := g.edgesOf n
  match n.kind with
  | 1 => es.all fun e => e.2 ≤ 1
  | 2 =>
    let m := fieldOf n.bytes 1 1
    es.length == m && (upFrom 0 m).all fun l => (es.filter fun e => e.2 == l).length == 1
  | 3 =>
    es.all (fun e => e.2 ≤ 1) && (es.filter fun e => e.2 == 1).map (·.1) == (n.body.map (·.1)).toList
  | _ => es.all fun e => e.2 == 0

/-- The body of a loop node number `i` (R149, R425): its nodes exist and do not hold the loop; its end node carries one
edge of label 0, back to the loop; no other edge leaves it and only the loop's edge of label 1 enters it, at its
entry. -/
def GraphObj.bodyOk (g : GraphObj) (i : Nat) (n : NodeRec) : Bool :=
  match n.body with
  | none => true
  | some (a, b) =>
    let inside := fun x => a ≤ x && x ≤ b
    a ≤ b && b < g.nodes.length && !inside i &&
      g.nodes.zipIdx.all fun m =>
        let es := g.edgesOf m.1
        if m.2 = b then es == [(i, 0)]
        else if inside m.2 then es.all fun e => inside e.1
        else es.all fun e => !inside e.1 || (m.2 == i && e.1 == a && e.2 == 1)

/-- Successors of a node with the back edges of loops set aside (R146). -/
def GraphObj.successors (g : GraphObj) (i : Nat) : List Nat :=
  match g.nodes[i]? with
  | none => []
  | some n =>
    ((g.edgesOf n).map (·.1)).filter fun t =>
      ((g.nodes[t]?).bind fun m => m.body.map (·.2)) != some i

/-- Whether the nodes left can be taken away one after another, each without a successor left: the edges form no cycle
(R146). -/
def GraphObj.acyclic (g : GraphObj) : Nat → List Nat → Bool
  | 0, l => l.isEmpty
  | n + 1, l =>
    let r := l.filter fun i => (g.successors i).any (has l)
    if r.length = l.length then l.isEmpty else g.acyclic n r

/-- The checks of a graph's shape (R146, R149, R424, R425). -/
def GraphObj.shapeOk (g : GraphObj) : Bool :=
  g.edges.all (fun e => e / 2 ^ 24 == 0 && e % 65536 < g.nodes.length) &&
    g.nodes.all (fun n => n.ok g.desc.nedges && g.labelsOk n) &&
    g.nodes.zipIdx.all (fun n => g.bodyOk n.2 n.1) &&
    g.acyclic g.nodes.length (upFrom 0 g.nodes.length) &&
    (g.nodes.filter fun n => (g.edgesOf n).isEmpty).length == 1

/-- FIRST + COUNT within the element space of a bound kernel, where the space is registered (R425). -/
def State.boundOk (s : State) (pkg : Nat) (n : NodeRec) : Bool :=
  match n.kind, n.headers with
  | 0, [h] =>
    match (headerOf h).space.bind (find? (s.pkg pkg).spaces) with
    | some sp => fieldOf n.bytes 0x10 8 + fieldOf n.bytes 0x18 8 ≤ sp.nelem
    | none => true
  | _, _ => true

/-- The package list (R438): this package first, no id twice, a route to each. -/
def State.pkgsOk (s : State) (pkg : Nat) (ids : List Nat) : Bool :=
  ids.head? == some (s.pkg pkg).id && ids.eraseDups.length == ids.length &&
    ids.all fun id => id < 4096 && s.reaches (pkg * 2048 + 1536) id

/-! Gangs -/

/-- A pipe entry of a header: its fields where RING is not zero (R423). -/
def pipeEntry (h : List Byte) (p : Nat) : List Byte := (h.drop (0x40 + 16 * p)).take 16

/-- RING of pipe `p` of a header, 0 where the kernel declares fewer pipes. -/
def ringOf (h : List Byte) (p : Nat) : Nat := if p < fieldOf h 0x0B 1 then fieldOf (pipeEntry h p) 4 4 else 0

/-- Fields of a received pipe, its direction, and its place in the receiver's scratchpad (R155, R409, R423); `m` is the
receiving member, 1 to 3. -/
def pipeOk (hs : List (List Byte)) (m p : Nat) : Bool :=
  let h := hs.getD (m - 1) []
  let e := pipeEntry h p
  let (sh, from_, ring, at_, ovr) := (fieldOf e 0 1, fieldOf e 1 1, fieldOf e 4 4, fieldOf e 8 4, fieldOf e 12 4)
  4 ≤ sh && sh ≤ 8 && 1 ≤ from_ && from_ < m && from_ ≤ 2 && fieldOf e 2 2 == 0 && ring ≤ 4096 && at_ % 16 == 0 &&
    ovr ≤ 2 ^ 20 && at_ + ring * 2 ^ sh ≤ fieldOf h 0x10 4

/-- Extent of a received ring in the scratchpad. -/
def ringSpan (h : List Byte) (p : Nat) : Nat × Nat :=
  let e := pipeEntry h p
  (fieldOf e 8 4, fieldOf e 8 4 + fieldOf e 4 4 * 2 ^ fieldOf e 0 1)

/-- The rings of one kernel do not overlap (R409). -/
def ringsApart (h : List Byte) : Bool :=
  let ps := (upFrom 0 16).filter fun p => ringOf h p != 0
  ps.all fun p => ps.all fun q =>
    p == q || (ringSpan h p).2 ≤ (ringSpan h q).1 || (ringSpan h q).2 ≤ (ringSpan h p).1

/-- Compute cores within a migration scope (R155). -/
def scopeCores (scope : Nat) : Nat := if scope = 1 then 48 else if scope = 2 then 384 else 1536

/-- Instance counts of a gang. -/
def NodeRec.counts (n : NodeRec) : List Nat := (upFrom 0 3).map fun i => fieldOf n.bytes (0x28 + 2 * i) 2

/-- The rules of a gang (R155, R409, R423). -/
def NodeRec.gangOk (n : NodeRec) : Bool :=
  if n.kind ≠ 4 then true
  else
    let hs := n.headers
    let top := (hs.map fun h => fieldOf h 0x0B 1).foldl max 0
    n.counts.all (fun c => 1 ≤ c && c ≤ 512) &&
      n.counts.foldl (· + ·) 0 ≤ (hs.map fun h => scopeCores (fieldOf h 0x14 1)).foldl min 1536 &&
      (upFrom 0 top).all (fun p => (hs.filter fun h => ringOf h p != 0).length == 1) &&
      (upFrom 1 3).all (fun m => (upFrom 0 16).all fun p => ringOf (hs.getD (m - 1) []) p == 0 || pipeOk hs m p) &&
      hs.all ringsApart

/-- Pipes of a gang (R423). -/
def NodeRec.pipes (n : NodeRec) : List PipeDesc :=
  (upFrom 1 3).flatMap fun m =>
    let h := n.headers.getD (m - 1) []
    (upFrom 0 16).filterMap fun p =>
      if ringOf h p = 0 then none
      else
        let e := pipeEntry h p
        some
          { num := p, size := 2 ^ fieldOf e 0 1, src := fieldOf e 1 1, dst := m, ring := fieldOf e 4 4
            at_ := fieldOf e 8 4, ovr := fieldOf e 12 4 }

/-! Holding -/

/-- The node that a record describes (R424). -/
def GraphObj.toNode (g : GraphObj) (n : NodeRec) : Node :=
  let f := fieldOf n.bytes
  let hs := n.headers.map headerOf
  let kind : NodeKind :=
    match n.kind with
    | 0 => .kernel (headerOf (n.headers.getD 0 [])) (f 0x10 8) (f 0x18 8)
    | 1 => .cond (BitVec.ofNat 64 (f 8 8))
    | 2 => .switch (BitVec.ofNat 64 (f 8 8)) (f 1 1)
    | 3 => .loop (BitVec.ofNat 64 (f 8 8)) (f 0x10 2) (f 0x12 2) (f 0x28 2)
    | _ => .gang hs n.counts n.pipes
  { kind := kind, edges := g.edgesOf n, age := f 0x20 4, ovfl := f 0x24 4 }

/-- Whether a package holds a graph under a number, its own or one handed to it (R438). -/
def State.holds (s : State) (pkg num : Nat) : Bool :=
  s.graphs.any fun g => g.2.num == num && (graphPkg g.1 == pkg || has g.2.pkgs (s.pkg pkg).id)

/-- Whether every space that the headers name is registered for the graph in a package (R163). -/
def State.spacesOk (s : State) (pkg : Nat) (g : GraphObj) : Bool :=
  g.nodes.all fun n => n.headers.all fun h =>
    match (headerOf h).space with
    | none => true
    | some i => ((find? (s.pkg pkg).spaces i).map (·.graph)) == some g.desc.graph

/-- Overflow tasks and messages that a node needs (R151, R156): entries of 64 bytes a task, and the messages' bytes. -/
def Node.overflow (n : Node) : Nat :=
  let counts := n.counts
  64 * n.ovfl + (n.pipes.map fun p => counts.getD (p.dst - 1) 0 * p.ovr * p.size).foldl (· + ·) 0

/-- Bytes of overflow areas of the graphs that a package holds, its own and those handed to it. -/
def State.overflowHeld (s : State) (pkg : Nat) : Nat :=
  ((s.graphs.filter fun g => graphPkg g.1 == pkg || has g.2.pkgs (s.pkg pkg).id).map fun g =>
    (g.2.nodes.map Node.overflow).foldl (· + ·) 0).foldl (· + ·) 0

/-- Whether the overflow areas of a graph can be allocated (R437 step 6; log 12); a graph that needs none always can. -/
def State.overflowOk (s : State) (pkg : Nat) (ns : List Node) : Bool :=
  let n := (ns.map Node.overflow).foldl (· + ·) 0
  n == 0 || Config.overflowFits (s.overflowHeld pkg) n

/-- Steps 3, 5 and 6 of R437 in order, as the purser that serves the request checks them: 0, or the status of the refusal. -/
def State.ownStatus (s : State) (pkg : Nat) (g : GraphObj) : Nat :=
  if s.holds pkg g.desc.graph then 0x56
  else if !g.shapeOk || !g.nodes.all (s.boundOk pkg) || !s.pkgsOk pkg g.pkgs then 0x40
  else if !g.nodes.all NodeRec.gangOk then 0x42
  else if !s.spacesOk pkg g then 0x41
  else if !s.overflowOk pkg (g.nodes.map g.toNode) then 0x58
  else 0

/-- The status with which a listed package refuses a graph that is handed to it, or 0: it checks its own graph numbers and
allocates its own overflow areas (R438; log 26). -/
def State.listedStatus (s : State) (g : GraphObj) (id : Nat) : Nat :=
  let o := s.ownerOf id
  if s.holds o g.desc.graph then 0x56 else if !s.overflowOk o (g.nodes.map g.toNode) then 0x58 else 0

/-- The status of a SUBMIT: the purser's own checks, then the listed packages' answers in their order (R437, R438). -/
def State.submitStatus (s : State) (pkg : Nat) (g : GraphObj) : Nat :=
  ((s.ownStatus pkg g) :: (g.pkgs.drop 1).map (s.listedStatus g)).foldl (fun a b => if a ≠ 0 then a else b) 0

/-- The graph is held, ready for launches (R436). -/
def State.holdGraph (s : State) (pkg page : Nat) (tag : Word) (g : GraphObj) : State :=
  let d := g.desc
  let x : Graph :=
    { num := d.graph, pkgs := g.pkgs, nodes := g.nodes.map g.toNode, craddr := d.craddr, crn := d.crn
      nsaddr := d.nsaddr, crcaddr := d.crcaddr, page := page, opening := ((s.pkg pkg).page page).opens, tag := tag, nextLaunch := 0, pending := 0
      launch := none, full := false, acks := [] }
  { s with graphs := insert s.graphs (pkg * 1024 + d.graph) x }

/-- SUBMIT (R436 to R438). -/
def execSubmit (pkg page : Nat) (s : State) : Out :=
  s.serveRequest pkg page 4 fun r =>
    match r.obj with
    | .graph g =>
      let st := s.submitStatus pkg g
      if st = 0 then (s.holdGraph pkg page r.tag g).answerWith pkg page r 0 g.desc.graph
      else s.answerWith pkg page r st 0
    | .badDesc => s.answerWith pkg page r 0x40 0
    | _ => s.answerWith pkg page r 0x55 0

/-- GRAPH_HANDOVER_TIMEOUT: a listed package does not answer within 100 ms the hand-over of a graph that has passed the
purser's own checks (R438). -/
def execGraphHandoverTimeout (pkg page : Nat) (s : State) : Out :=
  s.serveRequest pkg page 4 fun r =>
    match r.obj with
    | .graph g => if 1 < g.pkgs.length && s.ownStatus pkg g = 0 then s.answerWith pkg page r 0x40 0 else s
    | _ => s

end Sys2Proof.Machine
end

