-- ==== Sys2Proof/Machine/Vector.lean ====
section
/-! DEFINITION. Vector arithmetic, comparison, conversion, approximation, movement, reduction and mask instructions
(17, R344 to R354, R359 to R365; 04, R79 to R81). -/

namespace Sys2Proof.Machine

/-- Element width at which a TYPE works; TYPE 0 works on 64 bits (R346). -/
def vwidth (o : VOp) : Nat := if o.ty == .raw then 64 else o.ty.width

/-- Active elements (R345). -/
def active (r : Regs) (o : VOp) : List Bool := maskBits (r.rm o.mask.toNat) (2048 / vwidth o)

/-- Elements of a vector register at the instruction's width. -/
def velems (r : Regs) (o : VOp) (n : Reg) : List Nat := elems (vwidth o) (r.rv n.toNat)

/-- Write the active elements of v[d] (R345). -/
def vwrite (r : Regs) (o : VOp) (xs : List Nat) : Regs :=
  r.wv o.d.toNat (vword (vwidth o) (blend (active r o) xs (velems r o o.d)))

/-- An element-wise instruction of one source. -/
def vunary (g : Guard) (o : VOp) (f : Nat → Nat) (s : State) : Out :=
  regInstr g [] [o.d, o.a] (fun r => vwrite r o ((velems r o o.a).map f)) s

/-- An element-wise instruction of two sources. -/
def vbinary (g : Guard) (o : VOp) (f : Nat → Nat → Nat) (s : State) : Out :=
  regInstr g [] [o.d, o.a, o.b] (fun r => vwrite r o (List.zipWith f (velems r o o.a) (velems r o o.b))) s

/-- An integer result modulo 2^w, or clamped with SAT (R348). -/
def intResult (o : VOp) (x : Int) : Nat := ofInt o.ty.width (if o.flag then clampInt o.ty x else x)

/-- VADD, VSUB, VMUL: the exact result of a floating type rounded once, of an integer type wrapped or clamped (R347,
R348). -/
def varith (o : VOp) (f : Val → Val → Val) (i : Int → Int → Int) (x y : Nat) : Nat :=
  if o.ty.isInt then intResult o (i (intVal o.ty x) (intVal o.ty y))
  else (fconv o.ty o.rm (f (val o.ty x) (val o.ty y))).bits

/-- VADD. -/
def execVadd (g : Guard) (o : VOp) (s : State) : Out := vbinary g o (varith o (Val.add o.rm) (· + ·)) s

/-- VSUB. -/
def execVsub (g : Guard) (o : VOp) (s : State) : Out := vbinary g o (varith o (Val.sub o.rm) (· - ·)) s

/-- VMUL. -/
def execVmul (g : Guard) (o : VOp) (s : State) : Out := vbinary g o (varith o Val.mul (· * ·)) s

/-- One element of VFMA (R347, R348). -/
def vfmaElem (o : VOp) (x y z : Nat) : Nat :=
  if o.ty.isInt then intResult o (intVal o.ty x * intVal o.ty y + intVal o.ty z)
  else (fconv o.ty o.rm (((val o.ty x).mul (val o.ty y)).add o.rm (val o.ty z))).bits

/-- VFMA. -/
def execVfma (g : Guard) (o : VOp) (s : State) : Out :=
  regInstr g [] [o.d, o.a, o.b, o.c]
    (fun r =>
      vwrite r o
        (List.zipWith (fun f z => f z) (List.zipWith (vfmaElem o) (velems r o o.a) (velems r o o.b)) (velems r o o.c)))
    s

/-- The lesser or greater of two elements (R347, R348). -/
def vminmax (t : Ty) (wantMax : Bool) (x y : Nat) : Nat :=
  if t.isInt then
    if wantMax then (if intVal t x < intVal t y then y else x) else (if intVal t y < intVal t x then y else x)
  else fminmax t wantMax x y

/-- VMIN. -/
def execVmin (g : Guard) (o : VOp) (s : State) : Out := vbinary g o (vminmax o.ty false) s

/-- VMAX. -/
def execVmax (g : Guard) (o : VOp) (s : State) : Out := vbinary g o (vminmax o.ty true) s

/-- One element of VABS (R347, R348). -/
def vabsElem (o : VOp) (x : Nat) : Nat :=
  if o.ty.isInt then intResult o (intVal o.ty x).natAbs
  else if (val o.ty x).isNan then (fmtOf o.ty).nanBits
  else x % 2 ^ (o.ty.width - 1)

/-- VABS. -/
def execVabs (g : Guard) (o : VOp) (s : State) : Out := vunary g o (vabsElem o) s

/-- VAND (R349). -/
def execVand (g : Guard) (o : VOp) (s : State) : Out := vbinary g o (· &&& ·) s

/-- VOR (R349). -/
def execVor (g : Guard) (o : VOp) (s : State) : Out := vbinary g o (· ||| ·) s

/-- VXOR (R349). -/
def execVxor (g : Guard) (o : VOp) (s : State) : Out := vbinary g o (· ^^^ ·) s

/-- The shifts, with counts from v[b] modulo the width or from IMM8 (R349). -/
def vshift (g : Guard) (o : VOp) (f : Nat → Nat → Nat) (s : State) : Out :=
  if o.flag then vunary g o (fun x => f x o.imm8.toNat) s else vbinary g o (fun x y => f x (y % o.ty.width)) s

/-- VSHL. -/
def execVshl (g : Guard) (o : VOp) (s : State) : Out := vshift g o (fun x n => x * 2 ^ n) s

/-- VSHR. -/
def execVshr (g : Guard) (o : VOp) (s : State) : Out := vshift g o (fun x n => x / 2 ^ n) s

/-- VSRA. -/
def execVsra (g : Guard) (o : VOp) (s : State) : Out :=
  vshift g o (fun x n => ofInt o.ty.width (toSigned o.ty.width x / 2 ^ n)) s

/-- VCMP (R350). -/
def execVcmp (g : Guard) (o : VOp) (s : State) : Out :=
  regInstr g [] [o.a, o.b]
    (fun r =>
      let cond := (Cond.ofCode o.aux).getD .eq
      let test := fun x y =>
        if o.ty.isInt then condAt cond o.ty x y else fltCond cond (val o.ty x) (val o.ty y)
      let new := List.zipWith test (velems r o o.a) (velems r o o.b)
      let old := maskBits (r.rm o.d.toNat) new.length
      let bits := List.zipWith (fun f y => f y)
        (List.zipWith (fun a x y => if a then x else y) (active r o) new) old
      r.wm o.d.toNat (maskWith (r.rm o.d.toNat) bits))
    s

/-- VSEL (R351). -/
def execVsel (g : Guard) (o : VOp) (s : State) : Out :=
  regInstr g [] [o.d, o.a, o.b]
    (fun r => r.wv o.d.toNat (vword (vwidth o) (blend (active r o) (velems r o o.a) (velems r o o.b)))) s

/-- VCVT (R352). -/
def vcvtRegs (o : VOp) (r : Regs) : Regs :=
  let st := Ty.ofCode o.aux
  let n := 2048 / max st.width o.ty.width
  let src := elems st.width (r.rv o.a.toNat)
  let dst := elems o.ty.width (r.rv o.d.toNat)
  let part := n * o.imm8.toNat
  let conv := fun x => (fconv o.ty o.rm (val st x)).bits
  let m := maskBits (r.rm o.mask.toNat) n
  let from_ := if st.width < o.ty.width then part else 0
  let dstAt := if o.ty.width < st.width then part else 0
  let new := blend m (((src.drop from_).take n).map conv) ((dst.drop dstAt).take n)
  r.wv o.d.toNat (vword o.ty.width (dst.take dstAt ++ new ++ dst.drop (dstAt + n)))

/-- VCVT. -/
def execVcvt (g : Guard) (o : VOp) (s : State) : Out := regInstr g [] [o.d, o.a] (vcvtRegs o) s

/-! Approximations -/

/-- Largest member of G_t (R353). -/
def gMax (f : FFmt) : Nat × Int :=
  if f.mbits ≤ 11 then f.maxFin else (2 ^ 12 - 1, (f.bias : Int) - 11)

/-- The member of G_t that a mode selects for a finite value, with the overflow test of R353. -/
def gRound (t : Ty) (rm : Rm) (v : Val) : Nat :=
  let f := fmtOf t
  match v with
  | .fin neg m e =>
    if m = 0 then f.signBit neg
    else
      let top : Int := e + (Nat.log2 m : Nat)
      let p12 : Int := top - 11
      if magLt (gMax f).1 (gMax f).2 (roundAt rm neg m e p12) p12 then
        let maxBits := f.pack neg ((gMax f).1 * 2 ^ (f.mbits - 11)) (f.maxFin.2)
        match rm with
        | .near => f.infBits neg
        | .chop => maxBits
        | .down => if neg then f.infBits true else maxBits
        | .up => if neg then maxBits else f.infBits false
      else
        let q := max (top - (min 11 f.mbits : Nat)) f.qmin
        (f.conv .chop (.fin neg (roundAt rm neg m e q) q)).bits
  | .inf neg => f.infBits neg
  | .nan => f.nanBits

/-- 1/√x of a positive value (log 16). -/
def rsqrt (m : Nat) (e : Int) : Val :=
  let sh : Int := 400 + e % 2
  let n := 2 ^ sh.toNat
  let r := isqrt (n / m)
  stickied false r (-(e + sh) / 2) (r * r * m != n)

/-- Fraction bits of the fixed-point computations of 2^x and log2 x (log 16). -/
def fracBits : Nat := 320

/-- The product of the roots 2^(2^-i) over the bits of a fraction, from the top: `c` is the root of the next bit. -/
def exp2Frac : Nat → Nat → Nat → Nat → Nat
  | 0, _, _, acc => acc
  | n + 1, f, c, acc =>
    let c := isqrt (c * 2 ^ fracBits)
    exp2Frac n f c (if f / 2 ^ n % 2 = 1 then acc * c / 2 ^ fracBits else acc)

/-- 2^x (R353; log 16). -/
def exp2 (neg : Bool) (m : Nat) (e : Int) : Val :=
  if m = 0 then .fin false 1 0
  else if 12 < e + (Nat.log2 m : Nat) then .fin false 3 (if neg then -5000 else 5000)
  else
    let d : Nat := (-e).toNat
    let x : Int := if neg then -((m * 2 ^ e.toNat : Nat) : Int) else (m * 2 ^ e.toNat : Nat)
    let n := x / (2 ^ d : Nat)
    let f := (x % (2 ^ d : Nat)).toNat
    if f = 0 then .fin false 1 n
    else stickied false (exp2Frac d f (2 * 2 ^ fracBits) (2 ^ fracBits)) (n - (fracBits : Nat)) true

/-- Bits of log2 of a fixed-point number in [1, 2), by squaring. -/
def log2Frac : Nat → Nat → Nat
  | 0, _ => 0
  | n + 1, z =>
    let z := z * z / 2 ^ fracBits
    if 2 * 2 ^ fracBits ≤ z then 2 ^ n + log2Frac n (z / 2) else log2Frac n z

/-- log2 of a positive value (R353; log 16). -/
def log2 (m : Nat) (e : Int) : Val :=
  let l := Nat.log2 m
  let i : Int := e + (l : Nat)
  if m = 2 ^ l then .ofInt i
  else
    let y : Int := i * (2 ^ 100 : Nat) + (log2Frac 100 (m * 2 ^ fracBits / 2 ^ l) : Nat)
    if y < 0 then stickied true (-y - 1).toNat (-100) true else stickied false y.toNat (-100) true

/-- VRCP: 1/x (R353). -/
def rcpVal : Val → Val
  | .fin n m e => if m = 0 then .inf n else (Val.fin false 1 0).div (.fin n m e)
  | .inf n => .fin n 0 0
  | .nan => .nan

/-- VRSQ: 1/√x (R353). -/
def rsqVal : Val → Val
  | .fin n m e => if m = 0 then .inf n else if n then .nan else rsqrt m e
  | .inf n => if n then .nan else .fin false 0 0
  | .nan => .nan

/-- VEXP2: 2^x (R353). -/
def exp2Val : Val → Val
  | .fin n m e => exp2 n m e
  | .inf n => if n then .fin false 0 0 else .inf false
  | .nan => .nan

/-- VLOG2 (R353). -/
def log2Val : Val → Val
  | .fin n m e => if m = 0 then .inf true else if n then .nan else log2 m e
  | .inf n => if n then .nan else .inf false
  | .nan => .nan

/-- The approximations (R353). -/
def vapprox (g : Guard) (o : VOp) (f : Val → Val) (s : State) : Out :=
  vunary g o (fun x => gRound o.ty o.rm (f (val o.ty x))) s

/-- VRCP. -/
def execVrcp (g : Guard) (o : VOp) (s : State) : Out := vapprox g o rcpVal s

/-- VRSQ. -/
def execVrsq (g : Guard) (o : VOp) (s : State) : Out := vapprox g o rsqVal s

/-- VEXP2. -/
def execVexp2 (g : Guard) (o : VOp) (s : State) : Out := vapprox g o exp2Val s

/-- VLOG2. -/
def execVlog2 (g : Guard) (o : VOp) (s : State) : Out := vapprox g o log2Val s

/-- VCLMUL: the low or high half of the carry-less product (R354). -/
def execVclmul (g : Guard) (o : VOp) (s : State) : Out :=
  vbinary g o
    (fun x y =>
      let p := clmul o.ty.width x y
      if o.flag then p / 2 ^ o.ty.width else p)
    s

/-- VPOPC (R354). -/
def execVpopc (g : Guard) (o : VOp) (s : State) : Out := vunary g o (popc o.ty.width) s

/-! Permutation and movement -/

/-- VBCAST (R359). -/
def execVbcast (g : Guard) (o : VOp) (s : State) : Out :=
  regInstr g [o.a] [o.d]
    (fun r => vwrite r o (List.replicate (2048 / vwidth o) ((r.rs o.a).toNat % 2 ^ vwidth o))) s

/-- VPERM (R359). -/
def execVperm (g : Guard) (o : VOp) (s : State) : Out :=
  regInstr g [] [o.d, o.a, o.b]
    (fun r =>
      let a := velems r o o.a
      vwrite r o ((velems r o o.b).map fun j => a.getD j 0))
    s

/-- VSLIDE (R359). -/
def execVslide (g : Guard) (o : VOp) (s : State) : Out :=
  regInstr g [] [o.d, o.a, o.b]
    (fun r => vwrite r o (((velems r o o.a ++ velems r o o.b).drop o.imm8.toNat).take (2048 / vwidth o))) s

/-- The elements a mask selects. -/
def pick : List Bool → List Nat → List Nat
  | b :: bs, x :: xs => if b then x :: pick bs xs else pick bs xs
  | _, _ => []

/-- Selected places take the next element of a source, others keep theirs. -/
def spread : List Bool → List Nat → List Nat → List Nat
  | true :: bs, x :: xs, _ :: ys => x :: spread bs xs ys
  | _ :: bs, xs, y :: ys => y :: spread bs xs ys
  | _, _, _ => []

/-- VCOMP (R360). -/
def execVcomp (g : Guard) (o : VOp) (s : State) : Out :=
  regInstr g [o.c] [o.d, o.a]
    (fun r =>
      let xs := pick (active r o) (velems r o o.a)
      (r.wv o.d.toNat (vword (vwidth o) xs)).ws o.c (BitVec.ofNat 64 xs.length))
    s

/-- VEXPD (R360). -/
def execVexpd (g : Guard) (o : VOp) (s : State) : Out :=
  regInstr g [] [o.d, o.a]
    (fun r => r.wv o.d.toNat (vword (vwidth o) (spread (active r o) (velems r o o.a) (velems r o o.d)))) s

/-! Reductions, scans, selection -/

/-- Operation of VRED and VSCAN (R361). -/
def redOp (o : VOp) (x y : Nat) : Nat :=
  match o.aux.toNat with
  | 0 =>
    if o.ty.isInt then (x + y) % 2 ^ o.ty.width
    else (fconv o.ty o.rm ((val o.ty x).add o.rm (val o.ty y))).bits
  | 1 => vminmax o.ty false x y
  | 2 => vminmax o.ty true x y
  | 3 => x &&& y
  | 4 => x ||| y
  | _ => x ^^^ y

/-- Identity of an operation (R361). -/
def redIdentity (o : VOp) : Nat :=
  let f := fmtOf o.ty
  match o.aux.toNat with
  | 0 => if o.ty.isInt then 0 else f.signBit true
  | 1 => if o.ty.isInt then ofInt o.ty.width (intMax o.ty) else f.infBits false
  | 2 => if o.ty.isInt then ofInt o.ty.width (intMin o.ty) else f.infBits true
  | 3 => 2 ^ o.ty.width - 1
  | _ => 0

/-- RedTree over 2^k elements (R80). -/
def redTree (op : Nat → Nat → Nat) : Nat → List Nat → Nat
  | 0, l => l.headD 0
  | k + 1, l => redTree op k (List.zipWith op (l.take (2 ^ k)) (l.drop (2 ^ k)))

/-- ScanTree: `k` steps remain, the next one at distance `h` (R81). -/
def scanTree (op : Nat → Nat → Nat) : Nat → Nat → List Nat → List Nat
  | 0, _, l => l
  | k + 1, h, l => scanTree op k (2 * h) (l.take h ++ List.zipWith op l (l.drop h))

/-- The source with inactive elements replaced by the identity (R80). -/
def redSource (r : Regs) (o : VOp) : List Nat :=
  let xs := velems r o o.a
  blend (active r o) xs (xs.map fun _ => redIdentity o)

/-- VRED (R361). -/
def execVred (g : Guard) (o : VOp) (s : State) : Out :=
  regInstr g [o.d] [o.a]
    (fun r => r.ws o.d (extend (redTree (redOp o) (Nat.log2 (2048 / vwidth o)) (redSource r o)) o.ty)) s

/-- VSCAN (R362). -/
def execVscan (g : Guard) (o : VOp) (s : State) : Out :=
  regInstr g [] [o.d, o.a]
    (fun r => vwrite r o (scanTree (redOp o) (Nat.log2 (2048 / vwidth o)) 1 (redSource r o))) s

/-- Whether an element ranks strictly before another (R363). -/
def ranks (t : Ty) (x y : Nat) : Bool :=
  if t.isInt then intVal t y < intVal t x
  else
    let a := val t x
    let b := val t y
    if a.isNan then false else if b.isNan then true else b.lt a

/-- Insert a lane, after those that rank no lower (R363). -/
def rankInsert (t : Ty) (x : Nat × Nat) : List (Nat × Nat) → List (Nat × Nat)
  | [] => [x]
  | y :: r => if ranks t x.2 y.2 then x :: y :: r else y :: rankInsert t x r

/-- VTOPK (R363). -/
def execVtopk (g : Guard) (o : VOp) (s : State) : Out :=
  regInstr g [] [o.d, o.a]
    (fun r =>
      let xs := velems r o o.a
      let lanes := ((upFrom 0 xs.length).zip xs).filter fun x => (r.rm o.mask.toNat).getLsbD x.1
      let l := (lanes.foldl (fun l x => rankInsert o.ty x l) []).map (·.1)
      let out := (upFrom 0 64).map fun j =>
        if o.imm8.toNat ≤ j then 0 else l.getD j 0xFFFF_FFFF
      r.wv o.d.toNat (vword 32 out))
    s

/-- VMOVS (R364). -/
def vmovsInstr (o : VOp) : M Unit := do
  let c ← theCore
  let r := c.regs
  let w := vwidth o
  let j := (r.rs o.b + o.imm8.setWidth 64).toNat
  require (j < 2048 / w) 0x1D
  if o.flag then
    let old := velems r o o.d
    modMe fun c => { c with
      regs := r.wv o.d.toNat (vword w (modifyAt old j fun _ => (r.rs o.a).toNat % 2 ^ w)) }
  else wrS o.d (extend (elemAt w (r.rv o.a.toNat) j) o.ty)

/-- VMOVS. -/
def execVmovs (g : Guard) (o : VOp) (s : State) : Out :=
  instr g (if o.flag then [o.a, o.b] else [o.d, o.b]) (if o.flag then [o.d] else [o.a]) (vmovsInstr o) s

/-! Masks -/

/-- MLOG (R365). -/
def execMlog (g : Guard) (o : VOp) (s : State) : Out :=
  regInstr g [] []
    (fun r =>
      let bits := List.zipWith (ttBit o.aux) (maskBits (r.rm o.a.toNat) 256) (maskBits (r.rm o.b.toNat) 256)
      r.wm o.d.toNat (BitVec.ofNat 256 (ofBools bits)))
    s

/-- MGET (R365). -/
def execMget (g : Guard) (o : VOp) (s : State) : Out :=
  regInstr g [o.d] [] (fun r => r.ws o.d ((r.rm o.a.toNat >>> (64 * o.imm8.toNat)).setWidth 64)) s

/-- MSET (R365). -/
def execMset (g : Guard) (o : VOp) (s : State) : Out :=
  regInstr g [o.a] []
    (fun r =>
      let sh := 64 * o.imm8.toNat
      let keep := r.rm o.d.toNat &&& ~~~((0xFFFF_FFFF_FFFF_FFFF : MWord) <<< sh)
      r.wm o.d.toNat (keep ||| (((r.rs o.a).setWidth 256 : MWord) <<< sh)))
    s

end Sys2Proof.Machine
end

