-- ==== Sys2Proof/Machine/VectorMem.lean ====
section
/-! DEFINITION. The vector memory forms (17, R355 to R358). -/

namespace Sys2Proof.Machine

/-- An access cut at the 64-byte lines it covers: addresses with lengths. -/
def lineCuts (ea n : Nat) : List (Nat × Nat) :=
  (upFrom (ea / 64) ((ea + n + 63) / 64 - ea / 64)).map fun l =>
    (max ea (64 * l), min (ea + n) (64 * l + 64) - max ea (64 * l))

/-- VecCheck(ea, e, size, space) (R356): the places of the access with their addresses and lengths; in L and X space
one place. -/
def vecCheck (space : Space) (need : Need) (posted : Bool) (ea : Word) (e n : Nat) : M (List (Place × Nat × Nat)) := do
  if space = .l then declCheck ea.toNat n
  if ea.toNat % e ≠ 0 then badAddr 0x29 ea.toNat
  match space with
  | .g | .v =>
    collect (lineCuts ea.toNat n) fun c => do
      let p ← resolve space need posted (c.1 % 2 ^ 64) c.2
      pure (p, c.1 % 2 ^ 64, c.2)
  | _ => do
    let p ← resolve space need posted ea.toNat n
    pure [(p, ea.toNat, n)]

/-- Load the places of an access in turn. -/
def loadPlaces (l : List (Place × Nat × Nat)) : M (List Byte) := do
  let bs ← collect l fun x => loadPlace .plain x.2.2 x.2.1 x.1
  pure bs.flatten

/-- The places of an access with their shares of the data. -/
def share : List (Place × Nat × Nat) → List Byte → List (Place × List Byte)
  | [], _ => []
  | (p, _, n) :: r, data => (p, data.take n) :: share r (data.drop n)

/-- VLD (R356). -/
def execVld (g : Guard) (o : MemOp) (s : State) : Out :=
  instr g [o.base] [o.d]
    (do
      let ps ← vecCheck o.space .r false (memEa o s.me.regs) o.ty.size 256
      orderRel o.order o.scope
      let bs ← loadPlaces ps
      modMe fun c => { c with regs := c.regs.wv o.d.toNat (ofVbytes bs) }
      orderAcq o.order o.scope)
    s

/-- VST (R356). -/
def execVst (g : Guard) (o : MemOp) (s : State) : Out :=
  instr g [o.base] [o.d]
    (do
      let ps ← vecCheck o.space .w true (memEa o s.me.regs) o.ty.size 256
      storeWith o.order o.scope (share ps (vbytes (s.me.regs.rv o.d.toNat) 256)))
    s

/-- A fault of an element carries its number and its address (R357, R450, R451). -/
def withElem {α : Type} (i : Nat) (addr : Word) (m : M α) : M α := fun s =>
  match m s with
  | .error (.fault t n u) => .error (.fault { t with elem := i, info := addrInfo t.status addr.toNat } n u)
  | r => r

/-- Addresses of the active elements with their numbers (R357). -/
def elemAddrs (o : VMemOp) (r : Regs) (addr : Nat → Word) : List (Nat × Word) :=
  ((upFrom 0 (2048 / o.ty.width)).filter fun i => (r.rm o.mask.toNat).getLsbD i).map fun i => (i, addr i)

/-- Addresses of the strided forms: s[a] + i · s[b] (R357). -/
def stridedAddr (o : VMemOp) (r : Regs) (i : Nat) : Word := r.rs o.a + BitVec.ofNat 64 i * r.rs o.b

/-- Addresses of the indexed forms: s[a] plus the shifted index element (R357). -/
def indexedAddr (o : VMemOp) (r : Regs) (i : Nat) : Word :=
  r.rs o.a + BitVec.ofNat 64 (elemAt o.ty.width (r.rv o.b.toNat) i) <<< o.sc.toNat

/-- Every active element is checked before any moves (R357). -/
def elemChecks (o : VMemOp) (need : Need) (posted : Bool) (l : List (Nat × Word)) :
    M (List (Nat × Word × List (Place × Nat × Nat))) :=
  collect l fun x => do
    let ps ← withElem x.1 x.2 (vecCheck o.space need posted x.2 o.ty.size o.ty.size)
    pure (x.1, x.2, ps)

/-- Write numbered elements of v[d]; the others keep their values. -/
def setElems (o : VMemOp) (r : Regs) (xs : List (Nat × Nat)) : Regs :=
  let old := elems o.ty.width (r.rv o.d.toNat)
  r.wv o.d.toNat (vword o.ty.width (xs.foldl (fun l x => modifyAt l x.1 fun _ => x.2) old))

/-- VLDS and VLDG (R357). -/
def elemLoad (o : VMemOp) (addr : Regs → Nat → Word) : M Unit := do
  let c ← theCore
  let l ← elemChecks o .r false (elemAddrs o c.regs (addr c.regs))
  orderRel o.order o.scope
  let xs ← collect l fun x => do
    let bs ← withElem x.1 x.2.1 (loadPlaces x.2.2)
    pure (x.1, ofBytes bs)
  modMe fun c => { c with regs := setElems o c.regs xs }
  orderAcq o.order o.scope

/-- VSTS and VSTG (R357, R358). -/
def elemStore (o : VMemOp) (addr : Regs → Nat → Word) : M Unit := do
  let c ← theCore
  let l ← elemChecks o .w true (elemAddrs o c.regs (addr c.regs))
  let data := fun i => toBytes o.ty.size (elemAt o.ty.width (c.regs.rv o.d.toNat) i)
  storeWith o.order o.scope (l.flatMap fun x => share x.2.2 (data x.1))

/-- VLDS (R357). -/
def execVlds (g : Guard) (o : VMemOp) (s : State) : Out := instr g [o.a, o.b] [o.d] (elemLoad o (stridedAddr o)) s

/-- VSTS (R357). -/
def execVsts (g : Guard) (o : VMemOp) (s : State) : Out := instr g [o.a, o.b] [o.d] (elemStore o (stridedAddr o)) s

/-- VLDG (R357). -/
def execVldg (g : Guard) (o : VMemOp) (s : State) : Out := instr g [o.a] [o.d, o.b] (elemLoad o (indexedAddr o)) s

/-- VSTG (R357). -/
def execVstg (g : Guard) (o : VMemOp) (s : State) : Out := instr g [o.a] [o.d, o.b] (elemStore o (indexedAddr o)) s

end Sys2Proof.Machine
end

