-- ==== Sys2Proof/Machine/Dispatch.lean ====
section
/-! DEFINITION. One arm per constructor of Instr. -/

namespace Sys2Proof.Machine

def exec (i : Instr) (s : State) : Host.Outcome State Fault Refusal :=
  match i with
  | .add g d a b => Sys2Proof.Machine.execAdd g d a b s
  | .sub g d a b => Sys2Proof.Machine.execSub g d a b s
  | .and g d a b => Sys2Proof.Machine.execAnd g d a b s
  | .or g d a b => Sys2Proof.Machine.execOr g d a b s
  | .xor g d a b => Sys2Proof.Machine.execXor g d a b s
  | .andn g d a b => Sys2Proof.Machine.execAndn g d a b s
  | .orn g d a b => Sys2Proof.Machine.execOrn g d a b s
  | .shl g d a b => Sys2Proof.Machine.execShl g d a b s
  | .shr g d a b => Sys2Proof.Machine.execShr g d a b s
  | .sra g d a b => Sys2Proof.Machine.execSra g d a b s
  | .rol g d a b => Sys2Proof.Machine.execRol g d a b s
  | .mul g d a b => Sys2Proof.Machine.execMul g d a b s
  | .mulh g d a b => Sys2Proof.Machine.execMulh g d a b s
  | .mulhz g d a b => Sys2Proof.Machine.execMulhz g d a b s
  | .div g d a b => Sys2Proof.Machine.execDiv g d a b s
  | .divz g d a b => Sys2Proof.Machine.execDivz g d a b s
  | .rem g d a b => Sys2Proof.Machine.execRem g d a b s
  | .remz g d a b => Sys2Proof.Machine.execRemz g d a b s
  | .min g d a b => Sys2Proof.Machine.execMin g d a b s
  | .max g d a b => Sys2Proof.Machine.execMax g d a b s
  | .minz g d a b => Sys2Proof.Machine.execMinz g d a b s
  | .maxz g d a b => Sys2Proof.Machine.execMaxz g d a b s
  | .clz g d a => Sys2Proof.Machine.execClz g d a s
  | .ctz g d a => Sys2Proof.Machine.execCtz g d a s
  | .popc g d a => Sys2Proof.Machine.execPopc g d a s
  | .brev g d a => Sys2Proof.Machine.execBrev g d a s
  | .sext g t d a => Sys2Proof.Machine.execSext g t d a s
  | .zext g t d a => Sys2Proof.Machine.execZext g t d a s
  | .cmp g cond t d a b => Sys2Proof.Machine.execCmp g cond t d a b s
  | .sel g sel d a b => Sys2Proof.Machine.execSel g sel d a b s
  | .plog g tt d a b => Sys2Proof.Machine.execPlog g tt d a b s
  | .pget g d => Sys2Proof.Machine.execPget g d s
  | .pset g a => Sys2Proof.Machine.execPset g a s
  | .addi g d a imm => Sys2Proof.Machine.execAddi g d a imm s
  | .andi g d a imm => Sys2Proof.Machine.execAndi g d a imm s
  | .ori g d a imm => Sys2Proof.Machine.execOri g d a imm s
  | .xori g d a imm => Sys2Proof.Machine.execXori g d a imm s
  | .shli g d a imm => Sys2Proof.Machine.execShli g d a imm s
  | .shri g d a imm => Sys2Proof.Machine.execShri g d a imm s
  | .srai g d a imm => Sys2Proof.Machine.execSrai g d a imm s
  | .cmpi g cond p a imm => Sys2Proof.Machine.execCmpi g cond p a imm s
  | .cmpiHi g cond p a imm => Sys2Proof.Machine.execCmpiHi g cond p a imm s
  | .movi g d imm => Sys2Proof.Machine.execMovi g d imm s
  | .addpc g d h imm => Sys2Proof.Machine.execAddpc g d h imm s
  | .clmul g d a b => Sys2Proof.Machine.execClmul g d a b s
  | .clmulh g d a b => Sys2Proof.Machine.execClmulh g d a b s
  | .fadd g t rm d a b => Sys2Proof.Machine.execFadd g t rm d a b s
  | .fsub g t rm d a b => Sys2Proof.Machine.execFsub g t rm d a b s
  | .fmul g t rm d a b => Sys2Proof.Machine.execFmul g t rm d a b s
  | .fma g t rm d a b c => Sys2Proof.Machine.execFma g t rm d a b c s
  | .fdiv g t rm d a b => Sys2Proof.Machine.execFdiv g t rm d a b s
  | .fsqrt g dbl rm d a => Sys2Proof.Machine.execFsqrt g dbl rm d a s
  | .fmin g t d a b => Sys2Proof.Machine.execFmin g t d a b s
  | .fmax g t d a b => Sys2Proof.Machine.execFmax g t d a b s
  | .fcmp g cond t d a b => Sys2Proof.Machine.execFcmp g cond t d a b s
  | .fcvt g dt st rm d a => Sys2Proof.Machine.execFcvt g dt st rm d a s
  | .fclass g dbl d a => Sys2Proof.Machine.execFclass g dbl d a s
  | .nop g => Sys2Proof.Machine.execNop g s
  | .br g h off => Sys2Proof.Machine.execBr g h off s
  | .jmp g a => Sys2Proof.Machine.execJmp g a s
  | .call g h off => Sys2Proof.Machine.execCall g h off s
  | .calli g a => Sys2Proof.Machine.execCalli g a s
  | .ret g => Sys2Proof.Machine.execRet g s
  | .loop g h off a => Sys2Proof.Machine.execLoop g h off a s
  | .exit g => Sys2Proof.Machine.execExit g s
  | .trap g imm => Sys2Proof.Machine.execTrap g imm s
  | .eret g => Sys2Proof.Machine.execEret g s
  | .wfi g => Sys2Proof.Machine.execWfi g s
  | .halt g => Sys2Proof.Machine.execHalt g s
  | .srd g d idx => Sys2Proof.Machine.execSrd g d idx s
  | .swr g a idx => Sys2Proof.Machine.execSwr g a idx s
  | .ifence g => Sys2Proof.Machine.execIfence g s
  | .ld g o => Sys2Proof.Machine.execLd g o s
  | .ldNc g o => Sys2Proof.Machine.execLdNc g o s
  | .ldRo g o => Sys2Proof.Machine.execLdRo g o s
  | .st g o => Sys2Proof.Machine.execSt g o s
  | .rld g o => Sys2Proof.Machine.execRld g o s
  | .rst g o => Sys2Proof.Machine.execRst g o s
  | .ldfeFf g o => Sys2Proof.Machine.execLdfeFf g o s
  | .ldfeFe g o => Sys2Proof.Machine.execLdfeFe g o s
  | .stfeEf g o => Sys2Proof.Machine.execStfeEf g o s
  | .stfeSf g o => Sys2Proof.Machine.execStfeSf g o s
  | .stfeSe g o => Sys2Proof.Machine.execStfeSe g o s
  | .amo g op o => Sys2Proof.Machine.execAmo g op o s
  | .cas g o => Sys2Proof.Machine.execCas g o s
  | .amaxrs g o => Sys2Proof.Machine.execAmaxrs g o s
  | .fenceAcq g scope => Sys2Proof.Machine.execFenceAcq g scope s
  | .fenceRel g scope => Sys2Proof.Machine.execFenceRel g scope s
  | .fenceAr g scope => Sys2Proof.Machine.execFenceAr g scope s
  | .sfence g => Sys2Proof.Machine.execSfence g s
  | .pref g offset space base => Sys2Proof.Machine.execPref g offset space base s
  | .cinv g offset space base d => Sys2Proof.Machine.execCinv g offset space base d s
  | .cinvRo g offset space base d => Sys2Proof.Machine.execCinvRo g offset space base d s
  | .bara g rel a b => Sys2Proof.Machine.execBara g rel a b s
  | .barw g acq a => Sys2Proof.Machine.execBarw g acq a s
  | .bar g rel acq a b => Sys2Proof.Machine.execBar g rel acq a b s
  | .evwait g acq d a => Sys2Proof.Machine.execEvwait g acq d a s
  | .evsig g rel a => Sys2Proof.Machine.execEvsig g rel a s
  | .mtxl g a => Sys2Proof.Machine.execMtxl g a s
  | .mtxu g a => Sys2Proof.Machine.execMtxu g a s
  | .sstep g level => Sys2Proof.Machine.execSstep g level s
  | .waita g o => Sys2Proof.Machine.execWaita g o s
  | .waitc g acq k a imm => Sys2Proof.Machine.execWaitc g acq k a imm s
  | .cadd g k a imm => Sys2Proof.Machine.execCadd g k a imm s
  | .send g o => Sys2Proof.Machine.execSend g o s
  | .sendp g rel pipe a b => Sys2Proof.Machine.execSendp g rel pipe a b s
  | .recvp g acq pipe d p => Sys2Proof.Machine.execRecvp g acq pipe d p s
  | .post g role rel a => Sys2Proof.Machine.execPost g role rel a s
  | .harn g d a b => Sys2Proof.Machine.execHarn g d a b s
  | .detach g => Sys2Proof.Machine.execDetach g s
  | .rejoin g => Sys2Proof.Machine.execRejoin g s
  | .vadd g o => Sys2Proof.Machine.execVadd g o s
  | .vsub g o => Sys2Proof.Machine.execVsub g o s
  | .vmul g o => Sys2Proof.Machine.execVmul g o s
  | .vfma g o => Sys2Proof.Machine.execVfma g o s
  | .vmin g o => Sys2Proof.Machine.execVmin g o s
  | .vmax g o => Sys2Proof.Machine.execVmax g o s
  | .vabs g o => Sys2Proof.Machine.execVabs g o s
  | .vand g o => Sys2Proof.Machine.execVand g o s
  | .vor g o => Sys2Proof.Machine.execVor g o s
  | .vxor g o => Sys2Proof.Machine.execVxor g o s
  | .vshl g o => Sys2Proof.Machine.execVshl g o s
  | .vshr g o => Sys2Proof.Machine.execVshr g o s
  | .vsra g o => Sys2Proof.Machine.execVsra g o s
  | .vcmp g o => Sys2Proof.Machine.execVcmp g o s
  | .vsel g o => Sys2Proof.Machine.execVsel g o s
  | .vcvt g o => Sys2Proof.Machine.execVcvt g o s
  | .vrcp g o => Sys2Proof.Machine.execVrcp g o s
  | .vrsq g o => Sys2Proof.Machine.execVrsq g o s
  | .vexp2 g o => Sys2Proof.Machine.execVexp2 g o s
  | .vlog2 g o => Sys2Proof.Machine.execVlog2 g o s
  | .vclmul g o => Sys2Proof.Machine.execVclmul g o s
  | .vpopc g o => Sys2Proof.Machine.execVpopc g o s
  | .vld g o => Sys2Proof.Machine.execVld g o s
  | .vst g o => Sys2Proof.Machine.execVst g o s
  | .vlds g o => Sys2Proof.Machine.execVlds g o s
  | .vsts g o => Sys2Proof.Machine.execVsts g o s
  | .vldg g o => Sys2Proof.Machine.execVldg g o s
  | .vstg g o => Sys2Proof.Machine.execVstg g o s
  | .vbcast g o => Sys2Proof.Machine.execVbcast g o s
  | .vperm g o => Sys2Proof.Machine.execVperm g o s
  | .vslide g o => Sys2Proof.Machine.execVslide g o s
  | .vcomp g o => Sys2Proof.Machine.execVcomp g o s
  | .vexpd g o => Sys2Proof.Machine.execVexpd g o s
  | .vred g o => Sys2Proof.Machine.execVred g o s
  | .vscan g o => Sys2Proof.Machine.execVscan g o s
  | .vtopk g o => Sys2Proof.Machine.execVtopk g o s
  | .vmovs g o => Sys2Proof.Machine.execVmovs g o s
  | .mlog g o => Sys2Proof.Machine.execMlog g o s
  | .mget g o => Sys2Proof.Machine.execMget g o s
  | .mset g o => Sys2Proof.Machine.execMset g o s
  | .enq g try_ p o => Sys2Proof.Machine.execEnq g try_ p o s
  | .enqm g b o => Sys2Proof.Machine.execEnqm g b o s
  | .deq g try_ p d b => Sys2Proof.Machine.execDeq g try_ p d b s
  | .eqstat g q d => Sys2Proof.Machine.execEqstat g q d s
  | .rfence g => Sys2Proof.Machine.execRfence g s
  | .qmov g dir d a => Sys2Proof.Machine.execQmov g dir d a s
  | .mstat g slot d a => Sys2Proof.Machine.execMstat g slot d a s
  | .lsplitWrite core v => Sys2Proof.Machine.execLsplitWrite core v s
  | .bfmtWrite core bank v => Sys2Proof.Machine.execBfmtWrite core bank v s
  | .mthrWrite core v => Sys2Proof.Machine.execMthrWrite core v s
  | .tlbinv core v => Sys2Proof.Machine.execTlbinv core v s
  | .regionTableWrite die n v => Sys2Proof.Machine.execRegionTableWrite die n v s
  | .routeTableWrite die p v => Sys2Proof.Machine.execRouteTableWrite die p v s
  | .sysregWrite core idx v => Sys2Proof.Machine.execSysregWrite core idx v s
  | .mzero core => Sys2Proof.Machine.execMzero core s
  | .mldb core => Sys2Proof.Machine.execMldb core s
  | .mmul core => Sys2Proof.Machine.execMmul core s
  | .mepi core => Sys2Proof.Machine.execMepi core s
  | .miter core => Sys2Proof.Machine.execMiter core s
  | .miterPhase core => Sys2Proof.Machine.execMiterPhase core s
  | .mrel core => Sys2Proof.Machine.execMrel core s
  | .mspill core => Sys2Proof.Machine.execMspill core s
  | .mfill core => Sys2Proof.Machine.execMfill core s
  | .copy core => Sys2Proof.Machine.execCopy core s
  | .fill core => Sys2Proof.Machine.execFill core s
  | .pack core => Sys2Proof.Machine.execPack core s
  | .unpack core => Sys2Proof.Machine.execUnpack core s
  | .gather core => Sys2Proof.Machine.execGather core s
  | .scatter core => Sys2Proof.Machine.execScatter core s
  | .fetchr core => Sys2Proof.Machine.execFetchr core s
  | .fetchrUnitArrival core unit => Sys2Proof.Machine.execFetchrUnitArrival core unit s
  | .fetchrReadTimeout core => Sys2Proof.Machine.execFetchrReadTimeout core s
  | .vdec die idx => Sys2Proof.Machine.execVdec die idx s
  | .rsz die idx => Sys2Proof.Machine.execRsz die idx s
  | .bufferedLinePerform core idx => Sys2Proof.Machine.execBufferedLinePerform core idx s
  | .feRequestReissue idx => Sys2Proof.Machine.execFeRequestReissue idx s
  | .postedStoreAck core idx => Sys2Proof.Machine.execPostedStoreAck core idx s
  | .postedStoreRefusal core idx => Sys2Proof.Machine.execPostedStoreRefusal core idx s
  | .xAccessArrival core idx => Sys2Proof.Machine.execXAccessArrival core idx s
  | .messageArrival core idx => Sys2Proof.Machine.execMessageArrival core idx s
  | .foreignAtomic core adv fails => Sys2Proof.Machine.execForeignAtomic core adv fails s
  | .pageWalk core va => Sys2Proof.Machine.execPageWalk core va s
  | .parityDeltaApply idx => Sys2Proof.Machine.execParityDeltaApply idx s
  | .deltaRetire idx => Sys2Proof.Machine.execDeltaRetire idx s
  | .remoteArrival cluster => Sys2Proof.Machine.execRemoteArrival cluster s
  | .remoteEvsig cluster => Sys2Proof.Machine.execRemoteEvsig cluster s
  | .eventMessageReissue cluster => Sys2Proof.Machine.execEventMessageReissue cluster s
  | .hobble task => Sys2Proof.Machine.execHobble task s
  | .claimAt task elem => Sys2Proof.Machine.execClaimAt task elem s
  | .releaseAt task elem => Sys2Proof.Machine.execReleaseAt task elem s
  | .reserve task elem => Sys2Proof.Machine.execReserve task elem s
  | .hobbleRetryExpiry task => Sys2Proof.Machine.execHobbleRetryExpiry task s
  | .ageLimitExpiry task => Sys2Proof.Machine.execAgeLimitExpiry task s
  | .taskIssue task => Sys2Proof.Machine.execTaskIssue task s
  | .gangIssue graph node => Sys2Proof.Machine.execGangIssue graph node s
  | .balanceExchange pkg => Sys2Proof.Machine.execBalanceExchange pkg s
  | .preemptRequest cluster => Sys2Proof.Machine.execPreemptRequest cluster s
  | .taskSuspend core => Sys2Proof.Machine.execTaskSuspend core s
  | .taskResume task core => Sys2Proof.Machine.execTaskResume task core s
  | .taskRetire core => Sys2Proof.Machine.execTaskRetire core s
  | .controlNodeEval graph node => Sys2Proof.Machine.execControlNodeEval graph node s
  | .gridEnd graph node => Sys2Proof.Machine.execGridEnd graph node s
  | .graphCompletionRecord graph => Sys2Proof.Machine.execGraphCompletionRecord graph s
  | .completionCountReread graph => Sys2Proof.Machine.execCompletionCountReread graph s
  | .hostRmaWrite pkg port ri off data => Sys2Proof.Machine.execHostRmaWrite pkg port ri off data s
  | .hostRmaRead pkg port ri off len => Sys2Proof.Machine.execHostRmaRead pkg port ri off len s
  | .mailboxPageVisit pkg page => Sys2Proof.Machine.execMailboxPageVisit pkg page s
  | .mailboxNop pkg page => Sys2Proof.Machine.execMailboxNop pkg page s
  | .regspace pkg page => Sys2Proof.Machine.execRegspace pkg page s
  | .regwin pkg page => Sys2Proof.Machine.execRegwin pkg page s
  | .unregwin pkg page => Sys2Proof.Machine.execUnregwin pkg page s
  | .submit pkg page => Sys2Proof.Machine.execSubmit pkg page s
  | .graphHandoverTimeout pkg page => Sys2Proof.Machine.execGraphHandoverTimeout pkg page s
  | .launch pkg page => Sys2Proof.Machine.execLaunch pkg page s
  | .release pkg page => Sys2Proof.Machine.execRelease pkg page s
  | .responseWrite pkg page => Sys2Proof.Machine.execResponseWrite pkg page s
  | .flitReceive pkg link errs => Sys2Proof.Machine.execFlitReceive pkg link errs s
  | .flitResendTimeout pkg link => Sys2Proof.Machine.execFlitResendTimeout pkg link s
  | .trainingFlit pkg link errs => Sys2Proof.Machine.execTrainingFlit pkg link errs s
  | .linkTraining pkg link => Sys2Proof.Machine.execLinkTraining pkg link s
  | .linkRetrainTimer pkg link => Sys2Proof.Machine.execLinkRetrainTimer pkg link s
  | .laneFailure pkg link lane => Sys2Proof.Machine.execLaneFailure pkg link lane s
  | .memberLost pkg lost => Sys2Proof.Machine.execMemberLost pkg lost s
  | .stripeRebuild pkg stripe => Sys2Proof.Machine.execStripeRebuild pkg stripe s
  | .telemetryUpdate pkg power tin tjmax => Sys2Proof.Machine.execTelemetryUpdate pkg power tin tjmax s
  | .smbusBlockRead pkg code => Sys2Proof.Machine.execSmbusBlockRead pkg code s
  | .smbusOtherCommand pkg code => Sys2Proof.Machine.execSmbusOtherCommand pkg code s
  | .clockStep die sensed => Sys2Proof.Machine.execClockStep die sensed s
  | .unassignedOpcode g opc tl => Sys2Proof.Machine.execUnassignedOpcode g opc tl s
  | .unsupportedPacket pkg port => Sys2Proof.Machine.execUnsupportedPacket pkg port s
  | .hostAcknowledgement graph => Sys2Proof.Machine.execHostAcknowledgement graph s
  | .softError t => Sys2Proof.Machine.execSoftError t s
  | .powerFailure pkg kept => Sys2Proof.Machine.execPowerFailure pkg kept s
  | .asyncTrap => Sys2Proof.Machine.execAsyncTrap s
  | .rasSpill => Sys2Proof.Machine.execRasSpill s
  | .rasFill => Sys2Proof.Machine.execRasFill s
  | .cimParityScrub => Sys2Proof.Machine.execCimParityScrub s
  | .bufferLineTimeout => Sys2Proof.Machine.execBufferLineTimeout s
  | .harnessForward => Sys2Proof.Machine.execHarnessForward s
  | .moduleReset => Sys2Proof.Machine.execModuleReset s
  | .reportRequestPoll => Sys2Proof.Machine.execReportRequestPoll s
  | .firmwareUpdate => Sys2Proof.Machine.execFirmwareUpdate s
  | .routeRecompute => Sys2Proof.Machine.execRouteRecompute s
  | .thermalReset => Sys2Proof.Machine.execThermalReset s

end Sys2Proof.Machine
end

