-- ==== Sys2Proof/Machine/Late.lean ====
section
/-! DEFINITION. Loads that are performed after later instructions of their core (11, R209 to R211; 03, R24; log 2). -/

namespace Sys2Proof.Machine

/-- What an instruction that can run beside loads not yet performed uses: scalar and vector registers, read or written, and
the bytes that it accesses, in any space, as addresses with lengths. -/
structure Touch where
  s : List Reg
  v : List Reg
  mem : List (Nat × Nat)
deriving DecidableEq, Repr

/-- An access to `n` bytes, of a scalar or a vector register. -/
def memTouch (o : MemOp) (r : Regs) (n : Nat) (vec : Bool) : Touch :=
  ⟨if vec then [o.base] else [o.base, o.d], if vec then [o.d] else [], [((memEa o r).toNat, n)]⟩

/-- An access of the active elements of a vector register. -/
def elemTouch (o : VMemOp) (r : Regs) (s : List Reg) (v : List Reg) (addr : Nat → Word) : Touch :=
  ⟨s, o.d :: v, (elemAddrs o r addr).map fun x => (x.2.toNat, o.ty.size)⟩

/-- What a load that can be performed late uses (R209): a load of any space, without the acquire that would hold back what
follows it. -/
def loadTouch (r : Regs) : Instr → Option Touch
  | .ld _ o | .ldNc _ o | .ldRo _ o => some (memTouch o r o.ty.size false)
  | .rld _ o => some ⟨(regsHome o).1, (regsHome o).2, [((homeEa o r).toNat, sizeHome o)]⟩
  | .vld _ o => some (memTouch o r 256 true)
  | .vlds _ o => some (elemTouch o r [o.a, o.b] [] (stridedAddr o r))
  | .vldg _ o => some (elemTouch o r [o.a] [o.b] (indexedAddr o r))
  | _ => none

/-- What a store or an atomic uses that can run beside loads not yet performed. -/
def storeTouch (r : Regs) : Instr → Option Touch
  | .st _ o => some (memTouch o r o.ty.size false)
  | .vst _ o => some (memTouch o r 256 true)
  | .vsts _ o => some (elemTouch o r [o.a, o.b] [] (stridedAddr o r))
  | .vstg _ o => some (elemTouch o r [o.a] [o.b] (indexedAddr o r))
  | .amo _ _ o | .cas _ o | .amaxrs _ o => some ⟨[o.d, o.a, o.b, o.c], [], [((atomEa o r).toNat, o.ty.size)]⟩
  | _ => none

/-- The order of an access of `loadTouch` or `storeTouch` (R208). -/
def orderOf : Instr → Ord
  | .ld _ o | .ldNc _ o | .ldRo _ o | .st _ o | .vld _ o | .vst _ o => o.order
  | .rld _ o => o.order
  | .amo _ _ o | .cas _ o | .amaxrs _ o => o.order
  | .vlds _ o | .vsts _ o | .vldg _ o | .vstg _ o => o.order
  | _ => .none

/-- Registers of an instruction that accesses no memory and can run beside loads not yet performed: arithmetic, comparisons,
conversions and moves of every register file, and transfers of control but RET. -/
def regTouch : Instr → Option (List Reg × List Reg)
  | .add _ d a b | .sub _ d a b | .and _ d a b | .or _ d a b | .xor _ d a b | .andn _ d a b | .orn _ d a b
  | .shl _ d a b | .shr _ d a b | .sra _ d a b | .rol _ d a b | .mul _ d a b | .mulh _ d a b | .mulhz _ d a b
  | .div _ d a b | .divz _ d a b | .rem _ d a b | .remz _ d a b | .min _ d a b | .max _ d a b | .minz _ d a b
  | .maxz _ d a b | .sel _ _ d a b | .clmul _ d a b | .clmulh _ d a b | .fadd _ _ _ d a b | .fsub _ _ _ d a b
  | .fmul _ _ _ d a b | .fdiv _ _ _ d a b | .fmin _ _ d a b | .fmax _ _ d a b => some ([d, a, b], [])
  | .fma _ _ _ d a b c => some ([d, a, b, c], [])
  | .clz _ d a | .ctz _ d a | .popc _ d a | .brev _ d a | .sext _ _ d a | .zext _ _ d a | .fsqrt _ _ _ d a
  | .fcvt _ _ _ _ d a | .fclass _ _ d a | .addi _ d a _ | .andi _ d a _ | .ori _ d a _ | .xori _ d a _
  | .shli _ d a _ | .shri _ d a _ | .srai _ d a _ => some ([d, a], [])
  | .cmp _ _ _ _ a b | .fcmp _ _ _ _ a b => some ([a, b], [])
  | .cmpi _ _ _ a _ | .cmpiHi _ _ _ a _ | .pset _ a | .jmp _ a | .calli _ a | .loop _ _ _ a => some ([a], [])
  | .pget _ d | .movi _ d _ | .addpc _ d _ _ => some ([d], [])
  | .plog .. | .nop _ | .br .. | .call .. => some ([], [])
  | .vadd _ o | .vsub _ o | .vmul _ o | .vfma _ o | .vmin _ o | .vmax _ o | .vabs _ o | .vand _ o | .vor _ o
  | .vxor _ o | .vshl _ o | .vshr _ o | .vsra _ o | .vcmp _ o | .vsel _ o | .vcvt _ o | .vrcp _ o | .vrsq _ o
  | .vexp2 _ o | .vlog2 _ o | .vclmul _ o | .vpopc _ o | .vperm _ o | .vslide _ o | .vcomp _ o | .vexpd _ o
  | .vscan _ o => some ([], [o.d, o.a, o.b, o.c])
  | .vbcast _ o | .vred _ o | .vtopk _ o | .vmovs _ o => some ([o.d, o.a, o.b, o.c], [o.d, o.a, o.b, o.c])
  | .mlog .. => some ([], [])
  | .mget _ o => some ([o.d], [])
  | .mset _ o => some ([o.a], [])
  | _ => none

/-- What an instruction that can run beside loads not yet performed uses; every other instruction waits for them (log 2). -/
def touchOf (r : Regs) (i : Instr) : Option Touch :=
  match regTouch i with
  | some x => some ⟨x.1, x.2, []⟩
  | none => if orderOf i = .none then loadTouch r i <|> storeTouch r i else none

/-- Destination of a load that can be performed late: its register, and whether it is a vector register. -/
def lateDest : Instr → Option (Reg × Bool)
  | .ld _ o | .ldNc _ o | .ldRo _ o => some (o.d, false)
  | .rld _ o => some (o.d, o.z ≠ 0)
  | .vld _ o => some (o.d, true)
  | .vlds _ o | .vldg _ o => some (o.d, true)
  | _ => none

/-- Guard of a load, and the scope of its release, where it has one (R208). -/
def lateGuard : Instr → Guard × Scope
  | .ld g o | .ldNc g o | .ldRo g o | .vld g o => (g, o.scope)
  | .rld g o => (g, o.scope)
  | .vlds g o | .vldg g o => (g, o.scope)
  | _ => (⟨false, 0⟩, .core)

/-- A load without its order, whose release is performed (R208). -/
def bareLoad : Instr → Instr
  | .ld g o => .ld g { o with order := .none }
  | .ldNc g o => .ldNc g { o with order := .none }
  | .ldRo g o => .ldRo g { o with order := .none }
  | .rld g o => .rld g { o with order := .none }
  | .vld g o => .vld g { o with order := .none }
  | .vlds g o => .vlds g { o with order := .none }
  | .vldg g o => .vldg g { o with order := .none }
  | i => i

/-- Offsets within a page of the lines of some bytes. -/
def pageLines (m : Nat × Nat) : List Nat := (upFrom (m.1 / 64) ((m.1 + m.2 + 63) / 64 - m.1 / 64)).map (· % 64)

/-- Whether accesses may meet in a line: lines at different offsets of their pages never do, in whatever space they are
named, since windows and vaults lie at whole pages. -/
def mayMeet (a b : List (Nat × Nat)) : Bool := a.any fun x => b.any fun y => (pageLines x).any (has (pageLines y))

/-- Whether an instruction waits for a load not yet performed: it uses the load's destination (R24, R209 items 4 to 6, R210),
or accesses a line that the load may read (R209 items 2 and 3, R211). -/
def LateLoad.holds (l : LateLoad) (t : Touch) : Bool :=
  (match lateDest l.ins with
    | some (d, true) => t.v.contains d
    | some (d, false) => t.s.contains d
    | none => true) ||
    mayMeet (((loadTouch l.regs l.ins).map (·.mem)).getD []) t.mem

/-- Whether an instruction can run beside the loads of a core that are not yet performed. -/
def Core.runsBeside (c : Core) (i : Instr) : Bool :=
  c.loads.isEmpty ||
    match touchOf c.regs i with
    | some t => !c.loads.any (·.holds t)
    | none => false

/-- The registers with one destination as another set of registers has it. -/
def Regs.take (r got : Regs) : Option (Reg × Bool) → Regs
  | some (d, true) => r.wv d.toNat (got.rv d.toNat)
  | some (d, false) => r.ws d (got.rs d)
  | none => r

/-- Whether an outcome of the current core's instruction is its completion, at the next head. -/
def completes (c : Core) (s : State) : Bool := s.me.pc == c.nextPc && decide (s.me.mode = c.mode) && decide (s.me.wait = .none)

/-- A load that has issued is performed (R209): the instruction runs with the registers it issued with, and its destination
is written.  A load whose home would answer it with an error now gives the value it would have given when it issued: it
was judged then (log 2). -/
def State.landLoad (s : State) (k idx : Nat) : State :=
  let c := s.core k
  match c.loads[idx]? with
  | none => s
  | some l =>
    let c := { c with loads := removeAt c.loads idx }
    let old := { c with regs := l.regs, pc := l.pc, fline := l.fline, wait := .none }
    let back := fun (d : Core) (got : Regs) =>
      { d with regs := c.regs.take got (lateDest l.ins), pc := c.pc, fline := c.fline, wait := c.wait }
    match exec l.ins { s.setCore k old with cur := k } with
    | .next v =>
      if completes old v then { v.setCore k (back v.me v.me.regs) with cur := s.cur }
      else if v.me.mode ≠ c.mode then s.setCore k (back c l.got)
      else s
    | _ => s

/-- Every load of a core that has issued is performed, as far as each can be. -/
def State.landLoads (s : State) (k : Nat) : State :=
  (upFrom 0 (s.core k).loads.length).foldl (fun (s : State) _ => s.landLoad k 0) s

/-- A load without an order issues and is left to be performed later, if it would complete now; none otherwise. -/
def State.leaveLoad (s : State) (i : Instr) : Option State :=
  match exec i s with
  | .next v =>
    if completes s.me v then
      some (s.setMe { s.me.advance with loads := s.me.loads ++ [⟨i, s.me.pc, s.me.fline, s.me.regs, v.me.regs⟩] })
    else none
  | _ => none

/-- A core's instruction issues as a load that is performed later, if it is one that would complete now; none otherwise.  A
release goes before its load, and waits for the loads before it (R207, R208). -/
def State.deferLoad (s : State) (i : Instr) : Option State :=
  let c := s.me
  if decide (c.mode = .task) && c.member.isNone && (lateDest i).isSome && c.regs.guard (lateGuard i).1 then
    match orderOf i with
    | .none => if c.runsBeside i then s.leaveLoad i else none
    | .rel =>
      if c.loads.isEmpty && (s.leaveLoad i).isSome then
        match exec (.fenceRel ⟨false, 0⟩ (lateGuard i).2) s with
        | .next u => if completes c u then (u.setMe { u.me with pc := c.pc, fline := c.fline }).leaveLoad (bareLoad i) else none
        | _ => none
      else none
    | _ => none
  else none

end Sys2Proof.Machine
end

