-- ==== Sys2Proof/Machine/Fetch.lean ====
section
/-! DEFINITION. Instruction fetch (14, R258 to R268; 15, R314), what a core does in its turn (22, R446, R448, R455; 12,
R225 to R229), and whose turn comes when the schedule names none (log 1). -/

namespace Sys2Proof.Machine

/-! Fetch -/

/-- Put a line first in the instruction cache, keeping 4 of its set (R314). -/
def icachePut (a : Nat) (x : LineBits) (l : List (Nat × LineBits)) : List (Nat × LineBits) :=
  let set := fun (a : Nat) => a / 64 % 256
  let rest := l.filter fun y => y.1 != a
  let same := (rest.filter fun y => set y.1 == set a).take 3
  (a, x) :: rest.filter fun y => set y.1 != set a || same.contains y

/-- What fetching a line gives: the line, a fault, or a walk to be waited for (R472). -/
inductive Fetched where
  | line (x : LineBits)
  | bad (status : Nat) (n : Note)
  | walks
deriving DecidableEq, Repr

/-- The line at a virtual address for a core: translated with execute permission, then from the instruction cache or its
home (R268, R314); a line behind a storage window is read there and not cached (R470).  A fetch that its home refuses
is answered as a load (log 25). -/
def State.fetchLine (s : State) (k va : Nat) : State × Fetched :=
  match s.translate (s.who k) .x va with
  | (s, .bad st n) => (s, .bad st n)
  | (s, .walks) => (s, .walks)
  | (s, .at_ pa leaf) =>
    if leaf.f then
      (s, .line (BitVec.ofNat 512 (ofBytes (s.winBytes (corePkg k) (leaf.pa / 2 ^ 48) (pa % 2 ^ 48) 64))))
    else
      match find? (s.core k).icache pa with
      | some x => (s.modCore k fun c => { c with icache := icachePut pa x c.icache }, .line x)
      | none =>
        match s.homeRead (s.who k) .load pa 64 with
        | .error (st, n) => (s, .bad st n)
        | .ok bs =>
          let x : LineBits := BitVec.ofNat 512 (ofBytes bs)
          (s.modCore k fun c => { c with icache := icachePut pa x c.icache }, .line x)

/-- What entering a line gives: the line, a trap, or a walk to be waited for. -/
inductive Entered where
  | line (x : LineBits)
  | bad (t : Trap) (n : Note)
  | walks
deriving DecidableEq, Repr

/-- The checks of R268 on the core's PC, in order, and the line entered: a failure is reported at the PC, in TRAPINFO where
R451 says so.  After a fall-through the PC is head 1 of the next line, so the first and the last check hold (R266). -/
def State.enterLine (s : State) (k : Nat) : State × Entered :=
  let t := (s.core k).pc
  let bad := fun (status : Nat) (n : Note) => Entered.bad { status := status, info := addrInfo status t.toNat } n
  let illegal := fun (status : Nat) => Entered.bad { status := status, info := t } .none
  if t.getLsbD 0 || headIx t = 0 then (s, illegal 0x12)
  else
    match s.fetchLine k (lineOf t).toNat with
    | (s, .bad st n) => (s, bad st n)
    | (s, .walks) => (s, .walks)
    | (s, .line l) =>
      if !lineLegal l then (s, illegal 0x11)
      else if lineN l < headIx t then (s, illegal 0x12)
      else (s.modCore k fun c => { c with fline := some (lineOf t, l) }, .line l)

/-- The line a core has entered, or enters now (R266, R268). -/
def State.entered (s : State) (k : Nat) : State × Entered :=
  match (s.core k).fline with
  | some (_, l) => (s, .line l)
  | none => s.enterLine k

/-! Execution -/

/-- Whether an instruction has come to its end: the core stands elsewhere, or has yet to enter its line. -/
def Core.movedFrom (c c' : Core) : Bool := c'.pc != c.pc || c'.fline != c.fline

/-- Change a core's membership. -/
def Core.modMember (c : Core) (f : Member → Member) : Core := { c with member := c.member.map f }

/-- What a leader forwards of its instruction, with the address it executes next (R225, R228, R229). -/
def Core.forwarded (c : Core) (i : Instr) (next : Word) : Forwarded :=
  ⟨c.pc, c.fline, i, next, isDetach c.regs i⟩

/-- The current core leads a harness in task mode. -/
def Core.forwards (c : Core) : Bool := c.leads && decide (c.mode = .task)

/-- An instruction is executed on the current core; a leader forwards it to its followers once, a transfer of control
when its outcome is known (R225, R228). -/
def runInstr (i : Instr) (s : State) : Out :=
  let c := s.me
  if !c.forwards then exec i s
  else
    let first := !((c.member.map (·.issued)).getD true)
    let s := if first && !branches i then s.forward s.cur (c.forwarded i c.nextPc) else s
    let s := s.setMe (s.me.modMember fun m => { m with issued := true })
    match exec i s with
    | .next s' =>
      if c.movedFrom s'.me then
        let s' := if branches i then s'.forward s'.cur (c.forwarded i s'.me.pc) else s'
        .next (s'.setMe (s'.me.modMember fun m => { m with issued := false }))
      else .next s'
    | r => r

/-- Whether an outcome has taken the current core into the handler. -/
def trapped (c : Core) (s : State) : Bool := decide (s.me.mode ≠ c.mode)

/-- The current core takes an exception, once the loads that it has issued are performed (R445). -/
def State.trapAfterLoads (s : State) (t : Trap) (n : Note) : State :=
  let s := s.landLoads s.cur
  if s.me.loads.isEmpty then (s.note n).trap t else s

/-- The current core runs an instruction: one that does not run beside its loads not yet performed, or that takes an
exception, waits for them (R209, R445). -/
def State.runAfterLoads (s : State) (i : Instr) : Out :=
  let after := fun (s : State) => if s.me.loads.isEmpty then runInstr i s else .next s
  if s.me.loads.isEmpty then runInstr i s
  else if s.me.runsBeside i then
    match runInstr i s with
    | .next v => if trapped s.me v then after (s.landLoads s.cur) else .next v
    | r => r
  else after (s.landLoads s.cur)

/-- The current core executes the instruction at its PC, fetched by itself (R264, R266, R268): a head whose fields the
instruction does not accept raises status 0x10.  With `defer` a load is left to be performed later (R209). -/
def State.runOwn (s : State) (defer : Bool) : Out :=
  match s.entered s.cur with
  | (s, .bad t n) => .next (s.trapAfterLoads t n)
  | (s, .walks) => .next (s.setMe { s.me with due := .fetch })
  | (s, .line l) =>
    match decodeAt l (headIx s.me.pc) with
    | .ok i =>
      match (if defer then s.deferLoad i else none) with
      | some s => .next s
      | none => s.runAfterLoads i
    | .error _ => .next (s.trapAfterLoads { status := 0x10 } .none)

/-- A follower executes the oldest instruction of its buffer as its own (R225, R226); where a transfer of control leads
it elsewhere than the leader it detaches (R228), and at a DETACH of the leader it fetches for itself (R229). -/
def State.runForwarded (s : State) (f : Forwarded) : Out :=
  let c := { s.me with pc := f.addr, fline := f.line }
  if f.det then
    .next (s.setMe { (c.modMember fun m => { m with attached := false, buf := [], fly := [], last := false }) with
      fline := none })
  else
    match exec f.ins (s.setMe c) with
    | .next s' =>
      if c.movedFrom s'.me then
        let away := branches f.ins && decide (s'.me.pc ≠ f.next)
        .next (s'.setMe (s'.me.modMember fun m =>
          if away then { m with attached := false, buf := [], fly := [], last := false } else { m with buf := m.buf.tail }))
      else .next s'
    | r => r

/-- The forwarded instruction that a core takes up or goes on with: one of its own that waits comes first. -/
def Core.taken (c : Core) : Option Forwarded :=
  match c.member with
  | some m =>
    match m.buf with
    | f :: _ => if c.wait.isHarn || (c.wait ≠ .none && c.pc != f.addr) then none else some f
    | [] => none
  | none => none

/-- Whether an attached follower has nothing to execute yet: it fetches nothing (R226). -/
def Core.starved (c : Core) : Bool := c.follows && decide (c.wait = .none) && c.taken.isNone

/-- Whether a pre-emption request keeps the core from issuing (R448, R449, R455): a granted instruction completes, one whose
access waits for a walk completes that access (R472), and an EXIT goes on waiting unless its wait includes a PACK that
waits for BUSY. -/
def State.heldBack (s : State) : Bool :=
  let c := s.me
  c.preempt && decide (c.mode = .task) && decide (c.due ≠ .access) && !c.wait.granted &&
    (c.wait != .exit || s.exitAtPack s.cur)

/-- The current core goes on with what waited for a walk, if something did (R472). -/
def State.goOn (s : State) : State := if s.me.due = .no then s else s.setMe { s.me with due := .no }

/-- A core that a pre-emption request holds back lets a fetch that waits for its walk complete (R472); its buffer drains. -/
def State.holdBack (s : State) : State :=
  if s.me.due = .fetch then
    match s.goOn.entered s.cur with
    | (t, .walks) => t.setMe { t.me with due := .fetch }
    | (t, _) => t
  else (s.landLoads s.cur).drain s.cur

/-- Whether the current core takes an asynchronous trap: it stands between instructions, the one at its PC having no access
under way and not having been granted what it waited for (R446). -/
def State.trapsNow (s : State) : Bool :=
  let c := s.me
  decide (c.mode = .task) && c.asyncTrap.isSome && decide (c.due ≠ .access) && !c.wait.granted

/-- A running core's turn: an asynchronous trap is taken before a pre-emption request is heeded, and that before an
instruction issues (R448). -/
def State.runTurn (s : State) (defer : Bool) : Out :=
  let c := s.me
  if s.trapsNow then .next ((s.landLoads s.cur).takeAsync s.cur)
  else if s.heldBack then .next s.holdBack
  else
    match c.mode, c.taken with
    | .task, some f => s.goOn.runForwarded f
    | _, _ => if c.mode = .task && c.starved then .next s else s.goOn.runOwn defer

/-- The turn of the current core: the WFI of a gated core completes once the core is roused (R311); a core held, idle or
halted does nothing. -/
def State.coreTurn (s : State) (defer : Bool) : Out :=
  match s.me.run with
  | .running => s.runTurn defer
  | .gated => .next (if s.me.roused then s.setMe { s.me.advance with run := .running } else s)
  | _ => .next s

/-! Turns that the schedule does not name (log 1) -/

/-- Turns of a package that is booting. -/
def bootTurns (pkg step : Nat) : List Turn :=
  let c := pkg * 2048 + 1556
  if step = 6 then
    .event c .moduleReset :: (upFrom 0 12).flatMap fun l =>
      [.event c (.linkTraining pkg l), .event c (.trainingFlit pkg l [])]
  else [.event c .moduleReset]

/-- Turns that a posted store of a core may take. -/
def postTurns (k : Nat) (e : JEntry) : List Turn :=
  .packet k e.idx :: List.map (Turn.event k)
    [.postedStoreAck k e.idx, .postedStoreRefusal k e.idx, .xAccessArrival k e.idx, .messageArrival k e.idx]

/-- Turns of a core: its instructions, its engines, its interface. -/
def coreTurns (k : Nat) (c : Core) : List Turn :=
  .core k :: c.loads.zipIdx.map (fun l => .load k l.2) ++ List.map (Turn.event k)
    [.bufferLineTimeout, .bufferedLinePerform k 0,
      .mzero k, .mldb k, .mmul k, .mepi k, .miter k, .miterPhase k, .mrel k, .mspill k, .mfill k, .copy k, .fill k,
      .pack k, .unpack k, .gather k, .scatter k, .fetchr k, .foreignAtomic k .operation false,
      .harnessForward, .taskRetire k, .taskSuspend k] ++
    c.journal.flatMap (postTurns k) ++
    c.eng.cpy.flatMap fun x => x.units.map fun u => .event k (.fetchrUnitArrival k u.unit)

/-- Turns of a cluster's event unit. -/
def clusterTurns (u : Nat) : List Turn :=
  [.event (u / 32 * 2048) (.remoteArrival u), .event (u / 32 * 2048) (.remoteEvsig u),
    .event (u / 32 * 2048) (.eventMessageReissue u)]

/-- Turns of the dispatcher for a task. -/
def taskTurns (id : Nat) (t : Task) : List Turn :=
  let k := t.cluster / 32 * 2048
  let e := t.elem.getD 0
  let at_ := match t.phase with
    | .reserving (x :: _) => [.event k (.reserve id x)]
    | .hobbling (x :: _) => [.event k (.claimAt id x)]
    | .suspended c _ _ => [.event k (.taskResume id c)]
    | _ => (t.claims.map fun c => .event k (.releaseAt id c.1))
  at_ ++ [.event k (.hobble id), .event k (.hobbleRetryExpiry id), .event k (.ageLimitExpiry id), .event k (.taskIssue id),
    .event k (.reserve id e)]

/-- Turns of the graph controller and the pursers for a graph. -/
def graphTurns (id : Nat) (g : Graph) : List Turn :=
  let k := id / 1024 * 2048
  (upFrom 0 g.nodes.length).flatMap (fun n =>
    [.event k (.controlNodeEval id n), .event k (.gangIssue id n), .event k (.gridEnd id n)]) ++
    [.event k (.graphCompletionRecord id), .event k (.completionCountReread id)]

/-- Turns of the purser that serves a mailbox page. -/
def pageTurns (pkg p : Nat) : List Turn :=
  List.map (Turn.event (pkg * 2048 + 1536))
    [.mailboxPageVisit pkg p, .mailboxNop pkg p, .regspace pkg p, .regwin pkg p, .unregwin pkg p, .submit pkg p,
      .launch pkg p, .release pkg p, .responseWrite pkg p]

/-- Turns of a link: the flit that arrives first is received as it was sent (R247). -/
def linkTurns (pkg i : Nat) (l : Link) : List Turn :=
  if l.arriving.isEmpty then [] else [.event (pkg * 2048) (.flitReceive pkg i [])]

/-- Every turn that something in the state may take; an event whose time has not come changes nothing. -/
def State.turns (s : State) : List Turn :=
  s.cores.flatMap (fun c => coreTurns c.1 c.2) ++ s.clusters.flatMap (fun u => clusterTurns u.1) ++
    s.dies.flatMap (fun d => [.event (d.1 / 4 * 2048) (.vdec d.1 0), .event (d.1 / 4 * 2048) (.rsz d.1 0)] ++
      if 115 ≤ d.2.junction then [.event (d.1 / 4 * 2048) .thermalReset] else []) ++
    s.tasks.flatMap (fun t => taskTurns t.1 t.2) ++ s.graphs.flatMap (fun g => graphTurns g.1 g.2) ++
    s.pkgs.flatMap (fun p => p.2.pages.flatMap (fun g => pageTurns p.1 g.1) ++
      p.2.links.flatMap fun l => linkTurns p.1 l.1 l.2) ++
    s.feWait.zipIdx.map (fun r => .event 0 (.feRequestReissue r.2)) ++
    [.event 0 (.parityDeltaApply 0), .event 0 (.deltaRetire 0), .event 0 (.balanceExchange 0)]

/-- The turn taken when the schedule names none: the boot of package 0 first, then every turn of the state in rotation
(log 1). -/
def State.freeTurn (s : State) : Turn :=
  let step := (s.pkg 0).step
  let l := if step < 8 then bootTurns 0 step else s.turns
  l.getD (s.tick % max 1 l.length) (.core 0)

/-- The turn that comes. -/
def State.nextTurn (s : State) : Turn := s.sched.headD s.freeTurn

/-- The turn is taken off the schedule and counted. -/
def State.begin_ (s : State) (n : Nat) : State :=
  { s with sched := s.sched.tail, cur := n, tick := s.tick + 1, late := false }

/-- Whether an event of the schedule is a step and not an instruction, which only a core's fetch brings about. -/
def Instr.isStep (i : Instr) : Bool := (encode i).isNone

/-- Take a turn: a core goes on, a load is performed, a posted store becomes a link packet, or a step of another agent
happens; no instruction happens as an event. -/
def State.take (s : State) : Turn → Out
  | .core n => (s.begin_ n).coreTurn false
  | .late n => ({ s.begin_ n with late := true }).coreTurn false
  | .defer n => (s.begin_ n).coreTurn true
  | .load n i => .next ((s.begin_ n).landLoad n i)
  | .packet n i => .next ((s.begin_ n).sendPosted n i)
  | .event n i => if Instr.isStep i then exec i (s.begin_ n) else .next (s.begin_ n)

/-! A word in memory (for the host's questions; log 17) -/

/-- Page table entries that map 2^38 bytes from address 0 on: levels 5 and 4 name the next table, level 3 is a leaf of
SIZE 13 with V, R, W, X and K (R463 to R467). -/
def identityTables (id : Nat) : List (Nat × Nat) :=
  let pa := fun (x : Nat) => id * 2 ^ 44 + x
  [(pa 0x1000, pa 0x2000 + 1), (pa 0x2000, pa 0x3000 + 1), (pa 0x3000, 13 * 2 ^ 60 + pa 0 + 0xB9)]

/-- The bytes of a line that holds one instruction stand at 0x10000 of the first package's memory, its tables map them,
and core 0 stands at the head. -/
def State.placeWord (s : State) (w : Nat) : State :=
  let id := (s.pkg 0).id
  let s := (identityTables id).foldl (fun (s : State) e => s.setBytes e.1 (toBytes 8 e.2)) s
  let s := s.setBytes (id * 2 ^ 44 + 0x1_0000) (toBytes 64 (oneHeadLine w).toNat)
  let s := s.modCore 0 fun c =>
    { c with
      run := .running
      pc := 0x1_0002
      fline := none
      ptroot0 := 0x1000
      tlb := []
      icache := []
      wait := .none
      loads := []
      asyncTrap := none
      preempt := false
      due := .no
      stopped := false
      member := none }
  let s := s.modCluster 0 fun c => { c with tlb := [] }
  { s with sched := .core 0 :: s.sched }

end Sys2Proof.Machine
end

