-- ==== Sys2Proof/Safety.lean ====
section
/-! DEFINITION. What counts as a safe state and a safe run, and the words in which the statements speak of an
instruction: its guard, the registers it declares, when its checks pass. -/

namespace Sys2Proof.Machine

/-- The canonical form of a memory: addresses strictly rising, and no entry equal to what an unlisted address reads as
(log 6). -/
abbrev Memory.wf (m : List Host.Cell) : Prop := Sys2Proof.Machine.wf (0 : Byte) m = true

/-- The memories of a state are canonical: of the packages, of the host, behind the storage windows. -/
structure State.MemWf (s : State) : Prop where
  mem : Memory.wf s.mem
  host : Memory.wf s.hostMem
  win : Memory.wf s.winMem

/-- Every task is listed once, in rising order of its number. -/
def State.TasksRise (s : State) : Prop := (s.tasks.map (·.1)).Pairwise (· < ·)

/-- The form of a state that every step keeps: canonical memories, each task listed once. -/
structure State.Tidy (s : State) : Prop where
  memories : s.MemWf
  tasks : s.TasksRise

/-- A step is safe where it gives a next state: every exception of the spec is taken inside it. -/
def State.Safe (s : State) : Prop := ∃ t, step s = .next t

/-- Steps 4 and 5 of R264 pass: the guard is true, the scalar and vector registers are declared (R144). -/
structure State.Ready (s : State) (g : Guard) (ss vs : List Reg) : Prop where
  guard : s.me.regs.guard g = true
  declS : s.me.declS ss = true
  declV : s.me.declV vs = true

/-- The guard of an instruction, with the scalar and the vector registers that it names and R144 bounds; none for the
steps that are no instruction and for a head that R264 refuses before its guard. -/
def checksOf : Instr → Option (Guard × List Reg × List Reg)
  | .add g d a b => some (g, [d, a, b], [])
  | .sub g d a b => some (g, [d, a, b], [])
  | .and g d a b => some (g, [d, a, b], [])
  | .or g d a b => some (g, [d, a, b], [])
  | .xor g d a b => some (g, [d, a, b], [])
  | .andn g d a b => some (g, [d, a, b], [])
  | .orn g d a b => some (g, [d, a, b], [])
  | .shl g d a b => some (g, [d, a, b], [])
  | .shr g d a b => some (g, [d, a, b], [])
  | .sra g d a b => some (g, [d, a, b], [])
  | .rol g d a b => some (g, [d, a, b], [])
  | .mul g d a b => some (g, [d, a, b], [])
  | .mulh g d a b => some (g, [d, a, b], [])
  | .mulhz g d a b => some (g, [d, a, b], [])
  | .div g d a b => some (g, [d, a, b], [])
  | .divz g d a b => some (g, [d, a, b], [])
  | .rem g d a b => some (g, [d, a, b], [])
  | .remz g d a b => some (g, [d, a, b], [])
  | .min g d a b => some (g, [d, a, b], [])
  | .max g d a b => some (g, [d, a, b], [])
  | .minz g d a b => some (g, [d, a, b], [])
  | .maxz g d a b => some (g, [d, a, b], [])
  | .clz g d a => some (g, [d, a], [])
  | .ctz g d a => some (g, [d, a], [])
  | .popc g d a => some (g, [d, a], [])
  | .brev g d a => some (g, [d, a], [])
  | .sext g _ d a => some (g, [d, a], [])
  | .zext g _ d a => some (g, [d, a], [])
  | .cmp g _ _ _ a b => some (g, [a, b], [])
  | .sel g _ d a b => some (g, [d, a, b], [])
  | .plog g _ _ _ _ => some (g, [], [])
  | .pget g d => some (g, [d], [])
  | .pset g a => some (g, [a], [])
  | .addi g d a _ => some (g, [d, a], [])
  | .andi g d a _ => some (g, [d, a], [])
  | .ori g d a _ => some (g, [d, a], [])
  | .xori g d a _ => some (g, [d, a], [])
  | .shli g d a _ => some (g, [d, a], [])
  | .shri g d a _ => some (g, [d, a], [])
  | .srai g d a _ => some (g, [d, a], [])
  | .cmpi g _ _ a _ => some (g, [a], [])
  | .cmpiHi g _ _ a _ => some (g, [a], [])
  | .movi g d _ => some (g, [d], [])
  | .addpc g d _ _ => some (g, [d], [])
  | .clmul g d a b => some (g, [d, a, b], [])
  | .clmulh g d a b => some (g, [d, a, b], [])
  | .fadd g _ _ d a b => some (g, [d, a, b], [])
  | .fsub g _ _ d a b => some (g, [d, a, b], [])
  | .fmul g _ _ d a b => some (g, [d, a, b], [])
  | .fma g _ _ d a b c => some (g, [d, a, b, c], [])
  | .fdiv g _ _ d a b => some (g, [d, a, b], [])
  | .fsqrt g _ _ d a => some (g, [d, a], [])
  | .fmin g _ d a b => some (g, [d, a, b], [])
  | .fmax g _ d a b => some (g, [d, a, b], [])
  | .fcmp g _ _ _ a b => some (g, [a, b], [])
  | .fcvt g _ _ _ d a => some (g, [d, a], [])
  | .fclass g _ d a => some (g, [d, a], [])
  | .nop g => some (g, [], [])
  | .br g _ _ => some (g, [], [])
  | .jmp g a => some (g, [a], [])
  | .call g _ _ => some (g, [], [])
  | .calli g a => some (g, [a], [])
  | .ret g => some (g, [], [])
  | .loop g _ _ a => some (g, [a], [])
  | .exit g => some (g, [], [])
  | .trap g _ => some (g, [], [])
  | .eret g => some (g, [], [])
  | .wfi g => some (g, [], [])
  | .halt g => some (g, [], [])
  | .srd g d _ => some (g, [d], [])
  | .swr g a _ => some (g, [a], [])
  | .ifence g => some (g, [], [])
  | .ld g o => some (g, [o.base, o.d], [])
  | .ldNc g o => some (g, [o.base, o.d], [])
  | .ldRo g o => some (g, [o.base, o.d], [])
  | .st g o => some (g, [o.base, o.d], [])
  | .rld g o => some (g, (if o.z = 0 then [o.base, o.d] else [o.base]), (if o.z = 0 then [] else [o.d]))
  | .rst g o => some (g, (if o.z = 0 then [o.base, o.d] else [o.base]), (if o.z = 0 then [] else [o.d]))
  | .ldfeFf g o => some (g, [o.base, o.d], [])
  | .ldfeFe g o => some (g, [o.base, o.d], [])
  | .stfeEf g o => some (g, [o.base, o.d], [])
  | .stfeSf g o => some (g, [o.base, o.d], [])
  | .stfeSe g o => some (g, [o.base, o.d], [])
  | .amo g _ o => some (g, [o.d, o.a, o.b], [])
  | .cas g o => some (g, [o.d, o.a, o.b, o.c], [])
  | .amaxrs g o => some (g, [o.d, o.a, o.b], [])
  | .fenceAcq g _ => some (g, [], [])
  | .fenceRel g _ => some (g, [], [])
  | .fenceAr g _ => some (g, [], [])
  | .sfence g => some (g, [], [])
  | .pref g _ _ base => some (g, [base], [])
  | .cinv g _ _ base d => some (g, [base, d], [])
  | .cinvRo g _ _ base d => some (g, [base, d], [])
  | .bara g _ a b => some (g, [a, b], [])
  | .barw g _ a => some (g, [a], [])
  | .bar g _ _ a b => some (g, [a, b], [])
  | .evwait g _ d a => some (g, [d, a], [])
  | .evsig g _ a => some (g, [a], [])
  | .mtxl g a => some (g, [a], [])
  | .mtxu g a => some (g, [a], [])
  | .sstep g _ => some (g, [], [])
  | .waita g o => some (g, [o.a, o.b], [])
  | .waitc g _ _ a _ => some (g, [a], [])
  | .cadd g _ a _ => some (g, [a], [])
  | .send g o => some (g, (if o.vec then [o.a] else [o.a, o.b]), (if o.vec then [o.b] else []))
  | .sendp g _ _ a b => some (g, [a], [b])
  | .recvp g _ _ d _ => some (g, [], [d])
  | .post g _ _ a => some (g, [a], [])
  | .harn g d a b => some (g, [d, a, b], [])
  | .detach g => some (g, [], [])
  | .rejoin g => some (g, [], [])
  | .vadd g o => some (g, [], [o.d, o.a, o.b])
  | .vsub g o => some (g, [], [o.d, o.a, o.b])
  | .vmul g o => some (g, [], [o.d, o.a, o.b])
  | .vfma g o => some (g, [], [o.d, o.a, o.b, o.c])
  | .vmin g o => some (g, [], [o.d, o.a, o.b])
  | .vmax g o => some (g, [], [o.d, o.a, o.b])
  | .vabs g o => some (g, [], [o.d, o.a])
  | .vand g o => some (g, [], [o.d, o.a, o.b])
  | .vor g o => some (g, [], [o.d, o.a, o.b])
  | .vxor g o => some (g, [], [o.d, o.a, o.b])
  | .vshl g o => some (g, [], (if o.flag then [o.d, o.a] else [o.d, o.a, o.b]))
  | .vshr g o => some (g, [], (if o.flag then [o.d, o.a] else [o.d, o.a, o.b]))
  | .vsra g o => some (g, [], (if o.flag then [o.d, o.a] else [o.d, o.a, o.b]))
  | .vcmp g o => some (g, [], [o.a, o.b])
  | .vsel g o => some (g, [], [o.d, o.a, o.b])
  | .vcvt g o => some (g, [], [o.d, o.a])
  | .vrcp g o => some (g, [], [o.d, o.a])
  | .vrsq g o => some (g, [], [o.d, o.a])
  | .vexp2 g o => some (g, [], [o.d, o.a])
  | .vlog2 g o => some (g, [], [o.d, o.a])
  | .vclmul g o => some (g, [], [o.d, o.a, o.b])
  | .vpopc g o => some (g, [], [o.d, o.a])
  | .vld g o => some (g, [o.base], [o.d])
  | .vst g o => some (g, [o.base], [o.d])
  | .vlds g o => some (g, [o.a, o.b], [o.d])
  | .vsts g o => some (g, [o.a, o.b], [o.d])
  | .vldg g o => some (g, [o.a], [o.d, o.b])
  | .vstg g o => some (g, [o.a], [o.d, o.b])
  | .vbcast g o => some (g, [o.a], [o.d])
  | .vperm g o => some (g, [], [o.d, o.a, o.b])
  | .vslide g o => some (g, [], [o.d, o.a, o.b])
  | .vcomp g o => some (g, [o.c], [o.d, o.a])
  | .vexpd g o => some (g, [], [o.d, o.a])
  | .vred g o => some (g, [o.d], [o.a])
  | .vscan g o => some (g, [], [o.d, o.a])
  | .vtopk g o => some (g, [], [o.d, o.a])
  | .vmovs g o => some (g, (if o.flag then [o.a, o.b] else [o.d, o.b]), (if o.flag then [o.d] else [o.a]))
  | .mlog g _ => some (g, [], [])
  | .mget g o => some (g, [o.d], [])
  | .mset g o => some (g, [o.a], [])
  | .enq g _ _ o => some (g, [o.base], [])
  | .enqm g b o => some (g, [o.base, b], [])
  | .deq g _ _ d b => some (g, [d, b], [])
  | .eqstat g _ d => some (g, [d], [])
  | .rfence g => some (g, [], [])
  | .qmov g dir d a => some (g, (if dir then [d] else [a]), [])
  | .mstat g _ d _ => some (g, [d], [])
  | .lsplitWrite .. | .bfmtWrite .. | .mthrWrite .. | .tlbinv .. | .regionTableWrite .. | .routeTableWrite ..
  | .sysregWrite .. | .mzero .. | .mldb .. | .mmul .. | .mepi .. | .miter .. | .miterPhase .. | .mrel ..
  | .mspill .. | .mfill .. | .copy .. | .fill .. | .pack .. | .unpack .. | .gather .. | .scatter ..
  | .fetchr .. | .fetchrUnitArrival .. | .fetchrReadTimeout .. | .vdec .. | .rsz .. | .bufferedLinePerform ..
  | .feRequestReissue .. | .postedStoreAck .. | .postedStoreRefusal .. | .xAccessArrival ..
  | .messageArrival .. | .foreignAtomic .. | .pageWalk .. | .parityDeltaApply .. | .deltaRetire ..
  | .remoteArrival .. | .remoteEvsig .. | .eventMessageReissue .. | .hobble .. | .claimAt .. | .releaseAt ..
  | .reserve .. | .hobbleRetryExpiry .. | .ageLimitExpiry .. | .taskIssue .. | .gangIssue ..
  | .balanceExchange .. | .preemptRequest .. | .taskSuspend .. | .taskResume .. | .taskRetire ..
  | .controlNodeEval .. | .gridEnd .. | .graphCompletionRecord .. | .completionCountReread ..
  | .hostRmaWrite .. | .hostRmaRead .. | .mailboxPageVisit .. | .mailboxNop .. | .regspace .. | .regwin ..
  | .unregwin .. | .submit .. | .graphHandoverTimeout .. | .launch .. | .release .. | .responseWrite ..
  | .flitReceive .. | .flitResendTimeout .. | .trainingFlit .. | .linkTraining .. | .linkRetrainTimer ..
  | .laneFailure .. | .memberLost .. | .stripeRebuild .. | .telemetryUpdate .. | .smbusBlockRead ..
  | .smbusOtherCommand .. | .clockStep .. | .unassignedOpcode .. | .unsupportedPacket ..
  | .hostAcknowledgement .. | .softError .. | .powerFailure .. | .asyncTrap | .rasSpill | .rasFill
  | .cimParityScrub | .bufferLineTimeout | .harnessForward | .moduleReset | .reportRequestPoll
  | .firmwareUpdate | .routeRecompute | .thermalReset => none

/-- The checks of steps 4 and 5 of R264 that an instruction meets pass. -/
def State.ReadyFor (s : State) (i : Instr) : Prop := ∃ g ss vs, checksOf i = some (g, ss, vs) ∧ s.Ready g ss vs

/-- The current core retires an instruction that leaves its register files so. -/
def State.retired (s : State) (r : Regs) : State := s.setMe { s.me with regs := r }.advance

end Sys2Proof.Machine
end

