-- ==== Sys2Proof/Certificates/Slice0/Obligations.lean ====
section
/-! DEFINITION. The statements about the machine. -/

open Sys2Proof Sys2Proof.Machine

/-! Encoding -/

/-- A head that the opcode map does not assign (R277): the row of unassigned opcodes stands for such heads only. -/
def encodable : Instr → Prop
  | .unassignedOpcode _ opc tl => tailLen opc.toNat ≠ some tl.toNat
  | _ => True

/-- Every well-formed instruction that a head encodes is decoded from the head and the tail that encode it (R262, R264,
R269). -/
def Obligations.DecodeOfEncode : Prop :=
  ∀ (i : Instr) (h t : Nat), encode i = some (h, t) → i.wellFormed = true → encodable i → decode h t = .ok i

/-- A head with its tail is what encodes the instruction it decodes to, so no bit of either is dropped: two words of one
assigned opcode never decode to one instruction (R264 step 3, R269). -/
def Obligations.EncodeOfDecode : Prop :=
  ∀ (i : Instr) (h t : Nat), h < 2 ^ 16 → t < 2 ^ (16 * headTl h) → tailLen (headOpc h) = some (headTl h) →
    decode h t = .ok i → encode i = some (h, t)

/-- Words written out from the encodings of the spec decode to the instructions they stand for (R288, R292, R297,
R262 and R269 for the first: add s3, s1, s2 is opcode 0, TL 2, with d = 3, a = 1, b = 2). -/
def Obligations.DecodedWords : Prop :=
  decode 0x4000 0x0000_2043 = .ok (.add ⟨false, 0⟩ 3 1 2) ∧
  decode 0xA4A0 0x0000_0000_3F00_0000_0003 = .ok (.movi ⟨false, 0⟩ 3 0x3F00_0000) ∧
  decode 0x4280 0x0358_5083 = .ok (.cmp ⟨false, 0⟩ .ltz .z32 3 2 5) ∧
  decode 0x4500 0x0C80_2043 = .ok (.fadd ⟨false, 0⟩ .f32 .chop 3 1 2)

/-- What follows a head that the map does not assign: the decoder names it, and executing it takes an illegal-instruction
exception at its own address, whatever its guard (R264 step 2, R277). -/
def UnassignedHeadTraps : Prop :=
  ∀ (h t : Nat), tailLen (headOpc h) ≠ some (headTl h) →
    ∃ g opc tl, decode h t = .ok (.unassignedOpcode g opc tl) ∧
      ∀ s : State, exec (.unassignedOpcode g opc tl) s = .next (s.trap { status := 0x10 })

/-! Guards and declarations -/

/-- An instruction whose guard is false has no effect: execution goes on at the next head (R263, R266). -/
def FalseGuardOnlyAdvances : Prop :=
  ∀ (i : Instr) (g : Guard) (ss vs : List Reg) (s : State), checksOf i = some (g, ss, vs) →
    s.me.regs.guard g = false → exec i s = .next (s.setMe s.me.advance)

/-- An instruction that names a register at or above the number its kernel declares takes exception 0x15 and has no
effect of its own (R144, R264 step 5). -/
def UndeclaredRegisterTraps : Prop :=
  ∀ (i : Instr) (g : Guard) (ss vs : List Reg) (s : State), checksOf i = some (g, ss, vs) →
    s.me.regs.guard g = true → (s.me.declS ss && s.me.declV vs) = false →
    exec i s = .next (s.trap { status := 0x15 })

/-- Before an instruction has an effect: an unassigned head traps, a false guard only advances the PC, and a register the
kernel has not declared traps. -/
def Obligations.EntryChecks : Prop :=
  UnassignedHeadTraps ∧ FalseGuardOnlyAdvances ∧ UndeclaredRegisterTraps


/-! Scalar integer instructions -/

/-- The next state of an instruction that writes one scalar register and retires; a write of s0 is discarded (R281). -/
def writes (s : State) (d : Reg) (x : Word) : State := s.retired (s.me.regs.ws d x)

/-- The sums, products, shifts and comparisons of R284 on whole registers, in arithmetic: every one completes with its
result in s[d]. -/
def IntegerArithmeticResults : Prop :=
  ∀ (s : State) (g : Guard) (d a b : Reg), s.Ready g [d, a, b] [] →
    let x := s.me.regs.rs a
    let y := s.me.regs.rs b
    let n := y.toNat % 64
    exec (.add g d a b) s = .next (writes s d (BitVec.ofNat 64 (x.toNat + y.toNat))) ∧
    exec (.sub g d a b) s = .next (writes s d (BitVec.ofInt 64 ((x.toNat : Int) - y.toNat))) ∧
    exec (.mul g d a b) s = .next (writes s d (BitVec.ofNat 64 (x.toNat * y.toNat))) ∧
    exec (.mulh g d a b) s = .next (writes s d (BitVec.ofInt 64 (x.toInt * y.toInt / 2 ^ 64))) ∧
    exec (.mulhz g d a b) s = .next (writes s d (BitVec.ofNat 64 (x.toNat * y.toNat / 2 ^ 64))) ∧
    exec (.shl g d a b) s = .next (writes s d (BitVec.ofNat 64 (x.toNat * 2 ^ n))) ∧
    exec (.shr g d a b) s = .next (writes s d (BitVec.ofNat 64 (x.toNat / 2 ^ n))) ∧
    exec (.sra g d a b) s = .next (writes s d (BitVec.ofInt 64 (x.toInt / 2 ^ n))) ∧
    exec (.rol g d a b) s = .next (writes s d (BitVec.ofNat 64 (x.toNat * 2 ^ n + x.toNat / 2 ^ (64 - n)))) ∧
    exec (.min g d a b) s = .next (writes s d (BitVec.ofInt 64 (min x.toInt y.toInt))) ∧
    exec (.max g d a b) s = .next (writes s d (BitVec.ofInt 64 (max x.toInt y.toInt))) ∧
    exec (.minz g d a b) s = .next (writes s d (BitVec.ofNat 64 (min x.toNat y.toNat))) ∧
    exec (.maxz g d a b) s = .next (writes s d (BitVec.ofNat 64 (max x.toNat y.toNat)))

/-- The bitwise forms and the counts of R284, bit by bit: the result has the named bit or number. -/
def BitwiseAndCountResults : Prop :=
  ∀ (s : State) (g : Guard) (d a b : Reg), s.Ready g [d, a, b] [] →
    let x := s.me.regs.rs a
    let y := s.me.regs.rs b
    (∃ r, exec (.and g d a b) s = .next (writes s d r) ∧ ∀ i, r.getLsbD i = (x.getLsbD i && y.getLsbD i)) ∧
    (∃ r, exec (.or g d a b) s = .next (writes s d r) ∧ ∀ i, r.getLsbD i = (x.getLsbD i || y.getLsbD i)) ∧
    (∃ r, exec (.xor g d a b) s = .next (writes s d r) ∧ ∀ i, r.getLsbD i = (x.getLsbD i ^^ y.getLsbD i)) ∧
    (∃ r, exec (.andn g d a b) s = .next (writes s d r) ∧
      ∀ i, i < 64 → r.getLsbD i = (x.getLsbD i && !y.getLsbD i)) ∧
    (∃ r, exec (.orn g d a b) s = .next (writes s d r) ∧
      ∀ i, i < 64 → r.getLsbD i = (x.getLsbD i || !y.getLsbD i)) ∧
    (∃ r, exec (.brev g d a) s = .next (writes s d r) ∧ ∀ i, i < 64 → r.getLsbD i = x.getLsbD (63 - i)) ∧
    (∃ n : Nat, exec (.clz g d a) s = .next (writes s d (BitVec.ofNat 64 n)) ∧
      n ≤ 64 ∧ (∀ i, 64 - n ≤ i → x.getLsbD i = false) ∧ (n < 64 → x.getLsbD (63 - n) = true)) ∧
    (∃ n : Nat, exec (.ctz g d a) s = .next (writes s d (BitVec.ofNat 64 n)) ∧
      n ≤ 64 ∧ (∀ i, i < n → x.getLsbD i = false) ∧ (n < 64 → x.getLsbD n = true)) ∧
    exec (.popc g d a) s =
      .next (writes s d (BitVec.ofNat 64 ((List.range 64).countP fun i => x.getLsbD i)))

/-- Results of the integer arithmetic, bitwise and bit-count instructions. -/
def Obligations.IntegerResults : Prop :=
  IntegerArithmeticResults ∧ BitwiseAndCountResults


/-- Divide of R285. -/
def divideSpec (signed : Bool) (x y : Int) : Int × Int :=
  if y = 0 then
    (if x = 0 then 0 else if !signed then 2 ^ 64 - 1 else if 0 < x then 2 ^ 63 - 1 else -2 ^ 63, x)
  else if signed ∧ x = -2 ^ 63 ∧ y = -1 then (2 ^ 63 - 1, 0)
  else (Int.tdiv x y, x - Int.tdiv x y * y)

/-- DIV, DIVZ, REM and REMZ write the quotient or remainder of Divide on signed or unsigned operands (R285). -/
def Obligations.DivisionResults : Prop :=
  ∀ (s : State) (g : Guard) (d a b : Reg), s.Ready g [d, a, b] [] →
    let x := s.me.regs.rs a
    let y := s.me.regs.rs b
    exec (.div g d a b) s = .next (writes s d (BitVec.ofInt 64 (divideSpec true x.toInt y.toInt).1)) ∧
    exec (.rem g d a b) s = .next (writes s d (BitVec.ofInt 64 (divideSpec true x.toInt y.toInt).2)) ∧
    exec (.divz g d a b) s = .next (writes s d (BitVec.ofInt 64 (divideSpec false x.toNat y.toNat).1)) ∧
    exec (.remz g d a b) s = .next (writes s d (BitVec.ofInt 64 (divideSpec false x.toNat y.toNat).2))

/-- The carry-less product of R290: a loop over the bits of the second operand. -/
def clProduct (x y : BitVec 64) : BitVec 128 :=
  (List.range 64).foldl (fun t i => if y.getLsbD i then t ^^^ (x.setWidth 128 <<< i) else t) 0

/-- CLMUL and CLMULH write the halves of the carry-less product (R290). -/
def CarrylessProductResults : Prop :=
  ∀ (s : State) (g : Guard) (d a b : Reg), s.Ready g [d, a, b] [] →
    let t := clProduct (s.me.regs.rs a) (s.me.regs.rs b)
    exec (.clmul g d a b) s = .next (writes s d (t.setWidth 64)) ∧
    exec (.clmulh g d a b) s = .next (writes s d ((t >>> 64).setWidth 64))

/-- SEXT and ZEXT take the low bits of their type (R284): the result is congruent to the operand and lies in the type's
range. -/
def ExtensionResults : Prop :=
  ∀ (s : State) (g : Guard) (t : Ty) (d a : Reg), s.Ready g [d, a] [] →
    let x := s.me.regs.rs a
    ((Instr.sext g t d a).wellFormed = true →
      ∃ r : Int, exec (.sext g t d a) s = .next (writes s d (BitVec.ofInt 64 r)) ∧
        r % 2 ^ t.width = (x.toNat : Int) % 2 ^ t.width ∧ -2 ^ (t.width - 1) ≤ r ∧ r < 2 ^ (t.width - 1)) ∧
    ((Instr.zext g t d a).wellFormed = true →
      exec (.zext g t d a) s = .next (writes s d (BitVec.ofNat 64 (x.toNat % 2 ^ t.width))))

/-- The immediate forms of R286 to R289: Imm is SignExt(imm20). -/
def ImmediateResults : Prop :=
  ∀ (s : State) (g : Guard) (d a : Reg) (imm : BitVec 20), s.Ready g [d, a] [] →
    let x := s.me.regs.rs a
    exec (.addi g d a imm) s = .next (writes s d (BitVec.ofInt 64 (x.toInt + imm.toInt))) ∧
    exec (.andi g d a imm) s = .next (writes s d (x &&& BitVec.ofInt 64 imm.toInt)) ∧
    exec (.ori g d a imm) s = .next (writes s d (x ||| BitVec.ofInt 64 imm.toInt)) ∧
    exec (.xori g d a imm) s = .next (writes s d (x ^^^ BitVec.ofInt 64 imm.toInt)) ∧
    ((Instr.shli g d a imm).wellFormed = true →
      exec (.shli g d a imm) s = .next (writes s d (BitVec.ofNat 64 (x.toNat * 2 ^ imm.toNat))) ∧
      exec (.shri g d a imm) s = .next (writes s d (BitVec.ofNat 64 (x.toNat / 2 ^ imm.toNat))) ∧
      exec (.srai g d a imm) s = .next (writes s d (BitVec.ofInt 64 (x.toInt / 2 ^ imm.toNat)))) ∧
    (∀ w : Word, exec (.movi g d w) s = .next (writes s d w)) ∧
    (∀ h : BitVec 5, exec (.addpc g d h imm) s =
      .next (writes s d (BitVec.ofInt 64 (s.me.pc.toNat / 64 * 64 + imm.toInt * 64 + 2 * h.toNat))))

/-- Results of carry-less products, extensions, immediates and address forms. -/
def Obligations.ImmediateAndExtensionResults : Prop :=
  CarrylessProductResults ∧ ExtensionResults ∧ ImmediateResults


/-! Comparisons and predicates -/

/-- The integer condition codes of R272 on operands read at a type's width. -/
def holds (c : Cond) (w : Nat) (signed : Bool) (x y : Word) : Prop :=
  let sx := (x.setWidth w).toInt
  let sy := (y.setWidth w).toInt
  let ux := (x.setWidth w).toNat
  let uy := (y.setWidth w).toNat
  match c with
  | .eq => ux = uy
  | .ne => ux ≠ uy
  | .lt => if signed then sx < sy else ux < uy
  | .le => if signed then sx ≤ sy else ux ≤ uy
  | .gt => if signed then sy < sx else uy < ux
  | .ge => if signed then sy ≤ sx else uy ≤ ux
  | .ltz => ux < uy
  | .lez => ux ≤ uy
  | .gtz => uy < ux
  | .gez => uy ≤ ux
  | .un => False

/-- CMP, CMPI and CMPI's high codes set p[d] to the condition, and nothing else (R287, R292). -/
def ComparisonSetsPredicate : Prop :=
  ∀ (s : State) (g : Guard) (a b : Reg), s.Ready g [a, b] [] →
    let r := s.me.regs
    (∀ (c : Cond) (t : Ty) (d : Reg), (Instr.cmp g c t d a b).wellFormed = true →
      ∃ v : Bool, exec (.cmp g c t d a b) s = .next (s.retired (r.wp d.toNat v)) ∧
        (v = true ↔ holds c (if t = .raw then 64 else t.width) (t.isSigned || t == .raw) (r.rs a) (r.rs b))) ∧
    (∀ (c : Cond) (p : BitVec 3) (imm : BitVec 20), (Instr.cmpi g c p a imm).wellFormed = true →
      ∃ v : Bool, exec (.cmpi g c p a imm) s = .next (s.retired (r.wp p.toNat v)) ∧
        (v = true ↔ holds c 64 true (r.rs a) (BitVec.ofInt 64 imm.toInt))) ∧
    (∀ (c : Cond) (p : BitVec 3) (imm : BitVec 20), (Instr.cmpiHi g c p a imm).wellFormed = true →
      ∃ v : Bool, exec (.cmpiHi g c p a imm) s = .next (s.retired (r.wp p.toNat v)) ∧
        (v = true ↔ holds c 64 true (r.rs a) (BitVec.ofInt 64 imm.toInt)))

/-- SEL, PLOG, PGET and PSET (R293 to R295): the selected register; the truth table's bit; the eight predicates with bit
0 set; p1 to p7 from the register's bits. -/
def PredicateResults : Prop :=
  ∀ (s : State) (g : Guard) (d a b : Reg),
    let r := s.me.regs
    (s.Ready g [d, a, b] [] → ∀ q : Guard,
      (r.guard q = true → exec (.sel g q d a b) s = .next (writes s d (r.rs a))) ∧
      (r.guard q = false → exec (.sel g q d a b) s = .next (writes s d (r.rs b)))) ∧
    (s.Ready g [] [] → ∀ tt : BitVec 4,
      exec (.plog g tt d a b) s =
        .next (s.retired (r.wp d.toNat (tt.getLsbD (2 * (r.rp a.toNat).toNat + (r.rp b.toNat).toNat))))) ∧
    (s.Ready g [d] [] →
      ∃ x, exec (.pget g d) s = .next (writes s d x) ∧ ∀ i, x.getLsbD i = (decide (i < 8) && r.rp i)) ∧
    (s.Ready g [a] [] →
      ∃ t, exec (.pset g a) s = .next t ∧ t.me.pc = s.me.nextPc ∧
        (∀ i, 1 ≤ i → i < 8 → t.me.regs.rp i = (r.rs a).getLsbD i) ∧ t.me.regs = { r with p := t.me.regs.p } ∧
        t = s.setMe t.me)

/-- Results of comparisons and of the predicate instructions. -/
def Obligations.ComparisonResults : Prop :=
  ComparisonSetsPredicate ∧ PredicateResults


/-! Scalar floating point -/

/-- The register contents of an exact result rounded once to a type (R282, R297). -/
def rounded (t : Ty) (rm : Rm) (e : Val) : Word := extend (fconv t rm e).bits t

/-- The arithmetic, comparison, conversion and class instructions on floating operands write what R297, R298 and R300 to
R302 name, each arithmetic form and conversion with one rounding. -/
def Obligations.FloatingResults : Prop :=
  ∀ (s : State) (g : Guard) (d a b c : Reg) (rm : Rm), s.Ready g [d, a, b, c] [] →
    let v := fun (t : Ty) (n : Reg) => val t (s.me.regs.rs n).toNat
    (∀ t : Ty, t.isF32or64 = true →
      exec (.fadd g t rm d a b) s = .next (writes s d (rounded t rm ((v t a).add rm (v t b)))) ∧
      exec (.fsub g t rm d a b) s = .next (writes s d (rounded t rm ((v t a).sub rm (v t b)))) ∧
      exec (.fmul g t rm d a b) s = .next (writes s d (rounded t rm ((v t a).mul (v t b)))) ∧
      exec (.fma g t rm d a b c) s = .next (writes s d (rounded t rm (((v t a).mul (v t b)).add rm (v t c)))) ∧
      exec (.fdiv g t rm d a b) s = .next (writes s d (rounded t rm ((v t a).div (v t b)))) ∧
      (∀ cond : Cond, exec (.fcmp g cond t d a b) s =
        .next (s.retired (s.me.regs.wp d.toNat (fltCond cond (v t a) (v t b)))))) ∧
    (∀ dbl : Bool, let t := if dbl then Ty.f64 else Ty.f32
      exec (.fsqrt g dbl rm d a) s = .next (writes s d (rounded t rm (v t a).sqrt)) ∧
      exec (.fclass g dbl d a) s = .next (writes s d (fclass t (s.me.regs.rs a).toNat))) ∧
    (∀ dt st : Ty, exec (.fcvt g dt st rm d a) s = .next (writes s d (rounded dt rm (v st a))))

/-- A NaN operand gives the canonical NaN of the type in every arithmetic form and in FMIN and FMAX (R283, R299, R63), and
fails every condition of FCMP but not-equal and unordered (R272). -/
def NanPropagates : Prop :=
  ∀ (s : State) (g : Guard) (t : Ty) (rm : Rm) (d a b c : Reg), t.isF32or64 = true → s.Ready g [d, a, b, c] [] →
    let v := fun (n : Reg) => val t (s.me.regs.rs n).toNat
    let nan := Host.Outcome.next (writes s d (BitVec.ofNat 64 (fmtOf t).nanBits))
    (((v a).isNan || (v b).isNan) = true →
      exec (.fadd g t rm d a b) s = nan ∧ exec (.fsub g t rm d a b) s = nan ∧ exec (.fmul g t rm d a b) s = nan ∧
      exec (.fdiv g t rm d a b) s = nan ∧ exec (.fma g t rm d a b c) s = nan ∧ exec (.fma g t rm d c a b) s = nan ∧
      exec (.fmin g t d a b) s = nan ∧ exec (.fmax g t d a b) s = nan ∧
      ∀ cond : Cond, exec (.fcmp g cond t d a b) s =
        .next (s.retired (s.me.regs.wp d.toNat (cond == .ne || cond == .un)))) ∧
    ((v a).isNan = true → exec (.fsqrt g (decide (t = .f64)) rm d a) s = nan)

/-- With no NaN among them, FMIN and FMAX write one of their operands bit for bit, no operand lies below FMIN's or above
FMAX's, and -0 is below +0 (R299). -/
def FminFmaxPickAnOperand : Prop :=
  ∀ (s : State) (g : Guard) (t : Ty) (d a b : Reg), t.isF32or64 = true → s.Ready g [d, a, b] [] →
    let x := (s.me.regs.rs a).toNat % 2 ^ t.width
    let y := (s.me.regs.rs b).toNat % 2 ^ t.width
    let minusZero := 2 ^ (t.width - 1)
    (val t x).isNan = false → (val t y).isNan = false →
    ∃ lo hi, (lo = x ∨ lo = y) ∧ (hi = x ∨ hi = y) ∧
      (∀ z, z = x ∨ z = y → (val t z).lt (val t lo) = false ∧ (val t hi).lt (val t z) = false) ∧
      ((x = 0 ∧ y = minusZero) ∨ (x = minusZero ∧ y = 0) → lo = minusZero ∧ hi = 0) ∧
      exec (.fmin g t d a b) s = .next (writes s d (BitVec.ofNat 64 lo)) ∧
      exec (.fmax g t d a b) s = .next (writes s d (BitVec.ofNat 64 hi))

/-- NaN operands give the canonical NaN, and FMIN and FMAX one of their operands. -/
def Obligations.FloatingRules : Prop :=
  NanPropagates ∧ FminFmaxPickAnOperand


/-! What an instruction of the register files leaves alone -/

/-- The current core but for its register files and its place in the instruction stream. -/
def sameButRegs (c c' : Core) : Prop :=
  c' = { c with regs := c'.regs, pc := c.nextPc, fline := c'.fline, wait := .none }

/-- The frame of the instructions that only write one scalar register or one predicate: memory, the other cores, every
other agent, and the core's other registers and special registers are unchanged; so is every scalar register but the
destination, or every predicate but the destination (R281). -/
def Obligations.ScalarFrame : Prop :=
  ∀ (s t : State) (g : Guard) (c : Cond) (ty : Ty) (rm : Rm) (d a b x : Reg) (imm : BitVec 20) (q : Guard)
    (tt : BitVec 4) (w : Word) (h : BitVec 5) (f : Bool) (dt : Ty),
    s.Ready g [d, a, b, x] [] →
    let frame := t = { s with cores := t.cores } ∧ (∀ k, k ≠ s.cur → t.core k = s.core k) ∧ sameButRegs s.me t.me
    ((∃ i ∈ [Instr.add g d a b, .sub g d a b, .and g d a b, .or g d a b, .xor g d a b, .andn g d a b, .orn g d a b,
        .shl g d a b, .shr g d a b, .sra g d a b, .rol g d a b, .mul g d a b, .mulh g d a b, .mulhz g d a b,
        .div g d a b, .divz g d a b, .rem g d a b, .remz g d a b, .min g d a b, .max g d a b, .minz g d a b,
        .maxz g d a b, .clz g d a, .ctz g d a, .popc g d a, .brev g d a, .sext g ty d a, .zext g ty d a,
        .sel g q d a b, .pget g d, .addi g d a imm, .andi g d a imm, .ori g d a imm, .xori g d a imm, .shli g d a imm,
        .shri g d a imm, .srai g d a imm, .movi g d w, .addpc g d h imm, .clmul g d a b, .clmulh g d a b,
        .fadd g ty rm d a b, .fsub g ty rm d a b, .fmul g ty rm d a b, .fma g ty rm d a b x, .fdiv g ty rm d a b,
        .fsqrt g f rm d a, .fmin g ty d a b, .fmax g ty d a b, .fcvt g dt ty rm d a, .fclass g f d a],
        exec i s = .next t) →
      frame ∧ t.me.regs = { s.me.regs with s := t.me.regs.s } ∧
        ∀ n : Reg, n ≠ d ∨ n = 0 → t.me.regs.rs n = s.me.regs.rs n) ∧
    ((∃ i ∈ [Instr.cmp g c ty d a b, .plog g tt d a b, .cmpi g c (d.setWidth 3) a imm, .cmpiHi g c (d.setWidth 3) a imm,
        .fcmp g c ty d a b], i.wellFormed = true ∧ exec i s = .next t) →
      frame ∧ t.me.regs = { s.me.regs with p := t.me.regs.p } ∧
        ∀ n : Nat, n < 8 → n ≠ d.toNat % 8 ∨ n = 0 → t.me.regs.rp n = s.me.regs.rp n)

/-! Exceptions -/

/-- Taking an exception in task mode (R450): TRAPCAUSE holds the status, the queue, the source and the element in their
fields and zero elsewhere, TRAPPC the address, TRAPINFO the information; the core is in handler mode at the handler's entry
(its address is the model's opaque constant: log 4); its register files are as they were, no later cause traps (R446), and
its matrix queue stops (R114). -/
def TrapEntry : Prop :=
  ∀ (s : State) (n : Nat) (t : Trap) (pc : Word), (s.core n).mode = .task → t.source < 3 → t.status < 256 →
    t.queue < 8 → t.elem < 256 →
    let c := (s.trapOn n t pc).core n
    c.trapCause.toNat % 256 = t.status ∧ c.trapCause.toNat / 2 ^ 8 % 8 = t.queue ∧
    c.trapCause.toNat / 2 ^ 11 % 2 = 0 ∧ c.trapCause.toNat / 2 ^ 12 % 8 = t.source ∧
    c.trapCause.toNat / 2 ^ 15 % 2 = 0 ∧ c.trapCause.toNat / 2 ^ 16 = t.elem ∧
    c.trapPc = pc ∧ c.trapInfo = t.info ∧ c.mode = .handler ∧ c.pc = Config.handlerEntry t.source ∧
    c.regs = (s.core n).regs ∧ c.task = (s.core n).task ∧ c.preempt = false ∧ c.asyncTrap = none ∧ c.trapped = true ∧
    c.eng = { (s.core n).eng with matStop := true }

/-- An exception taken in handler mode sets HMODE and re-enters the handler at its fault entry; the grid of the task that
is served ends with status 0x1F, the core takes no task any more, and the fault is counted for the operator (R452). -/
def HandlerModeFault : Prop :=
  ∀ (s : State) (n : Nat) (t : Trap) (pc : Word), (s.core n).mode = .handler →
    let u := s.trapOn n t pc
    (u.core n).trapCause.getLsbD 15 = true ∧ (u.core n).mode = .handler ∧ (u.core n).service = false ∧
    (u.core n).pc = Config.handlerEntry 0 ∧ (u.core n).trapPc = pc ∧
    (u.pkg (corePkg n)).counters.hfault = bump (s.pkg (corePkg n)).counters.hfault ∧
    (∀ x, (s.core n).task = some x → ∀ g l st, find? s.graphs x.graph = some g → g.launch = some l →
      find? l.nodes x.node = some st → st.run ≠ .faulted →
      ∃ g' l' st', find? u.graphs x.graph = some g' ∧ g'.launch = some l' ∧ find? l'.nodes x.node = some st' ∧
        st'.run = .faulted ∧ st'.status = 0x1F)

/-- What an exception entry writes, and a fault in handler mode. -/
def Obligations.TrapEntryRules : Prop :=
  TrapEntry ∧ HandlerModeFault


/-- An exception leaves every memory byte, every full-empty bit, the host's memory and every other core as they were, and
the tasks, pipes and parity deltas too (R445, R450). -/
def TrapFrame : Prop :=
  ∀ (s : State) (n : Nat) (t : Trap) (pc : Word),
    let u := s.trapOn n t pc
    (∀ a, u.byte a = s.byte a) ∧ u.fe = s.fe ∧ u.ue = s.ue ∧ u.hostMem = s.hostMem ∧ u.winMem = s.winMem ∧
    u.tasks = s.tasks ∧ u.rings = s.rings ∧ u.deltas = s.deltas ∧ u.steps = s.steps ∧
    (∀ k, k ≠ n → u.core k = s.core k) ∧
    (u.core n).eng = { (s.core n).eng with matStop := (u.core n).eng.matStop } ∧ (u.core n).sbuf = (s.core n).sbuf ∧
    (u.core n).dcache = (s.core n).dcache

/-- The first report of a fault fixes a node's status and information; a later one changes neither (R447, R152). -/
def FirstReportCounts : Prop :=
  ∀ (s : State) (k : NodeKey) (st st' : Nat) (i i' : Word) (g : Graph) (l : Launch) (x : NodeSt),
    find? s.graphs k.1 = some g → g.launch = some l → find? l.nodes k.2 = some x →
    ∃ g' l' x', find? ((s.report k st i).report k st' i').graphs k.1 = some g' ∧ g'.launch = some l' ∧
      l'.faulted = true ∧ find? l'.nodes k.2 = some x' ∧ x'.run = .faulted ∧
      (x.run = .faulted → x'.status = x.status ∧ x'.info = x.info) ∧
      (x.run ≠ .faulted → x'.status = st ∧ x'.info = i)

/-- What an exception leaves unchanged, and which report fixes a node's status. -/
def Obligations.ReportRules : Prop :=
  TrapFrame ∧ FirstReportCounts


/-- TRAP raises status 0x18 at its own address with its immediate as information (R310); ERET goes to TRAPPC in task mode
(R311). -/
def TrapAndReturn : Prop :=
  ∀ (s : State) (g : Guard) (imm : BitVec 20), s.me.regs.guard g = true →
    exec (.trap g imm) s = .next (s.trapOn s.cur { status := 0x18, info := BitVec.ofNat 64 imm.toNat } s.me.pc) ∧
    (s.me.mode = .handler →
      exec (.eret g) s =
        .next (s.setMe { s.me with mode := .task, pc := s.me.trapPc, fline := none, wait := .none }))

/-- ERET, WFI and HALT in task mode, and EXIT in handler mode, raise status 0x1B and have no effect of their own (R309,
R311). -/
def ModeChecks : Prop :=
  ∀ (s : State) (g : Guard), s.me.regs.guard g = true →
    (s.me.mode = .task → ∀ i ∈ [Instr.eret g, .wfi g, .halt g], exec i s = .next (s.trap { status := 0x1B })) ∧
    (s.me.mode = .handler → exec (.exit g) s = .next (s.trap { status := 0x1B }))


/-! Steps, fetch and transfers of control -/

/-- A running core that stands in an entered line, and whose turn comes, executes the instruction its head decodes to: the
step is exec of that instruction at the state whose turn has begun, with no walk to be waited for any more (R264, R266,
R472).  So does one that has yet to enter its line, at the state that the entering leaves.  A step of another agent that the
schedule names is exec of it; an instruction is never taken from the schedule (log 1). -/
def DecodedTurns : Prop :=
  (∀ (s u : State) (n : Nat) (l : LineBits) (i : Instr), s.nextTurn = .core n → (s.core n).run = .running →
    (s.core n).member = none → (s.core n).loads = [] →
    ((s.core n).mode = .handler ∨ ((s.core n).asyncTrap = none ∧ (s.core n).preempt = false)) →
    (((s.core n).fline = some (lineOf (s.core n).pc, l) ∧ u = (s.begin_ n).goOn) ∨
      ((s.core n).fline = none ∧ (s.begin_ n).goOn.enterLine n = (u, .line l))) →
    decodeAt l (headIx (s.core n).pc) = .ok i → step s = exec i u) ∧
  (∀ (s : State) (n : Nat) (i : Instr), s.nextTurn = .event n i →
    (Instr.isStep i = true → step s = exec i (s.begin_ n)) ∧
    (Instr.isStep i = false → step s = .next (s.begin_ n)))

/-- A load of any space whose turn lets later instructions pass it (R209; log 2) leaves the core at the next head with its
registers as they were; when the load is performed, its destination takes the value that the instruction then gives, the
core's other scalar registers keep theirs, and the core stands where it stood.  An instruction that reads or writes the
load's destination does not run beside it (R209 items 4 to 6, R210). -/
def LateLoads : Prop :=
  (∀ (s t : State) (l : LineBits) (o : MemOp) (g : Guard) (ld : Instr), s.me.run = .running → s.me.mode = .task →
    s.me.member = none → s.me.loads = [] → s.me.asyncTrap = none → s.me.preempt = false → s.me.due = .no →
    s.me.fline = some (lineOf s.me.pc, l) → ld ∈ [.ld g o, .ldNc g o, .ldRo g o] →
    decodeAt l (headIx s.me.pc) = .ok ld → o.order = .none → s.me.regs.guard g = true →
    exec ld s = .next t → t.me.mode = .task → t.me.wait = .none → t.me.pc = s.me.nextPc →
    ∃ u x, s.coreTurn true = .next u ∧ u.me.regs = s.me.regs ∧ u.me.pc = s.me.nextPc ∧ u.mem = s.mem ∧
      u.me.loads = [x] ∧ x.ins = ld ∧ x.regs = s.me.regs ∧
      ∀ i r, touchOf s.me.regs i = some r → (o.d ∈ r.s) → u.me.runsBeside i = false) ∧
  (∀ (s v : State) (k : Nat) (x : LateLoad) (r : List LateLoad) (o : MemOp) (g : Guard), (s.core k).loads = x :: r →
    x.ins ∈ [.ld g o, .ldNc g o, .ldRo g o] → o.order = .none →
    let c := s.core k
    let old := { c with loads := r, regs := x.regs, pc := x.pc, fline := x.fline, wait := .none }
    exec x.ins { s.setCore k old with cur := k } = .next v → completes old v = true →
    let u := s.landLoad k 0
    (u.core k).regs.rs o.d = v.me.regs.rs o.d ∧ (∀ n, n ≠ o.d → (u.core k).regs.rs n = c.regs.rs n) ∧
    (u.core k).pc = c.pc ∧ (u.core k).loads = r ∧ u.mem = v.mem ∧ u.cur = s.cur)

/-- Steps run what is decoded, and loads may be performed after later instructions of their core. -/
def Obligations.StepRunsDecoded : Prop :=
  DecodedTurns ∧ LateLoads

/-- The checks of R268 on a target, in order: an odd address or head 0, the fetch of its line, the line's legality, a head
above N; the first that fails is reported at the target, in TRAPINFO where R451 says so, as is a fetch that its home refuses
(log 25); a walk is waited for (R472).  A legal line is entered, and the head's fields that its instruction does not accept
raise status 0x10 (R264, R277). -/
def TargetChecks : Prop :=
  ∀ (s : State), s.me.fline = none → s.me.loads = [] →
    let pc := s.me.pc
    let bad := fun (u : State) (st : Nat) => Host.Outcome.next (u.trap { status := st, info := pc })
    ((pc.toNat % 2 = 1 ∨ headIx pc = 0) → s.runOwn false = bad s 0x12) ∧
    (pc.toNat % 2 = 0 → headIx pc ≠ 0 →
      (∀ u st n, s.fetchLine s.cur (lineOf pc).toNat = (u, .bad st n) →
        s.runOwn false = .next ((u.note n).trap { status := st, info := addrInfo st pc.toNat })) ∧
      (∀ u, s.fetchLine s.cur (lineOf pc).toNat = (u, .walks) →
        s.runOwn false = .next (u.setMe { u.me with due := .fetch })) ∧
      (∀ u l, s.fetchLine s.cur (lineOf pc).toNat = (u, .line l) →
        (lineLegal l = false → s.runOwn false = bad u 0x11) ∧
        (lineLegal l = true → lineN l < headIx pc → s.runOwn false = bad u 0x12) ∧
        (lineLegal l = true → headIx pc ≤ lineN l →
          let v := u.modCore s.cur fun c => { c with fline := some (lineOf pc, l) }
          (∀ i, decodeAt l (headIx pc) = .ok i → s.runOwn false = runInstr i v) ∧
          (∀ e, decodeAt l (headIx pc) = .error e → s.runOwn false = .next (v.trap { status := 0x10 })))))

/-- Where NOP, BR, JMP, CALL, CALLI and RET go on (R266, R267, R303), and what CALL, CALLI and RET do to the
return-address store (R305): an entry that has been spilled comes back from memory, and a word there that cannot be corrected
is reported in place of the pop (R10).  A push that leaves 17 entries held touches no memory until one is spilled, at an
address that the depth gives: that is the model's (log 14). -/
def Obligations.TransferResults : Prop :=
  ∀ (s : State) (g : Guard) (a : Reg) (h : BitVec 5) (off : BitVec 27),
    let c := s.me
    let target := BitVec.ofInt 64 (c.pc.toNat / 64 * 64 + 64 * off.toInt + 2 * h.toNat)
    let kept := if 16 < c.ras.length then c.ras.dropLast else c.ras
    let top := if c.ras = [] then BitVec.ofNat 64 (s.num (s.rasSlot s.cur (c.rasD - 1)) 8) else c.ras.headD 0
    let called := fun (i : Instr) (x : Word) =>
      ∃ t, exec i s = .next t ∧ t.me = { c.goto x with rasD := c.rasD + 1, ras := c.nextPc :: kept } ∧
        (c.ras.length ≤ 16 → t = s.setMe t.me)
    (s.Ready g [] [] →
      exec (.nop g) s = .next (s.setMe c.advance) ∧
      exec (.br g h off) s = .next (s.setMe (c.goto target)) ∧
      (c.rasD ≠ 256 → called (.call g h off) target) ∧
      (c.rasD ≠ 0 → (c.ras ≠ [] ∨ s.rasBad s.cur = false) →
        exec (.ret g) s = .next (s.setMe { c.goto top with rasD := c.rasD - 1, ras := c.ras.tail })) ∧
      (c.rasD ≠ 0 → c.ras = [] → s.rasBad s.cur = true →
        exec (.ret g) s = .next ((s.note (.memue (corePkg s.cur))).trap
          { status := 0x26, info := BitVec.ofNat 64 (s.rasSlot s.cur (c.rasD - 1) - s.windowPa s.cur 0) }))) ∧
    (s.Ready g [a] [] →
      exec (.jmp g a) s = .next (s.setMe (c.goto (c.regs.rs a))) ∧
      (c.rasD ≠ 256 → called (.calli g a) (c.regs.rs a)))

/-- A CALL or CALLI at depth 256 raises status 0x1A, a RET at depth 0 raises 0x19, and nothing is pushed, popped or branched
to: the handler is entered from the state as it was.  Otherwise the instruction retires with its push or pop done, unless
the word popped cannot be corrected (R10), whatever its target is: the core stands at the target, whose line it has yet to
enter (R306, R305). -/
def DepthFaults : Prop :=
  ∀ (s : State) (g : Guard) (a : Reg) (h : BitVec 5) (off : BitVec 27),
    let c := s.me
    let target := BitVec.ofInt 64 (c.pc.toNat / 64 * 64 + 64 * off.toInt + 2 * h.toNat)
    let top := if c.ras = [] then BitVec.ofNat 64 (s.num (s.rasSlot s.cur (c.rasD - 1)) 8) else c.ras.headD 0
    let at_ := fun (t : State) (x : Word) => t.me.pc = x ∧ t.me.fline = none ∧ t.me.mode = c.mode
    (s.Ready g [] [] →
      (c.rasD = 256 → exec (.call g h off) s = .next (s.trap { status := 0x1A })) ∧
      (c.rasD = 0 → exec (.ret g) s = .next (s.trap { status := 0x19 })) ∧
      (c.rasD ≠ 256 → ∃ t, exec (.call g h off) s = .next t ∧ t.me.rasD = c.rasD + 1 ∧
        t.me.ras.head? = some c.nextPc ∧ at_ t target) ∧
      (c.rasD ≠ 0 → (c.ras ≠ [] ∨ s.rasBad s.cur = false) → ∃ t, exec (.ret g) s = .next t ∧ t.me.rasD = c.rasD - 1 ∧
        t.me.ras = c.ras.tail ∧ at_ t top)) ∧
    (s.Ready g [a] [] →
      (c.rasD = 256 → exec (.calli g a) s = .next (s.trap { status := 0x1A })) ∧
      (c.rasD ≠ 256 → ∃ t, exec (.calli g a) s = .next t ∧ t.me.rasD = c.rasD + 1 ∧
        t.me.ras.head? = some c.nextPc ∧ at_ t (c.regs.rs a)))

/-- CALL, CALLI and RET at their depth limits, and the faults of a target, which are reported at the target (R306). -/
def Obligations.CallDepthFaults : Prop :=
  DepthFaults ∧ TargetChecks


/-- LOOP (R304): n is s[a] - 1 modulo 2^64, s[a] becomes n, and unless n is 0 execution goes to the target.  A count of 1
falls through, a count of 0 wraps and branches, and with s0 the branch is always taken. -/
def Obligations.LoopCounts : Prop :=
  ∀ (s : State) (g : Guard) (a : Reg) (h : BitVec 5) (off : BitVec 21), s.Ready g [a] [] →
    let c := s.me
    let n := BitVec.ofInt 64 ((c.regs.rs a).toNat - 1)
    let target := BitVec.ofInt 64 (c.pc.toNat / 64 * 64 + 64 * off.toInt + 2 * h.toNat)
    let counted := { c with regs := c.regs.ws a n }
    (n ≠ 0 → exec (.loop g h off a) s = .next (s.setMe (counted.goto target))) ∧
    (n = 0 → exec (.loop g h off a) s = .next (s.setMe counted.advance)) ∧
    (c.regs.rs a = 1 → n = 0) ∧ (c.regs.rs a = 0 → n = BitVec.ofNat 64 0xFFFF_FFFF_FFFF_FFFF) ∧
    (a = 0 → n ≠ 0 ∧ counted = c)

/-! Modes and system registers -/

/-- Nothing that the current core stored is still on its way, and no refusal has reached it: a release at any scope is
complete (R207, R244, R245). -/
structure Quiet (s : State) : Prop where
  held : s.me.sbuf = []
  fly : s.me.sfly = []
  posted : s.me.journal = []
  refused : s.me.asyncTrap = none

/-- WFI gates the core until something is pending, after which the gated core goes on past it, and HALT stops it (R311); how
many of the messages for the core its firmware has taken by then is a free value of the model (log 18).  IFENCE empties the
instruction cache, and the next head's line is entered anew (R314); EXIT of a task whose conditions hold retires it,
or waits (R309, R154), and one that abandons its pipe only reports 0x45 (log 49). -/
def ModeInstructionResults : Prop :=
  ∀ (s : State) (g : Guard), s.Ready g [] [] →
    let c := s.me
    let d := { c with svc := c.svc - Config.messagesTaken s.tick }
    (c.mode = .handler →
      (c.preempt = false → c.asyncTrap = none → d.svc = 0 → exec (.wfi g) s = .next (s.setMe { d with run := .gated })) ∧
      ((c.preempt = true ∨ c.asyncTrap ≠ none ∨ d.svc ≠ 0) → exec (.wfi g) s = .next (s.setMe d.advance)) ∧
      exec (.halt g) s = .next (s.setMe { c.advance with run := .halted })) ∧
    (Quiet s → exec (.ifence g) s =
      .next (s.setMe { c with icache := [], pc := c.nextPc, fline := none, wait := .none })) ∧
    (c.mode = .task → Quiet s →
      (s.commandsEnded s.cur = false → exec (.exit g) s = .next (s.setMe { c with wait := .exit })) ∧
      (s.commandsEnded s.cur = true → exec (.exit g) s = .next (s.retire s.cur) ∧
        ∀ x, c.task = some x → s.abandons x = true →
          exec (.exit g) s = .next (s.report (x.graph, x.node) 0x45 x.taskid))) ∧
    (c.run = .gated → ∀ late,
      (c.preempt = false → c.asyncTrap = none → c.svc = 0 → s.coreTurn late = .next s) ∧
      ((c.preempt = true ∨ c.asyncTrap ≠ none ∨ c.svc ≠ 0) →
        s.coreTurn late = .next (s.setMe { c.advance with run := .running })))

/-- TRAP and ERET, the firmware-only instructions, and those that change what a core does. -/
def Obligations.ModeRules : Prop :=
  TrapAndReturn ∧ ModeChecks ∧ ModeInstructionResults


/-- SRD (R34, R312): the registers that kernels read, with a task and without one; those that firmware reads in handler
mode; status 0x13 for every other index and for a firmware register in task mode.  Without a task TASKID, ELEMID and NODEID
are a free value of the model (log 8). -/
def SystemRegisterReads : Prop :=
  ∀ (s : State) (g : Guard) (d : Reg), s.Ready g [d] [] →
    let c := s.me
    let n := fun (x : Nat) => BitVec.ofNat 64 x
    let common := [(0x010, n c.spbanks), (0x011, n (c.vgrpFirst * 16 + c.vgrpSize)), (0x030, n c.barbase),
      (0x031, c.domreg), (0x040, c.mthr), (0x103, n ((c.task.map (·.ctxid)).getD 0)), (0x104, n (s.cur % 2048)),
      (0x203, n (if s.cur % 2048 = 1556 then 1 else 0))] ++
      (List.range 14).map fun k => (0x020 + k, n (if k < c.spbanks then look c.bfmt 0 k else 0).toNat)
    let firmware := [(0x050, c.rasbase), (0x200, c.trapCause), (0x201, c.trapPc), (0x202, c.trapInfo), (0x210, c.ptroot0),
      (0x211, c.ptroot1), (0x212, 0)]
    (∀ x, c.task = some x → ∀ r ∈ common ++ [(0x100, x.taskid), (0x101, x.elemid), (0x102, n x.node)],
      exec (.srd g d (BitVec.ofNat 12 r.1)) s = .next (writes s d r.2)) ∧
    (c.task = none → ∀ r ∈ common ++ [0x100, 0x101, 0x102].map fun i => (i, Config.freeValue s.free),
      exec (.srd g d (BitVec.ofNat 12 r.1)) s = .next (writes { s with free := s.free + 1 } d r.2)) ∧
    (c.mode = .handler → ∀ r ∈ firmware, exec (.srd g d (BitVec.ofNat 12 r.1)) s = .next (writes s d r.2)) ∧
    (∀ idx : BitVec 12, (∀ r ∈ common, idx.toNat ≠ r.1) → idx.toNat ∉ [0x100, 0x101, 0x102] →
      (c.mode = .task ∨ ∀ r ∈ firmware, idx.toNat ≠ r.1) →
      exec (.srd g d idx) s = .next (s.trap { status := 0x13 }))

/-- SWR (R34, R312): MTHR keeps 48 bits (R93); BFMTk keeps its defined bits while bank k is a scratchpad bank (R27, R54); a
change of LSPLIT empties the data cache and makes the banks that change hands read zero (R26, R28); in handler mode
RASBASE, TRAPPC and the table roots are written, TRAPCAUSE and TRAPINFO keep their value (R450), and TLBINV empties the
TLBs of its scope (R473); every other index, and a
firmware register in task mode, raises status 0x13. -/
def SystemRegisterWrites : Prop :=
  ∀ (s : State) (g : Guard) (a : Reg), s.Ready g [a] [] →
    let c := s.me
    let v := c.regs.rs a
    let n := v.toNat % 32
    let lo := s.windowPa s.cur (min n c.spbanks * 0x1_0000)
    let hi := s.windowPa s.cur (max n c.spbanks * 0x1_0000)
    let swr := fun (i : Nat) => exec (.swr g a (BitVec.ofNat 12 i)) s
    swr 0x040 = .next (s.setMe { c with mthr := BitVec.ofNat 64 (v.toNat % 2 ^ 48) }.advance) ∧
    (∀ k, k < 14 → s.namesBank s.cur k = false →
      (k < c.spbanks → swr (0x020 + k) =
        .next (s.setMe { c with bfmt := put c.bfmt 0 k (v.setWidth 16 &&& 0xFF0F) }.advance)) ∧
      (c.spbanks ≤ k → swr (0x020 + k) = .next (s.setMe c.advance))) ∧
    ((n < 4 ∨ 14 < n) → swr 0x010 = .next (s.trap { status := 0x14 })) ∧
    (4 ≤ n → n ≤ 14 → n = c.spbanks → swr 0x010 = .next (s.setMe c.advance)) ∧
    (4 ≤ n → n ≤ 14 → n ≠ c.spbanks → Quiet s → s.namedL s.cur = false →
      ∃ t, swr 0x010 = .next t ∧
        t.me = { c with spbanks := n, dcache := [], bfmt := t.me.bfmt }.advance ∧
        (∀ p, t.byte p = if lo ≤ p ∧ p < hi then 0 else s.byte p) ∧
        t = { s with mem := t.mem, ue := t.ue, fe := t.fe, cores := t.cores }) ∧
    (c.mode = .handler →
      swr 0x050 = .next (s.setMe { c with rasbase := v }.advance) ∧
      swr 0x200 = .next (s.setMe c.advance) ∧ swr 0x202 = .next (s.setMe c.advance) ∧
      swr 0x201 = .next (s.setMe { c with trapPc := v }.advance) ∧
      swr 0x210 = .next (s.setMe { c with ptroot0 := BitVec.ofNat 64 (v.toNat / 2 ^ 12 % 2 ^ 32 * 2 ^ 12) }.advance) ∧
      swr 0x211 = .next (s.setMe { c with ptroot1 := BitVec.ofNat 64 (v.toNat / 2 ^ 12 % 2 ^ 32 * 2 ^ 12) }.advance) ∧
      (v.getLsbD 2 = true → Quiet s → s.tlbBusy s.cur (v.toNat % 4) = false →
        ∃ t, swr 0x212 = .next t ∧ (∀ k x, (k, x) ∈ t.cores → inTlbScope s.cur (v.toNat % 4) k = true → x.tlb = []) ∧
          t.mem = s.mem ∧ t.me.pc = c.nextPc)) ∧
    (∀ idx : BitVec 12, idx.toNat ∉ [0x010, 0x040] → (idx.toNat < 0x020 ∨ 0x02D < idx.toNat) →
      (c.mode = .task ∨ idx.toNat ∉ [0x050, 0x200, 0x201, 0x202, 0x210, 0x211, 0x212]) →
      exec (.swr g a idx) s = .next (s.trap { status := 0x13 }))

/-- SRD and SWR of every system register. -/
def Obligations.SystemRegisterResults : Prop :=
  SystemRegisterReads ∧ SystemRegisterWrites


/-! Memory -/

/-- The current core goes on past its instruction. -/
def onwards (s : State) : State := s.setMe s.me.advance

/-- The current core with a scalar register written. -/
def withReg (s : State) (d : Reg) (x : Word) : State := s.setMe { s.me with regs := s.me.regs.ws d x }

/-- After the acquire that a bit asks for. -/
def acquiredIf (s : State) (acq : Bool) (scope : Nat) : State := if acq then s.acquire s.cur scope else s

/-- After the acquire of an order (R207, R208). -/
def acquired (s : State) (o : Ord) (sc : Scope) : State :=
  if o = .acq ∨ o = .ar then s.acquire s.cur (scopeNum sc) else s

/-- The checks of R41, R144 and R317 that `n` bytes at an address of the own scratchpad pass. -/
structure LocalOk (s : State) (ea : Word) (n : Nat) : Prop where
  space : ea.toNat < 2 ^ 20
  bank : ea.toNat + n ≤ s.me.spbanks * 0x1_0000
  aligned : ea.toNat % n = 0
  declared : s.me.mode = .task → ∀ x, s.me.task = some x → ea.toNat + n ≤ x.hdr.scratch
  sound : s.bad (s.windowPa s.cur ea.toNat) n = false

/-- The physical address of a byte of the own scratchpad (R44). -/
def localPa (s : State) (ea : Word) : Nat := s.windowPa s.cur ea.toNat

/-- The places that addresses of the four spaces name, and what an address outside its space raises (R40 to R43, R144,
R317); an access whose page walk is not done is taken up again, and is due (R472).  That a handler and a core without a task
are checked against the scratchpad's size alone is the model's choice (log 19), and so is that an X access of a core without
a node is served (log 20). -/
def PlacesOfSpaces : Prop :=
  ∀ (s : State) (need : Need) (posted : Bool) (ea : Word) (n : Nat), 0 < n → ea.toNat % n = 0 →
    let a := ea.toNat
    let bad := fun (st x : Nat) => Except.error (Exit.fault { status := st, info := BitVec.ofNat 64 x } .none s)
    (LocalOk s ea n → checkAccess .l need posted ea n s = .ok (.own a, s)) ∧
    (s.me.mode = .handler ∨ s.me.task = none →
      (2 ^ 20 ≤ a → checkAccess .l need posted ea n s = bad 0x22 a) ∧
      (a < 2 ^ 20 → s.me.spbanks * 0x1_0000 < a + n →
        checkAccess .l need posted ea n s = bad 0x22 (max a (s.me.spbanks * 0x1_0000)))) ∧
    (∀ x, s.me.mode = .task → s.me.task = some x → x.hdr.scratch < a + n →
      checkAccess .l need posted ea n s = bad 0x21 (max a x.hdr.scratch)) ∧
    ((2 ^ 26 ≤ a ∨ 48 ≤ a / 2 ^ 20) → checkAccess .x need posted ea n s = bad 0x23 a) ∧
    (a < 2 ^ 26 → a / 2 ^ 20 < 48 →
      let k := sibling s.cur (a / 2 ^ 20)
      (posted = true → checkAccess .x need posted ea n s = .ok (.peer k (a % 2 ^ 20), s)) ∧
      (posted = false → s.me.node = none ∨ (s.core k).node = s.me.node →
        (a % 2 ^ 20 + n ≤ (s.core k).spbanks * 0x1_0000 →
          checkAccess .x need posted ea n s = .ok (.peer k (a % 2 ^ 20), s)))) ∧
    ((2 ^ 31 < a + n) → checkAccess .v need posted ea n s = bad 0x24 (max a (2 ^ 31))) ∧
    (a + n ≤ 2 ^ 31 → checkAccess .v need posted ea n s =
      .ok (.mem (s.idOf s.cur * 2 ^ 44 + 0x100_0000_0000 + coreDie s.cur % 4 * 2 ^ 31 + a) false, s)) ∧
    (canonical a = false → checkAccess .g need posted ea n s = bad 0x25 a) ∧
    (∀ u pa l, s.translate (s.who s.cur) need a = (u, .at_ pa l) →
      checkAccess .g need posted ea n s =
        .ok (if l.f then .foreign (pa / 2 ^ 48) (pa % 2 ^ 48) l.hs else .mem pa l.pr, u)) ∧
    (∀ u st note, s.translate (s.who s.cur) need a = (u, .bad st note) → checkAccess .g need posted ea n s =
      .error (.fault { status := st, info := addrInfo st a } note u)) ∧
    (∀ u, s.translate (s.who s.cur) need a = (u, .walks) → checkAccess .g need posted ea n s =
      .error (.retry (u.setMe { u.me with due := .access })))

/-- The home of `n` bytes whose checks pass and that the home accepts: their physical address, on a page without parity; the
state is `u` after the translation. -/
structure HomeOk (s u : State) (sp : Space) (need : Need) (ea : Word) (n pa : Nat) : Prop where
  place : ∃ p, checkAccess sp need false ea n s = .ok (p, u) ∧ atHome p .atomic n ea u = .ok ((pa, false), u)
  plain : pa % 2 ^ 44 < 0x300_0000_0000

/-- Every scalar load, store, full-empty access and atomic at an address that its size does not divide raises status 0x29
with the address as information, whatever its space, once the declaration check has passed (R41, R317, R319). -/
def MisalignedAccessTraps : Prop :=
  ∀ (s : State) (g : Guard) (o : MemOp) (k : AtomOp) (op : AmoOp),
    (s.Ready g [o.base, o.d] [] → s.me.wait = .none →
      let ea := memEa o s.me.regs
      (o.space = .l → s.me.mode = .task → ∀ x, s.me.task = some x → ea.toNat + 8 ≤ x.hdr.scratch) →
      let bad := Host.Outcome.next (s.trap { status := 0x29, info := ea })
      (ea.toNat % o.ty.size ≠ 0 →
        ∀ i ∈ [Instr.ld g o, .ldNc g o, .ldRo g o, .st g o], exec i s = bad) ∧
      (ea.toNat % 8 ≠ 0 →
        ∀ i ∈ [Instr.ldfeFf g o, .ldfeFe g o, .stfeEf g o, .stfeSf g o, .stfeSe g o], exec i s = bad)) ∧
    (s.Ready g [k.d, k.a, k.b, k.c] [] → s.Ready g [k.d, k.a, k.b] [] → s.me.wait = .none →
      let ea := atomEa k s.me.regs
      (k.space = .l → s.me.mode = .task → ∀ x, s.me.task = some x → ea.toNat + k.ty.size ≤ x.hdr.scratch) →
      ea.toNat % k.ty.size ≠ 0 →
      ∀ i ∈ [Instr.amo g op k, .cas g k, .amaxrs g k],
        exec i s = .next (s.trap { status := 0x29, info := ea }))

/-- Where the spaces stand in physical memory, and the trap of a misaligned access. -/
def Obligations.AddressRules : Prop :=
  PlacesOfSpaces ∧ MisalignedAccessTraps


/-- LD, LD.nc and LD.ro of a scratchpad, the core's own or a peer's, write the little-endian value of the bytes there,
extended by their type (R318, R319, R4, R42), whatever the order: nothing of the core's is on its way. -/
def ScratchpadLoads : Prop :=
  ∀ (s : State) (g : Guard) (o : MemOp), s.Ready g [o.base, o.d] [] → Quiet s →
    let ea := memEa o s.me.regs
    let reads := fun (pa : Nat) => ∀ i ∈ [Instr.ld g o, .ldNc g o, .ldRo g o],
      exec i s = .next (onwards (acquired (withReg s o.d (extend (s.num pa o.ty.size) o.ty)) o.order o.scope))
    (o.space = .l → LocalOk s ea o.ty.size → reads (localPa s ea)) ∧
    (∀ k off, checkAccess o.space .r false ea o.ty.size s = .ok (.peer k off, s) →
      s.bad (s.windowPa k off) o.ty.size = false → reads (s.windowPa k off))

/-- A load or RLD of memory or of a storage window, whose checks pass and whose line no cache and no store of the core
holds, writes the value that the home holds, and changes no byte of memory (R49, R203, R318, R319, R321, R470).  A load that
would fill a line with an uncorrectable error in it takes exception 0x26 (R10); that such a load is answered for its whole
line, and a load that fills none for its own bytes, is the model's reading of the extent of an error (log 67). -/
def HomeLoads : Prop :=
  ∀ (s u : State) (g : Guard) (o : MemOp) (h : HomeOp) (bs : List Byte),
    (s.Ready g [o.base, o.d] [] → Quiet s →
      let ea := memEa o s.me.regs
      let done := fun (i : Instr) => ∃ t, exec i s = .next t ∧ t.mem = s.mem ∧ t.me.pc = s.me.nextPc ∧
        t.me.regs = s.me.regs.ws o.d (extend (ofBytes bs) o.ty)
      (∀ pa prot, checkAccess o.space .r false ea o.ty.size s = .ok (.mem pa prot, u) →
        u.homeRead (u.who u.cur) .load pa o.ty.size = .ok bs → pa % 64 + o.ty.size ≤ 64 →
        let whole := u.bad (pa / 64 * 64) 64 = false
        let traps := fun (i : Instr) => s.me.mode = .task → ∃ t, exec i s = .next t ∧ t.me.mode = .handler ∧
          t.me.trapCause.toNat % 256 = 0x26 ∧ t.me.trapInfo = ea ∧ t.mem = s.mem ∧ t.me.regs = s.me.regs
        (u.cacheHit u.cur (pa / 64) false = none → (whole → done (.ld g o)) ∧ (¬ whole → traps (.ld g o))) ∧
        done (.ldNc g o) ∧
        (u.cacheHit u.cur (pa / 64) true = none → (whole → done (.ldRo g o)) ∧ (¬ whole → traps (.ldRo g o)))) ∧
      (∀ win off hs, checkAccess o.space .r false ea o.ty.size s = .ok (.foreign win off hs, u) →
        bs = u.winBytes (corePkg u.cur) win off o.ty.size →
        ∀ i ∈ [Instr.ld g o, .ldNc g o, .ldRo g o], done i)) ∧
    (s.Ready g (regsHome h).1 (regsHome h).2 → Quiet s →
      ∀ pa prot, checkAccess .g .r false (homeEa h s.me.regs) (sizeHome h) s = .ok (.mem pa prot, u) →
        u.homeRead (u.who u.cur) .load pa (sizeHome h) = .ok bs →
        ∃ t, exec (.rld g h) s = .next t ∧ t.mem = s.mem ∧ t.me.pc = s.me.nextPc ∧
          t.me.regs = if h.z = 0 then s.me.regs.ws h.d (BitVec.ofNat 64 (ofBytes bs))
            else s.me.regs.wv h.d.toNat (ofVbytes bs))

/-- Loads from the scratchpad and from the homes. -/
def Obligations.LoadResults : Prop :=
  ScratchpadLoads ∧ HomeLoads


/-- A store to the own scratchpad writes the low bytes of its register there and no other byte of memory; no register
changes (R318, R319, R4). -/
def ScratchpadStores : Prop :=
  ∀ (s : State) (g : Guard) (o : MemOp), s.Ready g [o.base, o.d] [] → o.space = .l → Quiet s → s.me.wait = .none →
    let ea := memEa o s.me.regs
    LocalOk s ea o.ty.size →
    ∃ t, exec (.st g o) s = .next t ∧ t.me.regs = s.me.regs ∧ t.me.pc = s.me.nextPc ∧
      (∀ i, i < o.ty.size →
        t.byte (localPa s ea + i) = (toBytes o.ty.size (s.me.regs.rs o.d).toNat).getD i 0) ∧
      (∀ p, (p < localPa s ea ∨ localPa s ea + o.ty.size ≤ p) → t.byte p = s.byte p) ∧
      (∀ k, k ∉ s.pool s.cur → (∀ l, (l, k) ∉ s.watch) → t.core k = s.core k)

/-- A store to memory enters the coalescing buffer: no byte of memory changes and no register; the new entry holds the
store's bytes at the line and offsets of its physical address (R50, R318, R319).  With an acquire it is performed at its home
before the instruction ends: those bytes of memory change and no others (R319).  An RST becomes one posted store of the
journal (R243, R321), a store to a peer or to a storage window one too (R42, R244, R470). -/
def BufferedStores : Prop :=
  ∀ (s u : State) (g : Guard) (o : MemOp) (h : HomeOp) (pa : Nat) (prot : Bool),
    (s.Ready g [o.base, o.d] [] → s.me.wait = .none →
      checkAccess o.space .w true (memEa o s.me.regs) o.ty.size s = .ok (.mem pa prot, u) → pa % 64 + o.ty.size ≤ 64 →
      let data := toBytes o.ty.size (s.me.regs.rs o.d).toNat
      ((o.order = .none ∨ (o.order = .rel ∧ Quiet s)) → (∀ x ∈ u.me.sbuf, x.line ≠ pa / 64) → u.me.sbuf.length < 32 →
        ∃ t, exec (.st g o) s = .next t ∧ t.mem = s.mem ∧ t.me.regs = s.me.regs ∧ t.me.pc = s.me.nextPc ∧
          ∃ b, t.me.sbuf = u.me.sbuf ++ [b] ∧ b.line = pa / 64 ∧ b.prot = prot ∧
            ∀ j, find? b.data j =
              if pa % 64 ≤ j ∧ j < pa % 64 + o.ty.size then some (data.getD (j - pa % 64) 0) else none) ∧
      ((o.order = .acq ∨ o.order = .ar) → Quiet s → prot = false → pa / 2 ^ 44 = u.idOf u.cur →
        (u.answer (u.who u.cur) .store pa 1).1 = 0 → pa % 2 ^ 44 < 0x300_0000_0000 →
        ∃ t, exec (.st g o) s = .next t ∧ t.me.regs = s.me.regs ∧ t.me.pc = s.me.nextPc ∧ t.me.sbuf = [] ∧
          (∀ i, i < o.ty.size → t.byte (pa + i) = data.getD i 0) ∧
          (∀ p, (p < pa ∨ pa + o.ty.size ≤ p) → t.byte p = s.byte p))) ∧
    (s.Ready g (regsHome h).1 (regsHome h).2 → s.me.wait = .none → (h.order = .none ∨ h.order = .rel) → Quiet s →
      checkAccess .g .w true (homeEa h s.me.regs) (sizeHome h) s = .ok (.mem pa prot, u) →
      let data := if h.z = 0 then toBytes 8 (s.me.regs.rs h.d).toNat else vbytes (s.me.regs.rv h.d.toNat) (sizeHome h)
      ∃ t, exec (.rst g h) s = .next t ∧ t.mem = s.mem ∧ t.me.regs = s.me.regs ∧ t.me.pc = s.me.nextPc ∧
        t.me.journal = [⟨0, s.me.posts, .rst pa data prot, .pending, s.me.node, [], [], []⟩]) ∧
    (s.Ready g [o.base, o.d] [] → s.me.wait = .none → (o.order = .none ∨ o.order = .rel) → Quiet s →
      let data := toBytes o.ty.size (s.me.regs.rs o.d).toNat
      let posts := fun (p : Posted) => ∃ t, exec (.st g o) s = .next t ∧ t.mem = s.mem ∧ t.winMem = s.winMem ∧
        t.me.regs = s.me.regs ∧ t.me.pc = s.me.nextPc ∧ t.me.journal = [⟨0, s.me.posts, p, .pending, s.me.node, [], [], []⟩]
      (∀ k off, checkAccess o.space .w true (memEa o s.me.regs) o.ty.size s = .ok (.peer k off, u) →
        posts (.xstore (corePkg k) [⟨coreNo k, off, data⟩])) ∧
      (∀ w off hs, checkAccess o.space .w true (memEa o s.me.regs) o.ty.size s = .ok (.foreign w off hs, u) →
        posts (.foreign [⟨w, off, data⟩])))

/-- Stores to the scratchpad and into the coalescing buffer. -/
def Obligations.StoreResults : Prop :=
  ScratchpadStores ∧ BufferedStores


/-- Whether a full-empty form is admitted by the word's bit, whether it reads or writes the word, and the bit it leaves
(R192). -/
def feRow : FeForm → Bool → Bool × Bool × Bool
  | .ff, full => (full, false, true)
  | .fe, full => (full, false, false)
  | .ef, full => (!full, true, true)
  | .sf, _ => (true, true, true)
  | .se, _ => (true, true, false)

/-- What a full-empty form needs of the page (R322). -/
def feNeed : FeForm → Need
  | .ff => .r
  | .fe => .rw
  | _ => .w

/-- LDFE and STFE at a word's home: an admitted form reads the word into its register or writes it, and sets or clears its
full-empty bit, which no other word shares; a form that is not admitted waits in the home's list with no effect (R192,
R193, R322). -/
def Obligations.FullEmptyResults : Prop :=
  ∀ (s u : State) (g : Guard) (o : MemOp) (pa : Nat), s.Ready g [o.base, o.d] [] → Quiet s → s.me.wait = .none →
    (∀ r ∈ s.feWait, r.word ≠ pa) →
    (s.feWait.filter fun q => !q.nack && homeOf q.word == homeOf pa).length <
      (if (homeOf pa).2 < 256 then 256 else 64) →
    ∀ f ∈ [(FeForm.ff, Instr.ldfeFf g o), (.fe, .ldfeFe g o), (.ef, .stfeEf g o), (.sf, .stfeSf g o),
        (.se, .stfeSe g o)],
      HomeOk s u o.space (feNeed f.1) (memEa o s.me.regs) 8 pa →
      (∃ bs, u.homeRead (u.who u.cur) .atomic pa 8 = .ok bs) →
      let row := feRow f.1 (has s.fe (pa / 8))
      (row.1 = true → ∃ t, exec f.2 s = .next t ∧ t.me.pc = s.me.nextPc ∧
        t.me.regs = (if row.2.1 then s.me.regs else s.me.regs.ws o.d (BitVec.ofNat 64 (s.num pa 8))) ∧
        (∀ i, i < 8 → t.byte (pa + i) =
          if row.2.1 then (toBytes 8 (s.me.regs.rs o.d).toNat).getD i 0 else s.byte (pa + i)) ∧
        (∀ p, (p < pa ∨ pa + 8 ≤ p) → t.byte p = s.byte p) ∧
        (∀ w, has t.fe w = if w = pa / 8 then row.2.2 else has s.fe w)) ∧
      (row.1 = false → ∃ t, exec f.2 s = .next t ∧ t.mem = s.mem ∧ t.fe = s.fe ∧ t.me.regs = s.me.regs ∧
        t.me.pc = s.me.pc ∧ ∃ nd, t.feWait = s.feWait ++ [⟨s.cur, pa, f.1, s.me.regs.rs o.d, false, false, nd⟩] ∧
          (nd = none ∨ nd = s.me.node) ∧ (o.space ≠ .x → nd = none))

/-- What an atomic leaves in the word (R198): the operations of AMO on unsigned or signed words and on floating ones, the
comparand of CAS, AMAXRS's value. -/
def Obligations.AtomicResults : Prop :=
  ∀ (s u : State) (g : Guard) (op : AmoOp) (o : AtomOp) (pa : Nat), s.Ready g [o.d, o.a, o.b, o.c] [] →
    s.Ready g [o.d, o.a, o.b] [] → Quiet s → s.me.wait = .none →
    let n := o.ty.size
    let old := s.num pa n
    let v := (s.me.regs.rs o.b).toNat % 2 ^ o.ty.width
    let w := (s.me.regs.rs o.c).toNat % 2 ^ o.ty.width
    HomeOk s u o.space .rw (atomEa o s.me.regs) n pa →
    let leaves := fun (i : Instr) (x : Nat) => ∃ t, exec i s = .next t ∧ t.me.pc = s.me.nextPc ∧
      t.me.regs = s.me.regs.ws o.d (extend old o.ty) ∧
      t.num pa n = x ∧ (∀ p, (p < pa ∨ pa + n ≤ p) → t.byte p = s.byte p) ∧ t.fe = s.fe
    (op = .add → leaves (.amo g op o) ((old + v) % 2 ^ o.ty.width)) ∧
    (op = .and → leaves (.amo g op o) (old &&& v)) ∧
    (op = .or → leaves (.amo g op o) (old ||| v)) ∧
    (op = .xor → leaves (.amo g op o) (old ^^^ v)) ∧
    (op = .swap → leaves (.amo g op o) v) ∧
    (op = .min → leaves (.amo g op o) (if intVal o.ty v < intVal o.ty old then v else old)) ∧
    (op = .max → leaves (.amo g op o) (if intVal o.ty old < intVal o.ty v then v else old)) ∧
    (op = .fadd → leaves (.amo g op o)
      ((fconv o.ty .near ((val o.ty old).add .near (val o.ty v))).bits % 2 ^ o.ty.width)) ∧
    (op = .fmax → leaves (.amo g op o) (fminmax o.ty true old v % 2 ^ o.ty.width)) ∧
    leaves (.cas g o) (if old = v then w else old) ∧
    leaves (.amaxrs g o) v

/-- WAITA (R195, R328): a word that differs from the register sets the predicate and execution goes on; otherwise the core
parks on the word's line, or with 16 cores parked there goes on with the predicate clear; woken, it goes on with the
predicate set.  Memory is unchanged. -/
def WaitaResults : Prop :=
  ∀ (s u : State) (g : Guard) (o : WaitaOp) (pa : Nat), s.Ready g [o.a, o.b] [] → Quiet s →
    let n := o.ty.size
    let parked := (s.watch.filter (·.1 = pa / 64)).length
    let same := s.num pa n = (s.me.regs.rs o.b).toNat % 2 ^ (8 * n)
    let done := fun (u : State) (x : Bool) =>
      let v := u.setMe { u.me with regs := u.me.regs.wp o.p.toNat x }
      Host.Outcome.next (onwards (acquiredIf v o.acq 2))
    (HomeOk s u o.space .r (waitaEa o s.me.regs) n pa → s.me.wait = .none →
      (¬ same → exec (.waita g o) s = done u true) ∧
      (same → parked = 16 → exec (.waita g o) s = done u false) ∧
      (same → parked ≠ 16 → ∃ t, exec (.waita g o) s = .next t ∧ t.watch = s.watch ++ [(pa / 64, s.cur)] ∧
        t.mem = s.mem ∧ t.me = { u.me with wait := .watch false })) ∧
    (s.me.wait = .watch true → exec (.waita g o) s = done s true)

/-- A write to a line wakes the cores parked on it and empties its watch list (R196); a store that lands on another line
leaves them parked. -/
def WritesWakeTheParked : Prop :=
  ∀ (s : State) (line : Nat) (data : List (Nat × Byte)),
    let t := s.land line data
    t.watch = s.watch.filter (·.1 ≠ line) ∧
    (∀ k, (line, k) ∈ s.watch → (t.core k).wait = .watch true) ∧
    (∀ k, (line, k) ∉ s.watch → t.core k = s.core k)

/-- WAITA parks a core, and writes wake the parked. -/
def Obligations.WaitResults : Prop :=
  WaitaResults ∧ WritesWakeTheParked


/-- Fences (R207, R329, R330): a core whose stores are all performed passes a release at once, and SFENCE too when no
protected write of its is unacknowledged, its group is whole and no delta of its writes was dropped (R254, R257); a
release at core scope ends when the buffered lines are on their way, at each turn as many as the journal has room for (R50,
R244); an acquire at cluster scope or wider leaves no
ordinary line of the core in its cache and keeps the read-only ones (R51); at scope 0 nothing changes. -/
def FenceResults : Prop :=
  ∀ (s : State) (g : Guard) (sc : Scope), s.Ready g [] [] →
    let sound := sc ≠ .surv ∨ (s.degraded s.cur = false ∧ s.me.dropped = [] ∧ s.me.prot = 0)
    exec (.fenceAcq g sc) s = .next (onwards (s.acquire s.cur (scopeNum sc))) ∧
    (Quiet s → sound → exec (.fenceRel g sc) s = .next (onwards s) ∧
      exec (.fenceAr g sc) s = .next (onwards (s.acquire s.cur (scopeNum sc)))) ∧
    (∀ sent, sent = s.leaveMany s.cur s.me.sbuf.length →
      exec (.fenceRel g .core) s = .next (if sent.me.sbuf = [] then onwards sent else sent)) ∧
    (Quiet s → s.degraded s.cur = false → s.me.dropped = [] → s.me.prot = 0 → exec (.sfence g) s = .next (onwards s)) ∧
    (Quiet s → (s.degraded s.cur = true ∨ s.me.dropped ≠ []) → exec (.sfence g) s = .next (s.trap { status := 0x52 })) ∧
    s.acquire s.cur 0 = s ∧
    (∀ n, n ≠ 0 → ∀ x, x ∈ (s.acquire s.cur n).me.dcache ↔
      x ∈ s.me.dcache ∧ (x.owner = coreIndex s.cur → x.ro = true)) ∧
    (∀ n, (s.acquire s.cur n).mem = s.mem ∧ (s.acquire s.cur n).me.regs = s.me.regs)

/-- PREF, CINV and CINV.ro change no register, no byte of memory and no full-empty bit, and do nothing in L and X (R323,
R324); CINV of the whole of G or V leaves no ordinary line of the core's own in its cache, CINV.ro no read-only one, and
each keeps the lines of the other kind.  Of a range each discards the lines of its kind that hold a byte of the range, and no
other of the core's own: in V the bytes of the vault that the range covers, in G those of the pages that are translated. -/
def PrefetchAndInvalidate : Prop :=
  ∀ (s : State) (g : Guard) (offset : BitVec 24) (space : Space) (base d : Reg),
    (s.Ready g [base] [] → Quiet s →
      (space = .g → (s.translate (s.who s.cur) .r (s.me.regs.rs base + signExt offset).toNat).2 ≠ .walks) →
      ∃ t, exec (.pref g offset space base) s = .next t ∧ t.me.pc = s.me.nextPc ∧
        t.me.regs = s.me.regs ∧ t.mem = s.mem ∧ t.fe = s.fe ∧
        ((space = .l ∨ space = .x) → t = onwards s)) ∧
    (s.Ready g [base, d] [] → (space = .l ∨ space = .x) →
      exec (.cinv g offset space base d) s = .next (onwards s) ∧
      exec (.cinvRo g offset space base d) s = .next (onwards s)) ∧
    (s.Ready g [base, d] [] → (space = .g ∨ space = .v) → s.me.regs.rs d = 0 → (∀ x ∈ s.me.dcache, 64 * x.line < 2 ^ 56) →
      (∃ t, exec (.cinv g offset space base d) s = .next t ∧ t.mem = s.mem ∧ t.fe = s.fe ∧ t.me.regs = s.me.regs ∧
        t.me.pc = s.me.nextPc ∧
        ∀ x, x ∈ t.me.dcache ↔ x ∈ s.me.dcache ∧ (x.owner = coreIndex s.cur → x.ro = true)) ∧
      (∃ t, exec (.cinvRo g offset space base d) s = .next t ∧ t.mem = s.mem ∧ t.fe = s.fe ∧ t.me.regs = s.me.regs ∧
        t.me.pc = s.me.nextPc ∧
        ∀ x, x ∈ t.me.dcache ↔ x ∈ s.me.dcache ∧ (x.owner = coreIndex s.cur → x.ro = false))) ∧
    (s.Ready g [base, d] [] → s.me.regs.rs d ≠ 0 →
      let ea := s.me.regs.rs base + signExt offset
      let lo := ea.toNat
      let len := s.me.regs.rs d
      let unit := lo / 4096 * 4096
      let vault := s.idOf s.cur * 2 ^ 44 + 0x100_0000_0000 + coreDie s.cur % 4 * 2 ^ 31
      (∀ area u, cinvArea space ea len s = .ok (area, u) → ∀ i ∈ [(Instr.cinv g offset space base d, false),
          (.cinvRo g offset space base d, true)],
        ∃ t, exec i.1 s = .next t ∧ t.mem = s.mem ∧ t.fe = s.fe ∧ t.me.regs = s.me.regs ∧ t.me.pc = s.me.nextPc ∧
          ∀ x, x ∈ t.me.dcache ↔ x ∈ s.me.dcache ∧ ¬ (x.owner = coreIndex s.cur ∧ x.ro = i.2 ∧
            ∃ r ∈ area, r.1 < r.2 ∧ r.1 < 64 * x.line + 64 ∧ 64 * x.line < r.2)) ∧
      (space = .v → cinvArea space ea len s =
        .ok (if lo < 2 ^ 31 then [(vault + lo, vault + min (2 ^ 31) (lo + len.toNat))] else [], s)) ∧
      (space = .g → (lo + len.toNat - 1) / 4096 = lo / 4096 → canonical unit = true →
        (∀ u l, s.pageOf (s.who s.cur) (unit % 2 ^ 57) = (u, .page l) →
          let pa := l.pa + (unit % 2 ^ 57 - l.base) + lo % 4096
          cinvArea space ea len s = .ok (if l.f then [] else [(pa, pa + len.toNat)], u)) ∧
        (∀ u st, s.pageOf (s.who s.cur) (unit % 2 ^ 57) = (u, .bad st .none) → cinvArea space ea len s = .ok ([], u))))

/-- Fences, and the instructions that prefetch and invalidate lines. -/
def Obligations.OrderingResults : Prop :=
  FenceResults ∧ PrefetchAndInvalidate


/-! Synchronisation and messages -/

/-- The checks of R183 and R144 that a local event-unit address of a kind passes (R332). -/
structure EventOk (s : State) (a : Word) (kind : Nat) : Prop where
  zero : a.toNat / 2 ^ 24 = 0 ∧ a.toNat / 2 ^ 9 % 128 = 0
  ofKind : a.toNat / 2 ^ 22 % 4 = kind
  range : a.toNat % 512 < (if kind = 0 then 512 else if kind = 1 then 64 else 256)
  here : a.getLsbD 21 = false
  declared : kind = 0 → s.me.mode = .task → ∀ x, s.me.task = some x → a.toNat % 512 < x.hdr.bars

/-- An arrival at a barrier entry as R184 counts it. -/
def arrivedAt (e : BarEntry) (cnt : Nat) : BarEntry :=
  let exp := if e.arr = 0 then cnt else e.exp
  if e.arr + 1 = exp then ⟨0, exp, e.gen + 1⟩ else ⟨e.arr + 1, exp, e.gen⟩

/-- BARA counts its arrival in the entry and keeps GEN in Join; a count that differs from EXP of a barrier under way raises
status 0x4A, a count of 0 or of 2^16 and more 0x1D.  BARW waits while GEN equals Join; BAR does both, and passes at once
with the arrival that completes the count (R184, R185, R331, R332). -/
def Obligations.BarrierResults : Prop :=
  ∀ (s : State) (g : Guard) (rel acq : Bool) (a b : Reg), s.Ready g [a, b] [] → s.Ready g [a] [] → Quiet s →
    let x := s.me.regs.rs a
    let cnt := (s.me.regs.rs b).toNat
    let i := s.me.barbase + x.toNat % 512
    let u := unitOf s.cur
    let e := (s.cluster u).entry i
    let matching := e.arr = 0 ∨ cnt = e.exp
    EventOk s x 0 →
    ((cnt = 0 ∨ 65536 ≤ cnt) → exec (.bara g rel a b) s = .next (s.trap { status := 0x1D })) ∧
    (cnt ≠ 0 → cnt < 65536 → ¬ matching → exec (.bara g rel a b) s = .next (s.trap { status := 0x4A })) ∧
    (cnt ≠ 0 → cnt < 65536 → matching → ∃ t, exec (.bara g rel a b) s = .next t ∧ t.me.pc = s.me.nextPc ∧
      (t.cluster u).entry i = arrivedAt e cnt ∧ (∀ j, j ≠ i → (t.cluster u).entry j = (s.cluster u).entry j) ∧
      find? t.me.join (x.toNat % 512) = some e.gen ∧ t.me.regs = s.me.regs ∧ t.mem = s.mem) ∧
    (find? s.me.join (x.toNat % 512) = some e.gen → exec (.barw g acq a) s = .next s) ∧
    (∀ j, find? s.me.join (x.toNat % 512) = some j → j ≠ e.gen → exec (.barw g acq a) s =
      .next (onwards (acquiredIf (s.setMe { s.me with join := erase s.me.join (x.toNat % 512) }) acq 3))) ∧
    (find? s.me.join (x.toNat % 512) = none → exec (.barw g acq a) s = .next (onwards (acquiredIf s acq 3))) ∧
    (cnt ≠ 0 → cnt < 65536 → matching → s.me.wait = .none →
      ∃ t, exec (.bar g rel acq a b) s = .next t ∧ (t.cluster u).entry i = arrivedAt e cnt ∧ t.mem = s.mem ∧
        t.me.regs = s.me.regs ∧
        ((arrivedAt e cnt).arr = 0 → t.me.pc = s.me.nextPc) ∧
        ((arrivedAt e cnt).arr ≠ 0 → t.me.pc = s.me.pc ∧ t.me.wait = .arrived))

/-- EVWAIT takes a pending event and answers the count before, or waits in the line's list; on a barrier it answers GEN, on
a mutex it waits until it is free.  EVSIG adds an event, at most 255, and the EVWAIT that came first takes it (R189,
R331). -/
def EventResults : Prop :=
  ∀ (s : State) (g : Guard) (rel acq : Bool) (d a : Reg), s.Ready g [d, a] [] → s.Ready g [a] [] → Quiet s →
    s.me.wait = .none →
    let x := s.me.regs.rs a
    let i := x.toNat % 512
    let u := unitOf s.cur
    let cl := s.cluster u
    let n := look cl.events 0 i
    (EventOk s x 2 →
      (0 < n → ∃ t, exec (.evwait g acq d a) s = .next t ∧ t.me.pc = s.me.nextPc ∧
        t.me.regs = s.me.regs.ws d (BitVec.ofNat 64 n) ∧ look (t.cluster u).events 0 i = n - 1 ∧
        (∀ j, j ≠ i → look (t.cluster u).events 0 j = look cl.events 0 j) ∧ t.mem = s.mem) ∧
      (n = 0 → ∃ t, exec (.evwait g acq d a) s = .next t ∧ t.me = { s.me with wait := .event none } ∧
        (t.cluster u).eventWait = cl.eventWait ++ [(i, s.cur)] ∧ t.mem = s.mem) ∧
      ((∀ w ∈ cl.eventWait, w.1 ≠ i) → exec (.evsig g rel a) s =
        .next (onwards (s.setCluster u { cl with events := put cl.events 0 i (min 255 (n + 1)) }))) ∧
      (∀ k r, cl.eventWait = (i, k) :: r → k ≠ s.cur → ∃ t, exec (.evsig g rel a) s = .next t ∧ t.me.pc = s.me.nextPc ∧
        (t.core k).wait = .event (some (min 255 (n + 1))) ∧ look (t.cluster u).events 0 i = min 255 (n + 1) - 1 ∧
        (t.cluster u).eventWait = r ∧ t.mem = s.mem)) ∧
    (EventOk s x 1 →
      (find? cl.mutexes i = none → exec (.evwait g acq d a) s =
        .next (onwards (acquiredIf (withReg s d 0) acq 3))) ∧
      (find? cl.mutexes i ≠ none → exec (.evwait g acq d a) s = .next s)) ∧
    (EventOk s x 0 → find? s.me.join i = none → exec (.evwait g acq d a) s =
      .next (onwards (withReg (acquiredIf s acq 3) d (((cl.entry (s.me.barbase + i)).gen).setWidth 64))))

/-- MTXL takes a free mutex for the task's context, waits behind another holder, and raises status 0x4C for its own; MTXU
frees it or hands it to the MTXL that came first, and raises status 0x4B for a mutex the task does not hold (R188,
R331). -/
def MutexResults : Prop :=
  ∀ (s : State) (g : Guard) (a : Reg), s.Ready g [a] [] → Quiet s → s.me.wait = .none →
    let x := s.me.regs.rs a
    let i := x.toNat % 512
    let u := unitOf s.cur
    let cl := s.cluster u
    EventOk s x 1 →
    (find? cl.mutexes i = none → exec (.mtxl g a) s =
      .next (onwards ((s.setCluster u { cl with mutexes := insert cl.mutexes i s.me.ctx }).acquire s.cur 1))) ∧
    (find? cl.mutexes i = some s.me.ctx → exec (.mtxl g a) s = .next (s.trap { status := 0x4C })) ∧
    (∀ h, find? cl.mutexes i = some h → h ≠ s.me.ctx → ∃ t, exec (.mtxl g a) s = .next t ∧
      t.me = { s.me with wait := .mutex false } ∧ (t.cluster u).mutexWait = cl.mutexWait ++ [(i, s.cur)] ∧
      (t.cluster u).mutexes = cl.mutexes) ∧
    (find? cl.mutexes i ≠ some s.me.ctx → exec (.mtxu g a) s = .next (s.trap { status := 0x4B })) ∧
    (find? cl.mutexes i = some s.me.ctx → (∀ w ∈ cl.mutexWait, w.1 ≠ i) → exec (.mtxu g a) s =
      .next (onwards (s.setCluster u { cl with mutexes := erase cl.mutexes i }))) ∧
    (find? cl.mutexes i = some s.me.ctx → ∀ k r, cl.mutexWait = (i, k) :: r → k ≠ s.cur →
      ∃ t, exec (.mtxu g a) s = .next t ∧ t.me.pc = s.me.nextPc ∧ (t.core k).wait = .mutex true ∧
        find? (t.cluster u).mutexes i = some (s.core k).ctx ∧ (t.cluster u).mutexWait = r)

/-- Events and mutexes of the event unit. -/
def Obligations.EventAndMutexResults : Prop :=
  EventResults ∧ MutexResults


/-- SSTEP passes when every other member of its domain has arrived at the level, which lets them pass too, and waits with
its arrival counted while one has not (R38, R333); WAITC compares modulo 2^32, CADD adds modulo 2^32 (R191, R334). -/
def SuperstepAndCounterResults : Prop :=
  ∀ (s : State) (g : Guard) (level : BitVec 3) (acq : Bool) (k : BitVec 4) (a : Reg) (imm : BitVec 20),
    (s.Ready g [] [] → Quiet s →
      let l := level.toNat
      (s.me.task = none → exec (.sstep g level) s = .next (onwards (s.acquire s.cur (levelScope l)))) ∧
      (∀ x, s.me.task = some x → s.stepOf x.id = none →
        let ms := s.members x l s.me.domreg
        let came := fun (m : Nat) => s.steps.any fun y => y.task == m && y.level == l && !y.done
        ((∀ m ∈ ms, came m = true) → ∃ t, exec (.sstep g level) s = .next t ∧ t.me.pc = s.me.nextPc ∧
          t.me.regs = s.me.regs ∧ t.mem = s.mem ∧
          t.steps = s.steps.map fun y => if has ms y.task then { y with done := true } else y) ∧
        ((∃ m ∈ ms, came m = false) → ∃ t, exec (.sstep g level) s = .next t ∧ t.mem = s.mem ∧
          t.me = { s.me with wait := .sstep } ∧ t.steps = s.steps ++ [⟨x.id, l, false⟩]))) ∧
    (s.Ready g [a] [] →
      let v := s.me.regs.rs a
      let c := s.me.regs.rk k.toNat
      let ahead := ((c.toNat : Int) - v.toNat - imm.toInt) % 2 ^ 32
      (ahead < 2 ^ 31 → exec (.waitc g acq k a imm) s = .next (onwards (acquiredIf s acq 3))) ∧
      (2 ^ 31 ≤ ahead → exec (.waitc g acq k a imm) s = .next s) ∧
      exec (.cadd g k a imm) s = .next (s.retired (s.me.regs.wk k.toNat
        (BitVec.ofInt 32 (c.toNat + v.toNat + imm.toInt)))))

/-- SEND posts its payload for the target that its address names, and SENDP a message for the receiving instance of the
pipe, as the lowest free entry of the journal; neither changes memory or a register (R244, R335 to R338).  RECVP takes the
oldest message and sets its predicate, clears it once the pipe is closed and empty, and otherwise waits (R156, R157; that a
task posted to the sending kernel keeps a pipe open is the model's choice: log 68). -/
def MessageResults : Prop :=
  ∀ (s u : State) (g : Guard) (o : SendOp) (rel acq : Bool) (pipe : BitVec 4) (a b d : Reg) (p : BitVec 3),
    Quiet s →
    (s.Ready g (if o.vec then [o.a] else [o.a, o.b]) (if o.vec then [o.b] else []) →
      let ea := (sendEa o s.me.regs).toNat
      let n := 8 * (o.len.toNat + 1)
      let data := if o.vec then vbytes (s.me.regs.rv o.b.toNat) n else toBytes 8 (s.me.regs.rs o.b).toNat
      let posts := fun (pkg core off : Nat) => ∃ t, exec (.send g o) s = .next t ∧ t.me.pc = s.me.nextPc ∧
        t.mem = s.mem ∧ t.me.regs = s.me.regs ∧
        t.me.journal = [⟨0, s.me.posts, .send pkg core off o.k.toNat data, .pending, s.me.node, [], [], []⟩]
      (ea % 8 ≠ 0 → exec (.send g o) s = .next (s.trap { status := 0x29, info := BitVec.ofNat 64 ea })) ∧
      (ea % 8 = 0 → o.space = .x → ea < 2 ^ 26 → ea / 2 ^ 20 < 48 →
        posts (corePkg (sibling s.cur (ea / 2 ^ 20))) (coreNo (sibling s.cur (ea / 2 ^ 20))) (ea % 2 ^ 20)) ∧
      (ea % 8 = 0 → ∀ pkg core off, sendTarget o.space ea n s = .ok ((pkg, core, off), u) → posts pkg core off)) ∧
    (s.Ready g [a] [b] → ∀ x pd, pipeOf pipe.toNat s = .ok ((x, pd), s) → pd.src = x.role →
      let key := (x.graph, x.node)
      let idx := (s.me.regs.rs a).toNat
      idx < (((s.node key).map Node.counts).getD []).getD (pd.dst - 1) 0 →
      ∀ id task k, s.instanceOf key pd.dst idx = some (id, task) → task.place = some k →
        let r := s.ring id pipe.toNat
        r.count + r.ovr.length + r.fly < pd.ring + pd.ovr →
        ∃ t, exec (.sendp g rel pipe a b) s = .next t ∧ t.me.pc = s.me.nextPc ∧ t.mem = s.mem ∧ t.me.regs = s.me.regs ∧
          t.me.journal = [⟨0, s.me.posts, .pipe (corePkg k) (coreNo k) pipe.toNat id (vbytes (s.me.regs.rv b.toNat) pd.size),
            .pending, s.me.node, [], [], []⟩] ∧
          t.ring id pipe.toNat = { r with task := id, pipe := pipe.toNat, fly := r.fly + 1 }) ∧
    (s.Ready g [] [d] → ∀ x pd, pipeOf pipe.toNat s = .ok ((x, pd), s) → pd.dst = x.role →
      let r := s.ring x.id pipe.toNat
      let at_ := s.windowPa s.cur (pd.at_ + r.head * pd.size)
      (0 < r.count → s.bad at_ pd.size = false → ∃ t, exec (.recvp g acq pipe d p) s = .next t ∧ t.me.pc = s.me.nextPc ∧
        t.me.regs = (s.me.regs.wv d.toNat (ofVbytes (s.bytes at_ pd.size))).wp p.toNat true ∧
        (t.ring x.id pipe.toNat).head = (r.head + 1) % pd.ring ∧ (t.ring x.id pipe.toNat).ovr = r.ovr.tail ∧
        (t.ring x.id pipe.toNat).count = (if r.ovr = [] then r.count - 1 else r.count) ∧
        (r.ovr = [] → t.mem = s.mem)) ∧
      (r.count = 0 → r.fly = 0 → s.pipeClosed (x.graph, x.node) pd = true →
        exec (.recvp g acq pipe d p) s = .next (s.retired (s.me.regs.wp p.toNat false))) ∧
      (r.count = 0 → (r.fly ≠ 0 ∨ s.pipeClosed (x.graph, x.node) pd = false) →
        exec (.recvp g acq pipe d p) s = .next s))

/-- Supersteps, counters and messages. -/
def Obligations.SuperstepAndMessageResults : Prop :=
  SuperstepAndCounterResults ∧ MessageResults


/-- POST queues a task of its own kernel, or of the gang's kernel it names, with the kernel's next TASKID and the element
given (R151, R339); without a task, and for an element outside its space, it raises status 0x47. -/
def PostQueuesATask : Prop :=
  ∀ (s : State) (g : Guard) (role : BitVec 2) (rel : Bool) (a : Reg), s.Ready g [a] [] → Quiet s →
    (s.me.task = none → exec (.post g role rel a) s = .next (s.trap { status := 0x47 })) ∧
    (∀ x n h, s.me.task = some x → s.node (x.graph, x.node) = some n → (role = 0 ∨ n.counts ≠ []) →
      let r := if role = 0 then x.role else role.toNat
      let e := (s.me.regs.rs a).toNat
      let inside := e < 2 ^ 40 ∧ e < (s.nelem (graphPkg x.graph) h).getD 0
      n.header r = some h →
      (h.space ≠ none → ¬ inside → exec (.post g role rel a) s = .next (s.trap { status := 0x47 })) ∧
      ((h.space = none ∨ inside) → s.queueFull (coreCluster s.cur) = false →
        ∃ t y, exec (.post g role rel a) s = .next t ∧ t.me.pc = s.me.nextPc ∧ t.me.regs = s.me.regs ∧ t.mem = s.mem ∧
          find? t.tasks s.fresh = some y ∧ y.graph = x.graph ∧ y.node = x.node ∧ y.role = r ∧ y.hdr = h ∧
          y.taskid = (s.nodeSt (x.graph, x.node)).nextTask r ∧ y.phase = .queued ∧ y.ovr = false ∧
          y.elem = (if h.space = none then none else some e) ∧ y.cluster = coreCluster s.cur ∧
          (s.launchOf x.graph ≠ none →
            (t.nodeSt (x.graph, x.node)).nextTask r = (s.nodeSt (x.graph, x.node)).nextTask r + 1)))

/-- HARN alone answers its own index and mask and forms no harness; the second arrival of two forms one, lowest core index
first, whose follower takes the forwarded stream once its own HARN has written its destination (R223).  DETACH of a follower
stops that, of a leader marks its followers (R229); REJOIN lets a core without a harness and an attached one pass, and a
detached follower wait for its leader, which waits while a member is suspended (R230). -/
def HarnessResults : Prop :=
  ∀ (s : State) (g : Guard) (d a b : Reg),
    (s.Ready g [d, a, b] [] → Quiet s → s.me.wait = .none → s.me.member = none →
      let x := s.me.regs.rs a
      let i := s.me.barbase + x.toNat % 512
      let u := unitOf s.cur
      let e := (s.cluster u).entry i
      EventOk s x 0 →
      ((s.me.regs.rs b).toNat = 1 → e.arr = 0 → (s.cluster u).harns = [] →
        s.away ⟨i, s.cur, s.me.task.map (·.id), s.me.nextPc⟩ = false →
        ∃ t, exec (.harn g d a b) s = .next t ∧ t.me.pc = s.me.nextPc ∧ t.me.member = none ∧ t.mem = s.mem ∧
          t.me.regs = s.me.regs.ws d (BitVec.ofNat 64 (coreIndex s.cur * 2 ^ 52 + 2 ^ coreIndex s.cur))) ∧
      (∀ k tk nx, (s.me.regs.rs b).toNat = 2 → e.arr = 1 → e.exp = 2 → (s.cluster u).harns = [⟨i, k, tk, nx⟩] →
        coreIndex s.cur < coreIndex k → k ≠ s.cur →
        s.away ⟨i, s.cur, s.me.task.map (·.id), s.me.nextPc⟩ = false → s.away ⟨i, k, tk, nx⟩ = false →
        ∃ t, exec (.harn g d a b) s = .next t ∧ t.me.pc = s.me.nextPc ∧ t.mem = s.mem ∧
          find? t.harnesses s.fresh = some ⟨[s.cur, k], []⟩ ∧
          t.me.member = some ⟨s.fresh, 0, false, [], [], false, false, s.me.nextPc⟩ ∧
          (t.core k).member = some ⟨s.fresh, 1, true, [], [], false, true, s.me.nextPc⟩ ∧
          (t.core k).wait = .harn (BitVec.ofNat 64 (coreIndex s.cur * 2 ^ 52 + 2 ^ 48 +
            (2 ^ coreIndex s.cur ||| 2 ^ coreIndex k))) none ∧
          t.me.preempt = (t.core k).preempt ∧ (s.me.preempt = false → (s.core k).preempt = false → t.me.preempt = false) ∧
          t.me.regs = s.me.regs.ws d (BitVec.ofNat 64 (coreIndex k * 2 ^ 52 +
            (2 ^ coreIndex s.cur ||| 2 ^ coreIndex k))))) ∧
    (s.Ready g [d, a, b] [] → ∀ dest m, s.me.wait = .harn dest none → s.me.member = some m → m.attached = true →
      ∃ t, exec (.harn g d a b) s = .next t ∧ t.me.regs = s.me.regs.ws d dest ∧ t.me.pc = m.start ∧ t.me.wait = .none ∧
        t.me.member = some m ∧ t.mem = s.mem) ∧
    (s.Ready g [] [] →
      (s.me.member = none → exec (.detach g) s = .next (onwards s)) ∧
      (∀ m, s.me.member = some m → m.rank ≠ 0 → m.attached = true → exec (.detach g) s = .next (onwards (s.setMe { s.me with
        member := some { m with attached := false, buf := [], fly := [], last := false } }))) ∧
      (∀ m k n, s.me.member = some m → m.rank = 0 → k ∈ s.mates s.cur → (s.core k).member = some n → n.attached = true →
        ∃ t, exec (.detach g) s = .next t ∧ t.me.pc = s.me.nextPc ∧ (t.core k).member = some { n with last := true }) ∧
      (s.me.wait = .none → (s.me.member = none ∨ ∃ m, s.me.member = some m ∧ m.attached = true) →
        exec (.rejoin g) s = .next (onwards s)) ∧
      (∀ m, s.me.wait = .none → s.me.member = some m → m.attached = false → m.rank ≠ 0 →
        exec (.rejoin g) s = .next (s.setMe { s.me with wait := .rejoin s.me.pc false })) ∧
      (∀ m k, s.me.wait = .none → s.me.member = some m → m.attached = false → m.rank = 0 → s.mates s.cur = [k] →
        s.mustered s.cur m = true → ∀ n, (s.core k).member = some n → (s.core k).wait = .rejoin s.me.pc false →
        ∃ t, exec (.rejoin g) s = .next t ∧ t.me.pc = s.me.nextPc ∧ (t.core k).wait = .rejoin s.me.pc true ∧
          (t.core k).member = some { n with attached := true, buf := [], fly := [], last := false }) ∧
      (∀ m, s.me.wait = .none → s.me.member = some m → m.attached = false → m.rank = 0 → s.mustered s.cur m = false →
        exec (.rejoin g) s = .next s))

/-- POST and the harness instructions. -/
def Obligations.PostAndHarnessResults : Prop :=
  PostQueuesATask ∧ HarnessResults


/-! Vectors -/

/-- A vector register whose active elements a function of the lane gives and whose inactive ones it keeps (R235, R236,
R345). -/
def lanesAre (o : VOp) (r : Regs) (f : Nat → Nat) (x : VWord) : Prop :=
  ∀ i, i < 2048 / vwidth o → elemAt (vwidth o) x i =
    if (r.rm o.mask.toNat).getLsbD i then f i % 2 ^ vwidth o else elemAt (vwidth o) (r.rv o.d.toNat) i

/-- An integer result clamped with SAT and reduced modulo 2^w (R348). -/
def narrowed (o : VOp) (e : Int) : Nat :=
  ((if o.flag then max (intMin o.ty) (min (intMax o.ty) e) else e) % 2 ^ o.ty.width).toNat

/-- A result of the type: integer or floating (R347, R348). -/
def eitherType (o : VOp) (i : Int) (f : Val) : Nat :=
  if o.ty.isInt then narrowed o i else (fconv o.ty o.rm f).bits

/-- Every element-wise instruction completes, writes each active element of its destination with the function of the same
lane of its sources that the spec gives, and keeps the inactive elements, every other register and all of memory (R345 to
R349, R351, R353, R354, R359).  Two of the functions are the model's: VEXP2 and VLOG2 write the value that log 16 computes
with 320 fraction bits (DEDUCED). -/
def VectorLaneResults : Prop :=
  ∀ (s : State) (g : Guard) (o : VOp),
    let r := s.me.regs
    let w := vwidth o
    let n := 2048 / w
    let A := fun (i : Nat) => elemAt w (r.rv o.a.toNat) i
    let B := fun (i : Nat) => elemAt w (r.rv o.b.toNat) i
    let C := fun (i : Nat) => elemAt w (r.rv o.c.toNat) i
    let I := intVal o.ty
    let V := val o.ty
    let count := fun (i : Nat) => if o.flag then o.imm8.toNat else B i % w
    let nan := (fmtOf o.ty).nanBits
    let least := fun (i : Nat) => if o.ty.isInt then (if I (B i) < I (A i) then B i else A i) else
      fminmax o.ty false (A i) (B i)
    let most := fun (i : Nat) => if o.ty.isInt then (if I (A i) < I (B i) then B i else A i) else
      fminmax o.ty true (A i) (B i)
    ∀ row ∈ [
      (Instr.vadd g o, fun i => eitherType o (I (A i) + I (B i)) ((V (A i)).add o.rm (V (B i)))),
      (.vsub g o, fun i => eitherType o (I (A i) - I (B i)) ((V (A i)).sub o.rm (V (B i)))),
      (.vmul g o, fun i => eitherType o (I (A i) * I (B i)) ((V (A i)).mul (V (B i)))),
      (.vfma g o, fun i => eitherType o (I (A i) * I (B i) + I (C i)) (((V (A i)).mul (V (B i))).add o.rm (V (C i)))),
      (.vmin g o, least), (.vmax g o, most),
      (.vabs g o, fun i => if o.ty.isInt then narrowed o (I (A i)).natAbs
        else if (V (A i)).isNan then nan else A i % 2 ^ (w - 1)),
      (.vand g o, fun i => A i &&& B i), (.vor g o, fun i => A i ||| B i), (.vxor g o, fun i => A i ^^^ B i),
      (.vshl g o, fun i => A i * 2 ^ count i), (.vshr g o, fun i => A i / 2 ^ count i),
      (.vsra g o, fun i => (toSigned w (A i) / 2 ^ count i % 2 ^ w).toNat),
      (.vrcp g o, fun i => gRound o.ty o.rm (rcpVal (V (A i)))),
      (.vrsq g o, fun i => gRound o.ty o.rm (rsqVal (V (A i)))),
      (.vexp2 g o, fun i => gRound o.ty o.rm (exp2Val (V (A i)))),
      (.vlog2 g o, fun i => gRound o.ty o.rm (log2Val (V (A i)))),
      (.vclmul g o, fun i => clmul w (A i) (B i) / (if o.flag then 2 ^ w else 1)),
      (.vpopc g o, fun i => (List.range w).countP fun b => (A i).testBit b),
      (.vbcast g o, fun _ => (r.rs o.a).toNat),
      (.vperm g o, fun i => if B i < n then A (B i) else 0),
      (.vslide g o, fun i => if i + o.imm8.toNat < n then A (i + o.imm8.toNat) else B (i + o.imm8.toNat - n))],
      row.1.wellFormed = true → s.ReadyFor row.1 →
        ∃ x, exec row.1 s = .next (s.retired (r.wv o.d.toNat x)) ∧ lanesAre o r row.2 x

/-- VCMP sets the active bits of its mask to the condition of the lane and keeps the others (R350); VSEL picks each lane
from a or b by the mask (R351); VCVT converts the lanes of one part with one rounding, keeping the rest of the destination
(R352). -/
def VectorComparisonAndConversion : Prop :=
  ∀ (s : State) (g : Guard) (o : VOp),
    let r := s.me.regs
    let w := vwidth o
    let A := fun (i : Nat) => elemAt w (r.rv o.a.toNat) i
    let B := fun (i : Nat) => elemAt w (r.rv o.b.toNat) i
    let on := fun (i : Nat) => (r.rm o.mask.toNat).getLsbD i
    ((Instr.vcmp g o).wellFormed = true → s.ReadyFor (.vcmp g o) → ∀ c, Cond.ofCode o.aux = some c →
      ∃ x : MWord, exec (.vcmp g o) s = .next (s.retired (r.wm o.d.toNat x)) ∧ ∀ i, i < 256 → x.getLsbD i =
        if i < 2048 / w ∧ on i then
          (if o.ty.isInt then condAt c o.ty (A i) (B i) else fltCond c (val o.ty (A i)) (val o.ty (B i)))
        else (r.rm o.d.toNat).getLsbD i) ∧
    ((Instr.vsel g o).wellFormed = true → s.ReadyFor (.vsel g o) →
      ∃ x, exec (.vsel g o) s = .next (s.retired (r.wv o.d.toNat x)) ∧
        ∀ i, i < 2048 / w → elemAt w x i = if on i then A i else B i) ∧
    ((Instr.vcvt g o).wellFormed = true → s.ReadyFor (.vcvt g o) →
      let st := Ty.ofCode o.aux
      let n := 2048 / max st.width o.ty.width
      let from_ := if st.width < o.ty.width then n * o.imm8.toNat else 0
      let at_ := if o.ty.width < st.width then n * o.imm8.toNat else 0
      ∃ x, exec (.vcvt g o) s = .next (s.retired (r.wv o.d.toNat x)) ∧
        ∀ i, i < 2048 / o.ty.width → elemAt o.ty.width x i =
          if at_ ≤ i ∧ i < at_ + n ∧ on (i - at_) then
            (fconv o.ty o.rm (val st (elemAt st.width (r.rv o.a.toNat) (i - at_ + from_)))).bits % 2 ^ o.ty.width
          else elemAt o.ty.width (r.rv o.d.toNat) i)

/-- VCOMP packs the active elements, zero above, and counts them; VEXPD spreads the first elements over the active lanes
(R360).  VRED and VSCAN fold the lanes, inactive ones entering as the identity, in the trees of R80 and R81 (R361, R362);
VTOPK writes the numbers of the K lanes that rank first (R363). -/
def VectorReductionResults : Prop :=
  ∀ (s : State) (g : Guard) (o : VOp),
    let r := s.me.regs
    let w := vwidth o
    let n := 2048 / w
    let A := fun (i : Nat) => elemAt w (r.rv o.a.toNat) i
    let on := fun (i : Nat) => (r.rm o.mask.toNat).getLsbD i
    let lanes := (List.range n).filter on
    let source := (List.range n).map fun i => if on i then A i else redIdentity o
    ((Instr.vcomp g o).wellFormed = true → s.ReadyFor (.vcomp g o) →
      ∃ x, exec (.vcomp g o) s =
          .next (s.retired ((r.wv o.d.toNat x).ws o.c (BitVec.ofNat 64 lanes.length))) ∧
        ∀ j, j < n → elemAt w x j = ((lanes[j]?).map A).getD 0) ∧
    ((Instr.vexpd g o).wellFormed = true → s.ReadyFor (.vexpd g o) →
      ∃ x, exec (.vexpd g o) s = .next (s.retired (r.wv o.d.toNat x)) ∧
        lanesAre o r (fun i => A ((List.range i).countP on)) x) ∧
    ((Instr.vred g o).wellFormed = true → s.ReadyFor (.vred g o) →
      exec (.vred g o) s = .next (writes s o.d (extend (redTree (redOp o) (Nat.log2 n) source) o.ty))) ∧
    ((Instr.vscan g o).wellFormed = true → s.ReadyFor (.vscan g o) →
      ∃ x, exec (.vscan g o) s = .next (s.retired (r.wv o.d.toNat x)) ∧
        lanesAre o r (fun i => (scanTree (redOp o) (Nat.log2 n) 1 source).getD i 0) x) ∧
    ((Instr.vtopk g o).wellFormed = true → s.ReadyFor (.vtopk g o) →
      ∃ l : List Nat, l.Perm lanes ∧
        l.Pairwise (fun i j => ranks o.ty (A j) (A i) = false ∧ (ranks o.ty (A i) (A j) = false → i < j)) ∧
        ∃ x, exec (.vtopk g o) s = .next (s.retired (r.wv o.d.toNat x)) ∧
          ∀ j, j < 64 → elemAt 32 x j = if o.imm8.toNat ≤ j then 0 else l.getD j 0xFFFF_FFFF)

/-- Vector comparisons, conversions and reductions. -/
def Obligations.VectorCrossResults : Prop :=
  VectorComparisonAndConversion ∧ VectorReductionResults


/-- VMOVS moves one element, or raises status 0x1D for a lane beyond the register (R364); MLOG applies its truth table to
every bit, MGET and MSET move one of four chunks of a mask (R365); m0 keeps all ones (R32). -/
def VectorMoveAndMaskResults : Prop :=
  ∀ (s : State) (g : Guard) (o : VOp),
    let r := s.me.regs
    let w := vwidth o
    let j := (r.rs o.b + BitVec.ofNat 64 o.imm8.toNat).toNat
    ((Instr.vmovs g o).wellFormed = true → s.ReadyFor (.vmovs g o) →
      (2048 / w ≤ j → exec (.vmovs g o) s = .next (s.trap { status := 0x1D })) ∧
      (j < 2048 / w → o.flag = false →
        exec (.vmovs g o) s = .next (writes s o.d (extend (elemAt w (r.rv o.a.toNat) j) o.ty))) ∧
      (j < 2048 / w → o.flag = true → ∃ x, exec (.vmovs g o) s = .next (s.retired (r.wv o.d.toNat x)) ∧
        ∀ i, i < 2048 / w → elemAt w x i =
          if i = j then (r.rs o.a).toNat % 2 ^ w else elemAt w (r.rv o.d.toNat) i)) ∧
    ((Instr.mlog g o).wellFormed = true → s.ReadyFor (.mlog g o) →
      ∃ x : MWord, exec (.mlog g o) s = .next (s.retired (r.wm o.d.toNat x)) ∧ ∀ i, i < 256 → x.getLsbD i =
        o.aux.getLsbD (2 * ((r.rm o.a.toNat).getLsbD i).toNat + ((r.rm o.b.toNat).getLsbD i).toNat)) ∧
    ((Instr.mget g o).wellFormed = true → s.ReadyFor (.mget g o) →
      ∃ x : Word, exec (.mget g o) s = .next (writes s o.d x) ∧
        ∀ i, i < 64 → x.getLsbD i = (r.rm o.a.toNat).getLsbD (64 * o.imm8.toNat + i)) ∧
    ((Instr.mset g o).wellFormed = true → s.ReadyFor (.mset g o) →
      ∃ x : MWord, exec (.mset g o) s = .next (s.retired (r.wm o.d.toNat x)) ∧ ∀ i, i < 256 → x.getLsbD i =
        if i / 64 = o.imm8.toNat then (r.rs o.a).getLsbD (i % 64) else (r.rm o.d.toNat).getLsbD i) ∧
    (∀ (x : MWord), r.wm 0 x = r ∧ r.rm 0 = BitVec.allOnes 256)

/-- Lane-wise vector instructions, moves and masks. -/
def Obligations.VectorResults : Prop :=
  VectorLaneResults ∧ VectorMoveAndMaskResults


/-- The accesses of a vector load or store pass their checks and stay in the own scratchpad (R356, R357). -/
structure VectorLocalOk (s : State) (ea : Word) (n : Nat) : Prop where
  space : ea.toNat < 2 ^ 20
  bank : ea.toNat + n ≤ s.me.spbanks * 0x1_0000
  declared : s.me.mode = .task → ∀ x, s.me.task = some x → ea.toNat + n ≤ x.hdr.scratch
  sound : s.bad (s.windowPa s.cur ea.toNat) n = false

/-- VLD and VST move 256 bytes of the own scratchpad; the strided and indexed forms move the active elements at their
addresses s[a] + i s[b] and s[a] + (index << SC), a load keeping the inactive elements of its destination, a store leaving
every byte outside its elements alone; elements that overlap keep the last (R355 to R358). -/
def VectorScratchpadResults : Prop :=
  ∀ (s : State) (g : Guard) (o : MemOp) (v : VMemOp), Quiet s → s.me.wait = .none →
    let r := s.me.regs
    let ea := memEa o r
    let w := v.ty.width
    let n := v.ty.size
    let on := fun (i : Nat) => decide (i < 2048 / w) && (r.rm v.mask.toNat).getLsbD i
    let strided := fun (i : Nat) => r.rs v.a + BitVec.ofNat 64 (i * (r.rs v.b).toNat)
    let indexed := fun (i : Nat) => r.rs v.a + BitVec.ofNat 64 (elemAt w (r.rv v.b.toNat) i * 2 ^ v.sc.toNat)
    let ok := fun (addr : Nat → Word) => ∀ i, on i = true → VectorLocalOk s (addr i) n ∧ (addr i).toNat % n = 0
    let loads := fun (i : Instr) (addr : Nat → Word) => ∃ t x, exec i s = .next t ∧ t.me.pc = s.me.nextPc ∧
      t.mem = s.mem ∧ t.me.regs = r.wv v.d.toNat x ∧ ∀ j, j < 2048 / w → elemAt w x j =
        if on j then s.num (localPa s (addr j)) n else elemAt w (r.rv v.d.toNat) j
    let stores := fun (i : Instr) (addr : Nat → Word) => ∃ t, exec i s = .next t ∧ t.me.pc = s.me.nextPc ∧
      t.me.regs = r ∧
      (∀ p, (∀ j, on j = true → p < localPa s (addr j) ∨ localPa s (addr j) + n ≤ p) → t.byte p = s.byte p) ∧
      (∀ j b, on j = true → b < n →
        (∀ k, j < k → on k = true → localPa s (addr k) ≠ localPa s (addr j)) →
        t.byte (localPa s (addr j) + b) = (toBytes n (elemAt w (r.rv v.d.toNat) j)).getD b 0)
    (o.space = .l → s.Ready g [o.base] [o.d] → VectorLocalOk s ea 256 → ea.toNat % o.ty.size = 0 →
      (∃ t, exec (.vld g o) s = .next t ∧ t.me.pc = s.me.nextPc ∧ t.mem = s.mem ∧
        t.me.regs = r.wv o.d.toNat (BitVec.ofNat 2048 (s.num (localPa s ea) 256))) ∧
      (∃ t, exec (.vst g o) s = .next t ∧ t.me.pc = s.me.nextPc ∧ t.me.regs = r ∧
        t.num (localPa s ea) 256 = (r.rv o.d.toNat).toNat ∧
        ∀ p, (p < localPa s ea ∨ localPa s ea + 256 ≤ p) → t.byte p = s.byte p)) ∧
    (v.space = .l → s.Ready g [v.a, v.b] [v.d] → ok strided → loads (.vlds g v) strided ∧ stores (.vsts g v) strided) ∧
    (v.space = .l → s.Ready g [v.a] [v.d, v.b] → ok indexed → loads (.vldg g v) indexed ∧ stores (.vstg g v) indexed)

/-- The bytes that a place holds, apart from what caches and buffers hold of it (R43, R44, R470). -/
def heldAt (u : State) (n : Nat) : Place → List Byte
  | .mem pa _ => u.bytes pa n
  | .own off => u.bytes (u.windowPa u.cur off) n
  | .peer k off => u.bytes (u.windowPa k off) n
  | .foreign w off _ => u.winBytes (corePkg u.cur) w off n

/-- A load may read a place: no cache holds its line, and its home answers with the line; a scratchpad has no uncorrectable
error there (R10, R203). -/
def readable (u : State) (n : Nat) : Place → Prop
  | .mem pa _ => u.cacheHit u.cur (pa / 64) false = none ∧ ∃ bs, u.fillRead (u.who u.cur) .load pa n = .ok bs
  | .own off => u.bad (u.windowPa u.cur off) n = false
  | .peer k off => u.bad (u.windowPa k off) n = false
  | .foreign .. => True

/-- The byte that stores to memory in turn, the last of them counting, leave at an address (R358). -/
def lastOver (l : List (Place × List Byte)) (a : Nat) : Option Byte :=
  l.foldl (fun acc x => match x.1 with
    | .mem pa _ => if pa ≤ a ∧ a < pa + x.2.length then some (x.2.getD (a - pa) 0) else acc
    | _ => acc) none

/-- The vector memory forms in every space (R355 to R358): loads write what the places hold that their addresses name,
element by element; a store to memory stands in the coalescing buffer or on its way home, with the value of the highest
element over each byte, a store to peers or to a storage window becomes one posted store.  An address that the element size
does not divide raises status 0x29, in the strided and indexed forms with the number of the lowest element that fails. -/
def VectorPlaceResults : Prop :=
  ∀ (s u : State) (g : Guard) (o : MemOp) (v : VMemOp), Quiet s → s.me.wait = .none →
    let r := s.me.regs
    let ea := memEa o r
    let w := v.ty.width
    let n := v.ty.size
    let on := fun (i : Nat) => decide (i < 2048 / w) && (r.rm v.mask.toNat).getLsbD i
    let strided := fun (i : Nat) => r.rs v.a + BitVec.ofNat 64 (i * (r.rs v.b).toNat)
    let indexed := fun (i : Nat) => r.rs v.a + BitVec.ofNat 64 (elemAt w (r.rv v.b.toNat) i * 2 ^ v.sc.toNat)
    let data := fun (ps : List (Place × Nat × Nat)) => ps.flatMap fun x => heldAt u x.2.2 x.1
    let sound := fun (ps : List (Place × Nat × Nat)) => ∀ x ∈ ps, readable u x.2.2 x.1
    let stored := fun (i : Instr) (order : Ord) (l : List (Place × List Byte)) => order = .none →
      let done := fun (t : State) => exec i s = .next t ∧ t.me.pc = s.me.nextPc ∧ t.me.regs = r ∧ t.mem = s.mem ∧
        t.winMem = s.winMem
      let posts := fun (p : Posted) => ∃ t, done t ∧
        t.me.journal = [⟨0, s.me.posts, p, .pending, s.me.node, [], [], []⟩]
      ((∀ x ∈ l, ∃ pa prot, x.1 = .mem pa prot ∧ pa / 2 ^ 44 = u.idOf u.cur) →
        ∃ t, done t ∧ ∀ a, find? (t.ownBytes t.cur (a / 64)) (a % 64) = lastOver l a) ∧
      (∀ (ps : List (Nat × Part)), ps ≠ [] → l = ps.map (fun x => (.peer x.1 x.2.off, x.2.data)) →
        (∀ x ∈ ps, x.2.unit = coreNo x.1) → posts (.xstore (corePkg (ps.headD (0, ⟨0, 0, []⟩)).1) (ps.map (·.2)))) ∧
      (∀ (ps : List (Part × Bool)), ps ≠ [] → l = ps.map (fun x => (.foreign x.1.unit x.1.off x.2, x.1.data)) →
        posts (.foreign (ps.map (·.1))))
    let declared := fun (a : Word) (k : Nat) => s.me.mode = .task → ∀ x, s.me.task = some x → a.toNat + k ≤ x.hdr.scratch
    let moves := fun (ld st : Instr) (addr : Nat → Word) =>
      (∀ l, elemChecks v .r false (elemAddrs v r addr) s = .ok (l, u) → (∀ x ∈ l, sound x.2.2) →
        ∃ t x, exec ld s = .next t ∧ t.me.pc = s.me.nextPc ∧ t.mem = s.mem ∧ t.me.regs = r.wv v.d.toNat x ∧
          (∀ y ∈ l, elemAt w x y.1 = ofBytes (data y.2.2)) ∧
          ∀ j, j < 2048 / w → on j = false → elemAt w x j = elemAt w (r.rv v.d.toNat) j) ∧
      (∀ l, elemChecks v .w true (elemAddrs v r addr) s = .ok (l, u) →
        stored st v.order (l.flatMap fun x => share x.2.2 (toBytes n (elemAt w (r.rv v.d.toNat) x.1)))) ∧
      ∀ i ∈ [(ld, Need.r, false), (st, .w, true)], ∀ j l, on j = true → (addr j).toNat % n ≠ 0 →
        elemChecks v i.2.1 i.2.2 ((elemAddrs v r addr).filter fun x => x.1 < j) s = .ok (l, u) →
        (v.space = .l → declared (addr j) n) →
        exec i.1 s = .next ((s.keepTlbs s.cur u).trap { status := 0x29, elem := j, info := addr j })
    (s.Ready g [o.base] [o.d] →
      (∀ ps, vecCheck o.space .r false ea o.ty.size 256 s = .ok (ps, u) → sound ps →
        ∃ t, exec (.vld g o) s = .next t ∧ t.me.pc = s.me.nextPc ∧ t.mem = s.mem ∧
          t.me.regs = r.wv o.d.toNat (ofVbytes (data ps))) ∧
      (∀ ps, vecCheck o.space .w true ea o.ty.size 256 s = .ok (ps, u) →
        stored (.vst g o) o.order (share ps (vbytes (r.rv o.d.toNat) 256))) ∧
      (ea.toNat % o.ty.size ≠ 0 → (o.space = .l → declared ea 256) →
        ∀ i ∈ [Instr.vld g o, .vst g o], exec i s = .next (s.trap { status := 0x29, info := ea }))) ∧
    (s.Ready g [v.a, v.b] [v.d] → moves (.vlds g v) (.vsts g v) strided) ∧
    (s.Ready g [v.a] [v.d, v.b] → moves (.vldg g v) (.vstg g v) indexed)

/-- Vector loads and stores of the own scratchpad, and of every place. -/
def Obligations.VectorMemoryResults : Prop :=
  VectorScratchpadResults ∧ VectorPlaceResults


/-! Engines -/

/-- The queue entry of a record that a core pushes: the record, its context, its mode, not begun, with the loop state of a
MITER, and the number of posted stores that its core has issued before it (R89, R110, R118, R121). -/
def pushed (c : Core) (r : LineBits) : Cmd :=
  ⟨r, c.ctx, decide (c.mode = .handler), false, if recCode r = 5 then some (loopStart r) else none, [], c.posts, []⟩

/-- A state after `recs` were pushed onto a queue of the current core: the records stand at the end of the queue, and each
that is marked CE has a place of the result queue reserved (R372, R374). -/
structure Appended (s t : State) (q : Queue) (recs : List LineBits) : Prop where
  mem : t.mem = s.mem
  places : t.me.eng.reserved = s.me.eng.reserved + (recs.filter recCE).length
  mat : t.me.eng.mat = if q = .mat then s.me.eng.mat ++ recs.map (pushed s.me) else s.me.eng.mat
  cpy : t.me.eng.cpy = if q = .cpy then s.me.eng.cpy ++ recs.map (pushed s.me) else s.me.eng.cpy
  med : (t.die (coreDie s.cur)).med = if q = .med then
    (s.die (coreDie s.cur)).med ++ recs.map fun r => ⟨r, s.cur, s.me.ctx, decide (s.me.mode = .handler), s.me.posts⟩
    else (s.die (coreDie s.cur)).med

/-- Whether a queue has room for `n` records of the current core (R89, R118, R136, R376). -/
def roomFor (s : State) (q : Queue) (n : Nat) : Prop :=
  match q with
  | .mat => s.me.eng.mat.length + n ≤ 16
  | .cpy => s.me.eng.cpy.length + n ≤ 32
  | .med => (s.die (coreDie s.cur)).med.length + n ≤ 64 ∧ (s.die (coreDie s.cur)).medWait.head?.getD s.cur = s.cur

/-- Whether a queue has a free entry (R374). -/
def entryFree (s : State) (q : Queue) : Prop :=
  match q with
  | .mat => s.me.eng.mat.length < 16
  | .cpy => s.me.eng.cpy.length < 32
  | .med => (s.die (coreDie s.cur)).med.length < 64

/-- ENQ and ENQM (R372, R374 to R376).  The records are read from the address given: from the own scratchpad the 64 bytes
there.  More marked records than the result queue has places raise status 0x30; ENQM of no record, or of more than the
queue holds, 0x1D.  With room the records are appended as one action; without, they wait and append once there is room.  ENQ.try
appends where the queue has a free entry, and clears its predicate where it has none. -/
def PushInstructions : Prop :=
  ∀ (s : State) (g : Guard) (p : BitVec 3) (o : EnqOp) (b : Reg) (recs : List LineBits),
    (Quiet s → ∀ ea : Word, LocalOk s ea 64 →
      readRecords .l ea 1 s = .ok ([BitVec.ofNat 512 (s.num (localPa s ea) 64)], s)) ∧
    (s.Ready g [o.base] [] → s.Ready g [o.base, b] [] → Quiet s → s.me.wait = .none →
      let n := recs.length
      let places := s.me.eng.held.length + s.me.eng.reserved + (recs.filter recCE).length
      readRecords o.space (enqEa o s.me.regs) n s = .ok (recs, s) →
      let full := fun (i : Instr) => 64 < places → exec i s = .next (s.trap { status := 0x30 })
      let appends := fun (i : Instr) (regs : Regs) => places ≤ 64 → roomFor s o.queue n →
        ∃ t, exec i s = .next t ∧ t.me.pc = s.me.nextPc ∧ t.me.regs = regs ∧ Appended s t o.queue recs
      let waits := fun (i : Instr) => places ≤ 64 → ¬ roomFor s o.queue n →
        ∃ t, exec i s = .next t ∧ t.me = { s.me with wait := .push recs } ∧ t.mem = s.mem
      (n = 1 → ∀ i ∈ [Instr.enq g false p o, .enq g true p o], full i) ∧
      (n = 1 → appends (.enq g false p o) s.me.regs ∧ waits (.enq g false p o)) ∧
      (n = 1 → places ≤ 64 →
        (entryFree s o.queue → ∃ t, exec (.enq g true p o) s = .next t ∧ t.me.pc = s.me.nextPc ∧
          t.me.regs = s.me.regs.wp p.toNat true ∧ Appended s t o.queue recs) ∧
        (¬ entryFree s o.queue → exec (.enq g true p o) s = .next (s.retired (s.me.regs.wp p.toNat false)))) ∧
      ((s.me.regs.rs b).toNat = n → 1 ≤ n → n ≤ queueDepth o.queue →
        full (.enqm g b o) ∧ appends (.enqm g b o) s.me.regs ∧ waits (.enqm g b o))) ∧
    (s.Ready g [o.base, b] [] → s.me.wait = .none →
      ((s.me.regs.rs b).toNat = 0 ∨ queueDepth o.queue < (s.me.regs.rs b).toNat) →
      exec (.enqm g b o) s = .next (s.trap { status := 0x1D })) ∧
    (s.Ready g [o.base] [] → s.Ready g [o.base, b] [] → s.me.wait = .push recs → roomFor s o.queue recs.length →
      ∀ i ∈ [Instr.enq g false p o, .enqm g b o],
        ∃ t, exec i s = .next t ∧ t.me.pc = s.me.nextPc ∧ t.me.regs = s.me.regs ∧ Appended s t o.queue recs)

/-- DEQ takes the oldest element of the result queue into its two registers, s[b] last, and acquires at scope 1; with none
held it waits for a reserved one, raises status 0x1E without one, and DEQ.try clears its predicate (R377).  EQSTAT answers the
counts (R378); RFENCE empties the shape-record cache (R379); QMOV reads and writes a coefficient, and waits to write
while a MITER is queued (R102, R380); MSTAT answers the state of a handle or of a compute-in-memory slot once the matrix
queue is empty (R381). -/
def QueueInstructions : Prop :=
  ∀ (s : State) (g : Guard) (p : BitVec 3) (d a b : Reg),
    (s.Ready g [d, b] [] →
      (∀ e r, s.me.eng.held = e :: r → ∀ try_ : Bool,
        let regs := (s.me.regs.ws d e.lo).ws b e.hi
        let v := (s.setMe { s.me with eng := { s.me.eng with held := r }, regs := regs }).acquire s.cur 1
        exec (.deq g try_ p d b) s = .next (onwards
          (if try_ then v.setMe { v.me with regs := regs.wp p.toNat true } else v))) ∧
      (s.me.eng.held = [] →
        exec (.deq g true p d b) s = .next (s.retired (s.me.regs.wp p.toNat false)) ∧
        (s.me.eng.reserved = 0 → exec (.deq g false p d b) s = .next (s.trap { status := 0x1E })) ∧
        (s.me.eng.reserved ≠ 0 → exec (.deq g false p d b) s = .next s))) ∧
    (s.Ready g [d] [] →
      let e := s.me.eng
      let own := (s.die (coreDie s.cur)).med.filter (·.core = s.cur)
      let counts := fun (run queued free depth : Nat) => BitVec.ofNat 64 (e.reserved * 2 ^ 48 + e.held.length * 2 ^ 40 +
        run * 2 ^ 24 + queued * 2 ^ 16 + free * 2 ^ 8 + depth)
      let of := fun (l : List Cmd) (depth : Nat) =>
        counts (l.countP (·.begun)) (l.countP fun x => !x.begun) (depth - l.length) depth
      exec (.eqstat g .mat d) s = .next (writes s d (of e.mat 16)) ∧
      exec (.eqstat g .cpy d) s = .next (writes s d (of e.cpy 32)) ∧
      exec (.eqstat g .med d) s =
        .next (writes s d (counts 0 own.length (64 - (s.die (coreDie s.cur)).med.length) 64)) ∧
      exec (.qmov g true d a) s = .next (writes s d ((s.me.regs.rq a.toNat).setWidth 64)) ∧
      (s.me.eng.mat = [] →
        (s.me.mode = .handler ∨ (∀ x, s.me.task = some x → a.toNat < x.hdr.accs) →
          (find? e.handles a.toNat = none → exec (.mstat g false d a) s = .next (writes s d 0)) ∧
          (∀ slot x, find? e.handles a.toNat = some (.bound slot) → find? e.acc slot = some x →
            exec (.mstat g false d a) s = .next (writes s d (BitVec.ofNat 64 (x.ovf * 2 ^ 32 + slot * 2 ^ 8 + 1)))) ∧
          (find? e.handles a.toNat = some .spilled → ∃ x : BitVec 16, exec (.mstat g false d a) s =
            .next (writes s d (BitVec.ofNat 64 (x.toNat * 2 ^ 32 + 2))))) ∧
        (has e.bspilled a.toNat = false → ∀ x, find? e.bslots a.toNat = some x → x.owner = s.me.ctx →
          exec (.mstat g true d a) s = .next (writes s d (BitVec.ofNat 64 (x.scale.toNat * 2 ^ 24 + x.plane * 2 ^ 16 +
            (if x.bad then 1 else 0) * 2 ^ 12 + a.toNat * 2 ^ 8 + 1)))) ∧
        (has e.bspilled a.toNat = false → find? e.bslots a.toNat = none →
          exec (.mstat g true d a) s = .next (writes s d 0))) ∧
      (s.me.mode = .task → ∀ x, s.me.task = some x → x.hdr.accs ≤ a.toNat →
        exec (.mstat g false d a) s = .next (s.trap { status := 0x15 })) ∧
      (s.me.eng.mat ≠ [] → exec (.mstat g true d a) s = .next s)) ∧
    (s.Ready g [a] [] →
      (s.me.eng.mat.any (fun x => recCode x.record == 5) = false → exec (.qmov g false d a) s =
        .next (s.retired (s.me.regs.wq d.toNat ((s.me.regs.rs a).setWidth 32)))) ∧
      (s.me.eng.mat.any (fun x => recCode x.record == 5) = true → exec (.qmov g false d a) s = .next s)) ∧
    (s.Ready g [] [] → Quiet s → exec (.rfence g) s =
      .next (onwards (s.setMe { s.me with eng := { s.me.eng with shapes := [] } })))

/-- Pushing commands and reading the queues. -/
def Obligations.QueueResults : Prop :=
  PushInstructions ∧ QueueInstructions


/-! Commands of the engines -/

/-- A command begins its work on a state with its counters at zero (R119), and with the values that bytes of a scratchpad
may still take for it (R91). -/
def work (s : State) (c : Cmd) : Work := .start s c.missed

/-- The command `c` stands first in a queue of core `k`, has the CODE given and may begin (R90, R118, R368). -/
structure AtHead (s : State) (k : Nat) (q : Queue) (code : Nat) (c : Cmd) : Prop where
  first : ((s.core k).eng.queue q).head? = some c
  going : (s.core k).eng.stopped q = false
  fresh : c.begun = false
  after : (s.core k).performedTo c.after = true
  code : recCode c.record = code

/-- What each command of the matrix and copy queues does at the head of its queue is what its body does, after which it
leaves the queue; where the body cannot go on yet, it stands at the head as before and begins anew; one whose CODE no
command of the queue has ends with status 0x3A (R368, R369). A refused command of the copy queue leaves the counters of
its conversions (R119), a refused MZERO, MMUL or MFILL the overflow count behind its handle (R370). -/
def CommandsRunAtTheHead : Prop :=
  ∀ (s : State) (k : Nat) (c : Cmd),
    (∀ x ∈ [(Instr.mzero k, Queue.mat, 1, mzeroBody k), (.mldb k, .mat, 2, mldbBody k), (.mmul k, .mat, 3, mmulBody k),
        (.mepi k, .mat, 4, mepiBody k), (.mrel k, .mat, 6, mrelBody k), (.mspill k, .mat, 7, mspillBody k),
        (.mfill k, .mat, 8, mfillBody k), (.copy k, .cpy, 0x20, copyBody k), (.fill k, .cpy, 0x21, fillBody k),
        (.pack k, .cpy, 0x22, packBody k), (.unpack k, .cpy, 0x23, unpackBody k),
        (.gather k, .cpy, 0x24, gatherBody k gatherEntry), (.scatter k, .cpy, 0x25, gatherBody k scatterEntry)],
      AtHead s k x.2.1 x.2.2.1 c → (x.2.2.1 = 0x22 → s.packWaits k = false) →
      (∀ r w, x.2.2.2 c (work s c) = .ok (r, w) → exec x.1 s = .next (w.st.endHead k x.2.1 c w.entry r)) ∧
      (∀ e, x.2.2.2 c (work s c) = .error e →
        (e.again = true → exec x.1 s = .next (s.keepTlbs k e.work.st)) ∧
        (e.again = false → exec x.1 s = .next ((e.work.st.note e.note).endHead k x.2.1 c e.work.entry
          ⟨e.status, if x.2.1 = .cpy then e.work.copyHi else e.work.st.refusedHi k c.record, false⟩)))) ∧
    (∀ x ∈ [(Instr.mzero k, Queue.mat), (.copy k, .cpy)], AtHead s k x.2 (recCode c.record) c →
      queueCode x.2 (recCode c.record) = false → exec x.1 s = .next (s.endHead k x.2 c 0 ⟨0x3A, 0, false⟩))

/-- The end of a command (R90, R119, R120, R370 to R372): it leaves its queue, memory and the registers stay; one marked CE
leaves an element with its status, its TAG and its second half in the result queue; a status that ends the grid stops
the queue and is kept as the core's asynchronous trap, without an element but for the one that R105 asks for. -/
def CommandEnd : Prop :=
  ∀ (u : State) (k id entry : Nat) (q : Queue) (c : Cmd) (rest : List Cmd) (x : Task) (r : CmdEnd), q ≠ .med →
    (u.core k).eng.queue q = c :: rest → u.taskOfCtx (corePkg k) c.ctx = some (id, x) → x.phase = .issued k →
    let t := u.endHead k q c entry r
    let ends := endsGrid q r.status
    t.mem = u.mem ∧ (t.core k).regs = (u.core k).regs ∧ (t.core k).eng.queue q = rest ∧
    (t.core k).eng.held = (u.core k).eng.held ++
      (if recCE c.record && (!ends || r.keep) then
        [⟨BitVec.ofNat 64 (recTag c.record + r.status * 2 ^ 16), BitVec.ofNat 64 r.hi⟩] else []) ∧
    (t.core k).eng.stopped q = ((u.core k).eng.stopped q || ends) ∧
    (ends = false → (t.core k).asyncTrap = (u.core k).asyncTrap) ∧
    (ends = true → (u.core k).asyncTrap = none → (u.core k).trapped = false → (t.core k).asyncTrap =
      some ⟨r.status, 1, if q = .mat then 0 else 1, 0, BitVec.ofNat 64 (recTag c.record + entry * 2 ^ 24)⟩)

/-- Where a command runs, and what its end does. -/
def Obligations.CommandRules : Prop :=
  CommandsRunAtTheHead ∧ CommandEnd


/-- A handle that a command names exists and is declared by the task that pushed it (R145, R382). -/
def handleOk (s : State) (d : Doer) (h : Nat) : Prop := h < 16 ∧ ∀ x, s.cmdHeader d = some x → h < x.accs

/-- MZERO sets the slot of its handle to zero, binding a free slot to an unbound one and filling a spilled one; MREL frees
handle and slot (R86, R87, R88, R96, R382).  MSPILL writes the image of a handle or B slot, MFILL restores one, and a
spilled B slot that it names is filled by the ownership trap before (R96, R112, R386, R458). -/
def HandleCommandResults : Prop :=
  ∀ (s : State) (k : Nat) (c : Cmd) (p : Nat),
    let e := (s.core k).eng
    let d := c.doer k
    let r := c.record
    let h := recNum r 4 1
    let ended := fun (u : State) (hi : Nat) => Host.Outcome.next (u.endHead k .mat c 0 ⟨0, hi, false⟩)
    (flagsOk r 1 = true → reserved r 5 64 = true → handleOk s d h →
      (AtHead s k .mat 1 c →
        (∀ a, find? e.handles h = some (.bound p) → find? e.acc p = some a → exec (.mzero k) s =
          ended (s.modEng k fun e => { e with acc := insert e.acc p ⟨a.owner, 0, [], []⟩ }) 0) ∧
        (find? e.handles h = none → e.handles.length < 8 → leastFrom (fun p => (find? e.acc p).isNone) 0 8 = some p →
          exec (.mzero k) s = ended (s.modEng k fun e =>
            { e with handles := insert e.handles h (.bound p), acc := insert e.acc p ⟨c.ctx, 0, [], []⟩ }) 0) ∧
        (find? e.handles h = some .spilled → leastFrom (fun p => (find? e.acc p).isNone) 0 8 = some p →
          s.shut (firmware k) .engine (s.slotImage k false h) 65600 = none → s.bad (s.slotImage k false h) 65600 = false →
          exec (.mzero k) s = ended ((s.ownershipTrap k).modEng k fun e =>
            { e with handles := insert e.handles h (.bound p), acc := insert e.acc p ⟨c.ctx, 0, [], []⟩ }) 0) ∧
        (find? e.handles h = none → 8 ≤ e.handles.length →
          exec (.mzero k) s = .next (s.endHead k .mat c 0 ⟨0x34, 0, false⟩))) ∧
      (AtHead s k .mat 6 c →
        (find? e.handles h = none → exec (.mrel k) s = ended s 0) ∧
        (find? e.handles h = some (.bound p) → exec (.mrel k) s =
          ended (s.modEng k fun e => { e with handles := erase e.handles h, acc := erase e.acc p }) 0))) ∧
    (flagsOk r 1 = true → reserved r 6 8 = true → reserved r 16 64 = true → recNum r 8 8 % 4096 = 0 →
      let i := recNum r 5 1
      let a := recNum r 8 8
      let fits := fun (bs : List Byte) => bytesNum bs 0 1 = h ∧ bytesNum bs 2 1 ≤ 2 * h ∧
        (bytesNum bs 2 1 = 0 ∨ i % 2 = bytesNum bs 2 1 - 1)
      let reaches := fun (n : Nat) (w : Work) =>
        eEach (upFrom 0 n) (fun x => do let _ ← eTranslate d .w ((a + 4096 * x) % 2 ^ 64)) (work s c) =
          .ok ((), w)
      (h = 0 → handleOk s d i →
        (AtHead s k .mat 7 c → ∀ x w v, find? e.handles i = some (.bound p) → find? e.acc p = some x → x.bad = [] →
          reaches 17 w → eWrite d 0 a (handleImage i ⟨c.ctx, x.ovf, x.data, []⟩) w = .ok ((), v) →
          exec (.mspill k) s = .next (v.st.endHead k .mat c v.entry ⟨0, 0, false⟩)) ∧
        (AtHead s k .mat 8 c → ∀ bs w, eRead d 0 a 65600 (work s c) = .ok (bs, w) → fits bs →
          let e' := (w.st.core k).eng
          let restores := fun (hs : List (Nat × HState)) => exec (.mfill k) s = .next ((w.st.modEng k fun e =>
            { e with handles := hs, acc := insert e.acc p (accOfImage c.ctx bs) }).endHead k .mat c w.entry
              ⟨0, bytesNum bs 8 2, false⟩)
          (find? e'.handles i = some (.bound p) → restores e'.handles) ∧
          (find? e'.handles i = none → e'.handles.length < 8 →
            leastFrom (fun p => (find? e'.acc p).isNone) 0 8 = some p → restores (insert e'.handles i (.bound p))))) ∧
      (h = 1 → i < 8 →
        (AtHead s k .mat 7 c → has e.bspilled i = false → ∀ w v,
          let b := (find? e.bslots i).filter (·.owner = c.ctx)
          reaches 5 w → eWrite d 0 a (bImage i b) w = .ok ((), v) →
          exec (.mspill k) s = .next (v.st.endHead k .mat c v.entry ⟨0, 0, false⟩)) ∧
        (AtHead s k .mat 8 c → ∀ bs w, eRead d 0 a 16960 (work s c) = .ok (bs, w) → fits bs →
          (∀ b, find? (w.st.core k).eng.bslots i = some b → b.owner = c.ctx) →
          let restores := fun (u : State) => exec (.mfill k) s = .next ((u.modEng k fun e =>
            { e with
              bspilled := delNat e.bspilled i
              bslots := match bOfImage c.ctx bs with
                | some b => insert e.bslots i b
                | none => erase e.bslots i }).endHead k .mat c w.entry ⟨0, 0, false⟩)
          (has (w.st.core k).eng.bspilled i = false → restores w.st) ∧
          (has (w.st.core k).eng.bspilled i = true → w.st.shut (firmware k) .engine (w.st.slotImage k true i) 16960 = none →
            w.st.bad (w.st.slotImage k true i) 16960 = false →
            restores (w.st.ownershipTrap k)))))

/-- The records of a tile command and of the parts of the L space it names are in order (R145, R369). -/
structure RowsOk (s : State) (k : Nat) (c : Cmd) (h row n off hi : Nat) : Prop where
  handle : handleOk s (c.doer k) h
  rows : 1 ≤ n ∧ row + n ≤ 128
  bank : off / 0x1_0000 < (s.core k).spbanks
  top : hi ≤ (off / 0x1_0000 + 1) * 0x1_0000 + 16 ∧ hi ≤ (s.core k).spbanks * 0x1_0000
  declared : ∀ x, s.cmdHeader (c.doer k) = some x → hi ≤ x.scratch

/-- MMUL adds the products of the A rows with the B slot to the rows of its accumulator tile (R77, R383), the slot as the
model reads a pair whose low plane is gone (log 59); a byte of the A
rows that the core has stored to since the push has its value before or after any of those stores, each byte for itself
(R91); MLDB fills the B slot, or the pair, from a tile (R76, R82, R384); MEPI writes the rows of a tile through the bank's
format and scale, and after them the counters with the TAG, ends with 0x36 above a threshold of MTHR, and frees the handle
where asked (R92, R93, R385). -/
def TileCommandResults : Prop :=
  ∀ (s : State) (k : Nat) (c : Cmd) (p : Nat) (a : AccSlot),
    let e := (s.core k).eng
    let d := c.doer k
    let r := c.record
    let h := recNum r 4 1
    let row := recNum r 6 1
    let n := recNum r 8 2
    let off := recNum r 12 4
    let f := (s.core k).fmtAt (off / 0x1_0000)
    let sc := (s.core k).scaleAt (off / 0x1_0000)
    let esz := elemSize f
    (AtHead s k .mat 3 c → find? e.handles h = some (.bound p) → find? e.acc p = some a → a.bad = [] →
      flagsOk r 1 = true → reserved r 7 8 = true → reserved r 10 12 = true → reserved r 16 64 = true →
      let bp := recNum r 5 1
      bp < 8 → matFmt f = true → (if f = .ec8 then n % 16 = 0 ∧ off % 64 = 0 else off % (128 * esz) = 0) →
      ∀ (hi : Nat) (rows : List (List Nat)), s.endA d f off n = hi → RowsOk s k c h row n off hi →
      hi ≤ (off / 0x1_0000 + 1) * 0x1_0000 →
      ∀ x m, eRowsA d f off n (work s c) = .ok (rows, ⟨{ s with free := x }, 0, 0, 0, 0, m⟩) →
      has e.bspilled bp = false → has e.bspilled (bp + 1) = false →
      (∀ b, find? e.bslots bp = some b → b.owner = c.ctx → b.plane ≠ 2 ∧ b.bad = false) →
      (∀ b, find? e.bslots (bp + 1) = some b → b.owner = c.ctx → b.bad = false) →
      let out := macRows a row (portFmt f) sc (e.bView c.ctx bp) rows
      exec (.mmul k) s = .next (({ s with free := x }.modEng k fun e => { e with acc := insert e.acc p out }).endHead k
        .mat c 0 ⟨0, min 0xFFFF out.ovf, false⟩)) ∧
    (f ≠ .ec8 → s.bad (s.windowPa k off) (n * 128 * esz) = false → c.missed = [] → eRowsA d f off n (work s c) =
      .ok ((pieces (128 * esz) n (s.bytes (s.windowPa k off) (n * 128 * esz))).map (rowElems f), work s c)) ∧
    (∀ bs w m, eSpad k off m (work s c) = .ok (bs, w) → (∀ x, w.st.byte x = s.byte x) ∧
      ∀ i < m, let pa := s.windowPa k off + i
        bs.getD i 0 = s.byte pa ∨ ∃ vs, find? c.missed pa = some vs ∧ bs.getD i 0 ∈ vs) ∧
    (AtHead s k .mat 2 c → flagsOk r 1 = true → reserved r 6 8 = true → reserved r 32 64 = true →
      let bp := h
      let rsp := recNum r 5 1
      let ra := recNum r 8 8
      let k0 := recNum r 16 8
      let j0 := recNum r 24 8
      bp < 8 → (rsp = 0 ∨ rsp = 1 ∨ rsp = 3) → ra % 64 = 0 →
      (rsp = 1 → ∀ x, s.cmdHeader d = some x → ra + 192 ≤ x.scratch) → (rsp = 1 → s.cmdHeader d = none → ra + 192 ≤ 2 ^ 64) →
      ∀ sh w, eShape d rsp ra (work s c) = .ok (sh, w) →
        let o := w.st.opnd k sh
        let spans := w.st.tileSpans d o k0 j0
        let tile := { o with base := (o.addr [j0, k0]).toNat }
        sh.rank = 2 → k0 + 128 ≤ sh.dims.getD 1 0 → j0 + 128 ≤ sh.dims.getD 0 0 → matFmt o.fmt = true →
        (o.fmt = .ec8 → j0 % 128 = 0) → (o.fmt = .bf16 → bp % 2 = 0) →
        (if o.space = 2 ∧ o.fmt ≠ .ec8 then
          eAwaitX d tile [128, 128] w = .ok ((), w) ∧ 0 ≤ o.addr [j0, k0] ∧ w.st.opndIn d tile [128, 128] = true
        else ∀ x ∈ spans, w.st.spanIn d o.space o.base x.1 x.2 = true) →
        (o.space = 1 → ∀ x ∈ spans, 0 ≤ x.1 ∧ x.2 ≤ w.st.scratchOf d) →
        ∀ rows v, eTile d o k0 j0 w = .ok (rows, v) →
          (∀ i b, (i = bp ∨ i = bp + 1) → find? (v.st.core k).eng.bslots i = some b → b.owner = c.ctx) →
          (∀ i, (i = bp ∨ i = bp + 1) → has (v.st.core k).eng.bspilled i = false) →
          let fills := fun (f : Engine → Engine) =>
            exec (.mldb k) s = .next ((v.st.modEng k f).endHead k .mat c v.entry ⟨0, 0, false⟩)
          (∀ b, tileSlots (portFmt o.fmt) c.ctx (BitVec.ofInt 8 o.scale) rows = [b] → fills fun e =>
            { e with bspilled := delNat e.bspilled bp, bslots := insert e.bslots bp b }) ∧
          (∀ b b', tileSlots (portFmt o.fmt) c.ctx (BitVec.ofInt 8 o.scale) rows = [b, b'] → fills fun e =>
            { e with
              bspilled := delNat (delNat e.bspilled bp) (bp + 1)
              bslots := insert (insert e.bslots bp b) (bp + 1) b' })) ∧
    (AtHead s k .mat 4 c → find? e.handles h = some (.bound p) → find? e.acc p = some a → a.bad = [] →
      a.ovf < 2 ^ 16 → flagsOk r 2 = true → reserved r 5 6 = true → reserved r 7 8 = true → reserved r 10 12 = true →
      reserved r 16 64 = true → off % 64 = 0 → f ≠ .raw → f ≠ .ec8 →
      RowsOk s k c h row n off (off + n * 128 * esz + 16) →
      off + n * 128 * esz ≤ (off / 0x1_0000 + 1) * 0x1_0000 → c.missed = [] →
      let conv := fun (i j : Nat) => fconv f .near ((val .f32 (look a.data 0 (128 * (row + i) + j)).toNat).scale (-sc))
      let all := (List.range n).flatMap fun i => (List.range 128).map fun j => conv i j
      let sat := min 0xFFFF (all.countP (·.sat))
      let nan := min 0xFFFF (all.countP (·.nan))
      let sum := sat + nan * 2 ^ 16 + a.ovf * 2 ^ 32
      let mthr := (s.core k).mthr.toNat
      ∃ u : State, (∀ i j, i < n → j < 128 →
          u.num (s.windowPa k (off + (128 * i + j) * esz)) esz = (conv i j).bits % 2 ^ (8 * esz)) ∧
        u.num (s.windowPa k (off + n * 128 * esz)) 16 = sum + recTag r * 2 ^ 48 ∧
        (∀ x, (x < s.windowPa k off ∨ s.windowPa k (off + n * 128 * esz + 16) ≤ x) → u.byte x = s.byte x) ∧
        (u.core k).regs = (s.core k).regs ∧ (u.core k).eng.acc = e.acc ∧
        exec (.mepi k) s = .next ((if recFlag r 1 then
          u.modEng k (fun e => { e with handles := erase e.handles h, acc := erase e.acc p }) else u).endHead k .mat c 0
            ⟨if mthr % 2 ^ 16 < sat ∨ mthr / 2 ^ 16 % 2 ^ 16 < nan ∨ mthr / 2 ^ 32 % 2 ^ 16 < a.ovf then 0x36 else 0,
              sum, false⟩))

/-- The matrix commands on handles and tiles. -/
def Obligations.MatrixResults : Prop :=
  HandleCommandResults ∧ TileCommandResults


/-! Resident iteration -/

/-- MITER begins with its checks, and each MITER_PHASE runs one phase in the order of R103 and R104, counts into CNT what
the phase's conversions count, and keeps the loop state (R98, R101, R107, R110); on a core whose matrix queue a fault has
stopped no phase runs (R114).  The element of one that its checks refuse holds the loop state as ENQ has set it, which is
the model's reading (log 39). -/
def MiterRuns : Prop :=
  ∀ (s : State) (k : Nat) (c : Cmd) (rest : List Cmd),
    let d := c.doer k
    let r := c.record
    (s.core k).eng.mat = c :: rest → ((s.core k).eng.matStop = true → exec (.miterPhase k) s = .next s) ∧
    ((s.core k).eng.matStop = false →
    (c.begun = false → recCode r = 5 → (s.core k).performedTo c.after = true →
      let ends := fun (u : State) (st : Nat) =>
        exec (.miter k) s = .next (u.endHead k .mat c 0 ⟨st, (c.loop.map LoopState.element).getD 0, false⟩)
      (∀ w, miterChecks d r (.start s []) = .ok ((), w) →
        exec (.miter k) s = .next (w.st.setQueue k .mat (⟨r, c.ctx, c.handler, true, c.loop, c.units, c.after, c.missed⟩ :: rest))) ∧
      (∀ e, miterChecks d r (.start s []) = .error e → ends (e.work.st.note e.note) e.status) ∧
      (miterFields r = false → ends s 0x3A)) ∧
    (c.begun = true → ∀ l, c.loop = some l →
      (∀ l' w, phaseBody d r l (work s c) = .ok ((l', none), w) →
        ∃ m, exec (.miterPhase k) s =
            .next (w.st.setQueue k .mat (⟨r, c.ctx, c.handler, true, some m, c.units, c.after, w.missed⟩ :: rest)) ∧
          m.phase = l'.phase ∧ m.iter = l'.iter ∧ m.res = l'.res ∧ m.cnt = min 0xFFFF (l'.cnt + w.sat + w.nan)) ∧
      (∀ l' x w, phaseBody d r l (work s c) = .ok ((l', some x), w) →
        exec (.miterPhase k) s = .next (w.st.endHead k .mat c 0 x)) ∧
      (∀ e, phaseBody d r l (work s c) = .error e →
        (e.again = true → exec (.miterPhase k) s = .next (s.keepTlbs k e.work.st)) ∧
        (e.again = false → exec (.miterPhase k) s = .next ((e.work.st.note e.note).endHead k .mat c 0
          ⟨e.status, l.res.toNat + l.iter * 2 ^ 32 + min 0xFFFF (l.cnt + e.work.sat + e.work.nan) * 2 ^ 48, false⟩))) ∧
      (∀ x ∈ [(0, 1), (1, 2), (2, 3), (3, 4), (5, 6), (6, 7), (7, 8), (8, 9), (9, 10), (10, 11), (11, 1), (16, 17), (17, 18),
          (18, 19)], l.phase = x.1 → ∀ l' y w, phaseBody d r l (work s c) = .ok ((l', y), w) →
        y = none ∧ l'.phase = x.2 ∧ l'.iter = l.iter + (if x.1 = 11 then 1 else 0))))

/-- The phases that decide and compute (R102 to R105).  TEST takes the residual of S and ends with status 0x39 when it is a
NaN, above q5, or above q4 times the last one; leaves the loop when it is at most q3, or with 0x3B at the cap; goes on
with W, or with T where γ is zero.  W is q0·δ + q1·S + q2·W, rounded once.  INIT sets X to the leading coefficient on its
diagonal, ADD adds the next one and ends after CAP of them. -/
def MiterPhases : Prop :=
  ∀ (s : State) (d : Doer) (r : LineBits) (l : LoopState) (p : Nat) (a : AccSlot) (m : List (Nat × List Byte)),
    let w0 := Work.start s m
    let e := (s.core d.core).eng
    let q := fun (i : Nat) => val .f32 ((s.core d.core).regs.rq i).toNat
    let gammaZero := ((s.core d.core).regs.rq 2).toNat % 2 ^ 31 = 0
    let left := fun (l : LoopState) (st : Nat) =>
      if recFlag r 2 || recFlag r 3 then (⟨12, l.iter, l.cnt, l.res, l.hx, l.hw, l.hs, l.bp, l.slotx, l.slotw, l.slots,
        l.slotb⟩, none) else (l, some (CmdEnd.mk st l.element false))
    (l.phase = 4 → find? e.handles l.hs = some (.bound p) → find? e.acc p = some a → a.bad = [] →
      let n := residual a
      let x := val .f32 n
      let l' : LoopState := { l with res := BitVec.ofNat 32 n }
      let diverges := x.isNan = true ∨ (q 5).lt x = true ∨
        (0 < l.iter ∧ ((q 4).mul (val .f32 l.res.toNat)).lt x = true)
      let small := x.lt (q 3) = true ∨ x.same (q 3) = true
      (diverges → phaseBody d r l w0 = .ok ((l', some ⟨0x39, l'.element, true⟩), w0)) ∧
      (¬ diverges → small → phaseBody d r l w0 = .ok (left l' 0, w0)) ∧
      (¬ diverges → ¬ small → l.iter = miterCap r → phaseBody d r l w0 = .ok (left l' 0x3B, w0)) ∧
      (¬ diverges → ¬ small → l.iter ≠ miterCap r →
        (gammaZero → phaseBody d r l w0 = .ok (({ l' with phase := 8 }, none), w0)) ∧
        (¬ gammaZero → phaseBody d r l w0 = .ok (({ l' with phase := 5 }, none), w0)))) ∧
    (l.phase = 8 → ∀ pw y, find? e.handles l.hs = some (.bound p) → find? e.acc p = some a → a.bad = [] →
      find? e.handles l.hw = some (.bound pw) → find? e.acc pw = some y → y.bad = [] →
      ∃ out w, phaseBody d r l w0 = .ok (({ l with phase := 9 }, none), w) ∧
        w.st = s.modEng d.core (fun e => { e with acc := insert e.acc pw out }) ∧ out.owner = y.owner ∧ out.ovf = y.ovf ∧
        ∀ n, n < 16384 →
          let one := Val.ofInt (if n / 128 = n % 128 then 1 else 0)
          let old := val .f32 (if gammaZero then 0 else (look y.data 0 n).toNat)
          look out.data 0 n = BitVec.ofNat 32 (fconv .f32 .near ((((q 0).mul one).add .near
            ((q 1).mul (val .f32 (look a.data 0 n).toNat))).add .near ((q 2).mul old))).bits) ∧
    (l.phase = 16 → find? e.handles l.hx = some (.bound p) → find? e.acc p = some a →
      ∃ out w, phaseBody d r l w0 = .ok (({ l with phase := 17 }, none), w) ∧
        w.st = s.modEng d.core (fun e => { e with acc := insert e.acc p out }) ∧
        ∀ n, n < 16384 → look out.data 0 n =
          if n / 128 = n % 128 then (s.core d.core).regs.rq (miterCap r) else 0) ∧
    (l.phase = 19 → find? e.handles l.hx = some (.bound p) → find? e.acc p = some a → a.bad = [] →
      let l' : LoopState := { l with iter := l.iter + 1, phase := 17 }
      ∃ out w, phaseBody d r l w0 = .ok ((if l.iter + 1 = miterCap r then left l' 0 else (l', none)), w) ∧
        w.st = s.modEng d.core (fun e => { e with acc := insert e.acc p out }) ∧
        ∀ n, n < 16384 → look out.data 0 n =
          if n / 128 = n % 128 then BitVec.ofNat 32 (fconv .f32 .near
            ((val .f32 (look a.data 0 n).toNat).add .near (q (miterCap r - 1 - l.iter)))).bits
          else look a.data 0 n)

/-- MITER and its four phases. -/
def Obligations.MiterResults : Prop :=
  MiterRuns ∧ MiterPhases


/-! The copy engine -/

/-- FILL (R387, R388): every element of the destination's box holds the pattern, and in the scratchpad no other byte
changes.  The elements of the box do not overlap, as in any dense tile; the core has stored to no byte of a scratchpad
since the push (R91).  A command that names the scratchpad of a suspended task waits (R459). -/
def FillResults : Prop :=
  ∀ (s : State) (k : Nat) (c : Cmd), AtHead s k .cpy 0x21 c →
    let d := c.doer k
    let r := c.record
    let ds := recNum r 4 1
    let dr := recNum r 8 8
    let pat := recNum r 16 8
    flagsOk r 1 = true → (ds = 0 ∨ ds = 1 ∨ ds = 3) → dr % 64 = 0 → reserved r 5 8 = true → reserved r 24 64 = true →
    (ds = 1 → dr + 192 ≤ s.scratchOf d) → ∀ dh w, eShape d ds dr (work s c) = .ok (dh, w) →
      let o := w.st.opnd k dh
      let at_ := fun (i : Nat) => o.addr (boxIndex o.tiles i)
      eDeclOpnd d o true w = .ok ((), w) → o.fmt ≠ .ec8 →
      (∀ x, eAwaitX d o o.tiles w = .error x → x.again = true → exec (.fill k) s = .next (s.keepTlbs k x.work.st)) ∧
      (eAwaitX d o o.tiles w = .ok ((), w) → w.st.opndPlaced d o true = true →
      (∀ v, eFor (fun i => do
          eEntry i
          eStore d o i pat) 0 (boxSize o.tiles) w = .ok ((), v) →
        exec (.fill k) s = .next (v.st.endHead k .cpy c v.entry ⟨0, 0, false⟩)) ∧
      (o.space = 1 → w.missed = [] → (s.core k).spbanks ≤ 14 → (∀ i j, i < boxSize o.tiles → j < boxSize o.tiles → i ≠ j →
          at_ i + o.esz ≤ at_ j ∨ at_ j + o.esz ≤ at_ i) →
        ∃ (u : State) (entry : Nat), exec (.fill k) s = .next (u.endHead k .cpy c entry ⟨0, 0, false⟩) ∧
          (∀ i, i < boxSize o.tiles → u.num (s.windowPa k (at_ i).toNat) o.esz = pat % 2 ^ (8 * o.esz)) ∧
          (∀ x, (∀ i, i < boxSize o.tiles →
              x < s.windowPa k (at_ i).toNat ∨ s.windowPa k (at_ i).toNat + o.esz ≤ x) →
            u.byte x = s.byte x)))

/-- COPY (R55, R387, R388): element by element in the order of R388, each converted through both scales with one rounding
where the formats differ, unchanged where they are the same; rows of an EC8 source are decoded first, those of an EC8
destination written one after the other, encoded, or with the segments' bytes unchanged where the source is EC8 too.  A command
that names the scratchpad of a suspended task waits (R459).  The element counts what its conversions count (R119). -/
def CopyResults : Prop :=
  ∀ (s : State) (k : Nat) (c : Cmd), AtHead s k .cpy 0x20 c →
    let d := c.doer k
    let r := c.record
    let ss := recNum r 4 1
    let ds := recNum r 5 1
    let sr := recNum r 8 8
    let dr := recNum r 16 8
    let ended := fun (v : Work) => exec (.copy k) s = .next (v.st.endHead k .cpy c v.entry
      ⟨0, v.aux % 2 ^ 32 * 2 ^ 32 + v.nan * 2 ^ 16 + v.sat, false⟩)
    flagsOk r 1 = true → (ss = 0 ∨ ss = 1 ∨ ss = 3) → (ds = 0 ∨ ds = 1 ∨ ds = 3) → sr % 64 = 0 → dr % 64 = 0 →
    reserved r 6 8 = true → reserved r 24 64 = true → (ss = 1 → sr + 192 ≤ s.scratchOf d) →
    ∀ sh w, eShape d ss sr (work s c) = .ok (sh, w) → (ds = 1 → dr + 192 ≤ w.st.scratchOf d) →
    ∀ dh w', eShape d ds dr w = .ok (dh, w') →
      let so := w'.st.opnd k sh
      let o := w'.st.opnd k dh
      eDeclOpnd d so false w' = .ok ((), w') → eDeclOpnd d o true w' = .ok ((), w') →
      so.ec8Ok = true → o.ec8Ok = true → so.tiles = o.tiles →
      (∀ x, (eAwaitX d so so.tiles w' = .error x ∨ (eAwaitX d so so.tiles w' = .ok ((), w') ∧
          eAwaitX d o o.tiles w' = .error x)) → x.again = true → exec (.copy k) s = .next (s.keepTlbs k x.work.st)) ∧
      (eAwaitX d so so.tiles w' = .ok ((), w') →
      eAwaitX d o o.tiles w' = .ok ((), w') → w'.st.opndPlaced d so false = true →
      w'.st.opndPlaced d o true = true → (converts so.fmt o.fmt = true ∨ so.esz = o.esz) →
      let conv := fun (x : Nat) => eConvert so.fmt o.fmt so.scale o.scale x
      (so.fmt ≠ .ec8 → o.fmt ≠ .ec8 → ∀ v, eFor (fun i => do
          eEntry i
          let bs ← eRead d so.space (spaceAddr (so.addr (boxIndex o.tiles i))) so.esz
          let y ← conv (ofBytes bs)
          eStore d o i y) 0 (boxSize o.tiles) w' =
            .ok ((), v) → ended v) ∧
      (so.fmt = .ec8 → ∀ cs bs w'', eRowsOf d so (upFrom 0 so.rows) w' = .ok (⟨cs, bs, none⟩, w'') →
        (o.fmt ≠ .ec8 → boxSize o.tiles ≤ cs.length → ∀ v, eFor (fun i => do
            eEntry i
            let y ← conv (cs.getD i 0)
            eStore d o i y) 0 (boxSize o.tiles) w'' =
              .ok ((), v) → ended v) ∧
        (o.fmt = .ec8 → ∀ v, copyRows d ⟨so, some ⟨cs, bs, none⟩⟩ o (upFrom 0 o.rows) w'' = .ok ((), v) → ended v)) ∧
      (so.fmt ≠ .ec8 → o.fmt = .ec8 → ∀ v, copyRows d ⟨so, none⟩ o (upFrom 0 o.rows) w' = .ok ((), v) → ended v) ∧
      (∀ x (v : Work), converts so.fmt o.fmt = false → conv x v = .ok (x, v)) ∧
      (∀ x (v : Work), converts so.fmt o.fmt = true →
        let y := fconv o.fmt .near ((val so.fmt x).scale (so.scale - o.scale))
        conv x v = .ok (y.bits, ⟨v.st, if y.sat then min 0xFFFF (v.sat + 1) else v.sat,
          if y.nan then min 0xFFFF (v.nan + 1) else v.nan, v.aux, v.entry, v.missed⟩)))

/-- FILL and COPY. -/
def Obligations.CopyAndFillResults : Prop :=
  FillResults ∧ CopyResults


/-- GATHER and SCATTER entry by entry (R123 to R127): an index at or above LIMIT counts in AUX, a GATHER then writes zeros
and a SCATTER nothing; any other entry moves between the G address BASE + index · size and its place of the dense side,
unchanged where the formats are the same.  The core has stored to no byte of a scratchpad since the push (R91). -/
def GatherResults : Prop :=
  ∀ (s : State) (k : Nat) (c : Cmd),
    let d := c.doer k
    let g := (s.core k).gatherOp c.record
    (∀ x ∈ [(Instr.gather k, 0x24, gatherEntry d g), (.scatter k, 0x25, scatterEntry d g)], AtHead s k .cpy x.2.1 c →
      (∀ v, gatherChecks d c.record g (work s c) = .ok ((), work s c) → eFor x.2.2 0 g.count (work s c) = .ok ((), v) →
        exec x.1 s = .next (v.st.endHead k .cpy c v.entry
          ⟨0, v.aux % 2 ^ 32 * 2 ^ 32 + v.nan * 2 ^ 16 + v.sat, false⟩)) ∧
      (gatherFields c.record g = false → exec x.1 s = .next (s.endHead k .cpy c 0 ⟨0x3A, 0, false⟩))) ∧
    (∀ (j : Nat) (w : Work), w.missed = [] → w.st.bad (w.st.windowPa k (g.ioff + j * g.isize)) g.isize = false →
      let x := w.st.num (w.st.windowPa k (g.ioff + j * g.isize)) g.isize
      let dense := w.st.windowPa k (g.doff + j * g.ds)
      let w' : Work := ⟨w.st, w.sat, w.nan, w.aux, j, []⟩
      (g.limit ≠ 0 ∧ g.limit ≤ x →
        gatherEntry d g j w = .ok ((), ⟨w.st.homeBytes none false dense (List.replicate g.ds 0), w.sat, w.nan, w.aux + 1,
          j, []⟩) ∧
        scatterEntry d g j w = .ok ((), ⟨w.st, w.sat, w.nan, w.aux + 1, j, []⟩)) ∧
      ((g.limit = 0 ∨ x < g.limit) → g.conv = false →
        let a := g.base + x * g.es
        (2 ^ 64 ≤ a → gatherEntry d g j w = .error ⟨0x25, .none, w', false⟩ ∧
          scatterEntry d g j w = .error ⟨0x25, .none, w', false⟩) ∧
        (a < 2 ^ 64 →
          (∀ bs (v : Work), eRead d 0 a g.es w' = .ok (bs, v) → v.missed = [] → gatherEntry d g j w =
            .ok ((), ⟨v.st.homeBytes none false (v.st.windowPa k (g.doff + j * g.ds)) bs, v.sat, v.nan, v.aux, v.entry,
              []⟩)) ∧
          (w.st.bad dense g.ds = false → ∀ v u, let bs := w.st.bytes dense g.ds
            eCanWrite d 0 a bs.length w' = .ok ((), v) → eWrite d 0 a bs v = .ok ((), u) →
            scatterEntry d g j w = .ok ((), u)))))

/-- PACK waits while BUSY is set, once the page lets it read and write the header's byte (R133, R468); an invalid header
ends it with 0x3E, a tile not after the last one with 0x3C, too little capacity with 0x3D, and a tile of zeros appends
nothing.  Of any other it writes in turn the values, columns and row ends after those the matrix holds, the numbers of its
rows, the tile's end and its coordinates, and then the three counts, and counts the elements: those whose encodings in the
matrix's format and scale are not zero, row by row (R132).  UNPACK writes a whole dense tile: zeros where the matrix holds
no tile at the coordinates, else its elements converted at their places (R134, R389). -/
def CompressedTileResults : Prop :=
  ∀ (s : State) (k : Nat) (c : Cmd),
    let d := c.doer k
    let r := c.record
    let t := (s.core k).dense r
    let tr := recNum r 0x10 4
    let tc := recNum r 0x14 4
    let key := tr * 2 ^ 16 + tc
    let hi := fun (v : Work) => v.aux % 2 ^ 32 * 2 ^ 32 + v.nan * 2 ^ 16 + v.sat
    (AtHead s k .cpy 0x22 c → ∀ h w, tileChecks d r (work s c) = .ok (h, w) →
      (∀ e, eTranslate d .rw ((h.addr + 10) % 2 ^ 64) w = .error e → e.again = false → exec (.pack k) s =
        .next ((e.work.st.note e.note).endHead k .cpy c e.work.entry ⟨e.status, hi e.work, false⟩)) ∧
      (∀ x w₁, eTranslate d .rw ((h.addr + 10) % 2 ^ 64) w = .ok (x, w₁) → h.lock % 2 = 1 →
        exec (.pack k) s = .next s) ∧
      (∀ x w₁ w₂, eTranslate d .rw ((h.addr + 10) % 2 ^ 64) w = .ok (x, w₁) → h.lock % 2 = 0 →
        eWrite d 0 (h.at_ 10) [BitVec.ofNat 8 h.lock] w₁ = .ok ((), w₂) →
        (∀ v, packSteps d r h w₂ = .ok ((), v) →
          exec (.pack k) s = .next (v.st.endHead k .cpy c v.entry ⟨0, hi v, false⟩)) ∧
        (∀ e, packSteps d r h w₂ = .error e → e.again = false →
          exec (.pack k) s = .next ((e.work.st.note e.note).endHead k .cpy c e.work.entry
            ⟨e.status, hi e.work, false⟩)))) ∧
    (∀ (h : TileHdr) (w : Work),
      (h.ok = false → packSteps d r h w = .error ⟨0x3E, .none, w, false⟩) ∧
      (h.ok = true → 0 < h.nt → ∀ x v, eNumAt d h (h.coord + 4 * (h.nt - 1)) 4 w = .ok (x, v) →
        key ≤ x % 2 ^ 16 * 2 ^ 16 + x / 2 ^ 16 % 2 ^ 16 → packSteps d r h w = .error ⟨0x3C, .none, v, false⟩) ∧
      (h.ok = true → ∀ w₀, ((h.nt = 0 ∧ w₀ = w) ∨ (0 < h.nt ∧ ∃ x, eNumAt d h (h.coord + 4 * (h.nt - 1)) 4 w = .ok (x, w₀) ∧
          x % 2 ^ 16 * 2 ^ 16 + x / 2 ^ 16 % 2 ^ 16 < key)) → ∀ rows v, eCollect (upFrom 0 128) (fun i => do
            let x ← packRow d h ((w.st.core k).dense r) tr tc i
            pure (i, x)) w₀ = .ok (rows, v) →
        let held := rows.filter fun x => !x.2.isEmpty
        let es := held.flatMap (·.2)
        let full := h.capt < h.nt + 1 ∨ h.cape < h.nnz + es.length ∨ h.capr < h.nr + held.length
        let ends := (List.range held.length).map fun i => h.nnz + ((held.take (i + 1)).flatMap (·.2)).length
        (es = [] → packSteps d r h w = .ok ((), v)) ∧
        (es ≠ [] → full → packSteps d r h w = .error ⟨0x3D, .none, v, false⟩) ∧
        (es ≠ [] → ¬ full → tr < 2 ^ 16 → tc < 2 ^ 16 → ∀ z, eEach [
            (h.vals + elemSize h.ty * h.nnz, es.flatMap fun x => toBytes (elemSize h.ty) x.2),
            (h.cidx + h.nnz, es.map fun x => BitVec.ofNat 8 x.1),
            (h.rptr + 4 * (h.nr + 1), ends.flatMap (toBytes 4)),
            (h.ridx + h.nr, held.map fun x => BitVec.ofNat 8 x.1),
            (h.tptr + 4 * (h.nt + 1), toBytes 4 (h.nr + held.length)),
            (h.coord + 4 * h.nt, toBytes 4 (tr + tc * 2 ^ 16)),
            (0x0C, toBytes 4 (h.nt + 1) ++ toBytes 4 (h.nr + held.length) ++ toBytes 4 (h.nnz + es.length))]
              (fun x => eWrite d 0 ((h.addr + x.1) % 2 ^ 64) x.2) v = .ok ((), z) →
          packSteps d r h w = .ok ((), ⟨z.st, z.sat, z.nan, z.aux + es.length, z.entry, z.missed⟩))) ∧
      (∀ i, w.missed = [] →
        let dense := (w.st.core k).dense r
        let sz := elemSize dense.fmt
        let n := if 128 * tr + i < h.rows then min 128 (h.cols - 128 * tc) else 0
        let at_ := w.st.windowPa k (dense.off + 128 * i * sz)
        w.st.bad at_ (n * sz) = false →
        let enc := fun (j : Nat) =>
          (fconv h.ty .near ((val dense.fmt (w.st.num (at_ + j * sz) sz)).scale (dense.scale - h.scale))).bits
        ∃ v, packRow d h dense tr tc i w =
          .ok ((List.range n).filterMap (fun j => if enc j = 0 then none else some (j, enc j)), v))) ∧
    (AtHead s k .cpy 0x23 c → ∀ h w, tileChecks d r (work s c) = .ok (h, w) →
      (h.ok = false → exec (.unpack k) s = .next (w.st.endHead k .cpy c w.entry ⟨0x3E, hi w, false⟩)) ∧
      (h.ok = true → (w.st.core k).dense r = t → ∀ lo w₁, tileSearch d h key 33 0 h.nt w = .ok (lo, w₁) →
        let writes := fun (es : List (Nat × Nat)) (w : Work) =>
          ∀ xs v u, eCollect es (fun e => do
              let x ← eCount (fconv t.fmt .near ((val h.ty e.2).scale (h.scale - t.scale)))
              pure (e.1, x)) w = .ok (xs, v) →
            eWrite d 1 t.off ((upFrom 0 16384).flatMap fun n => toBytes (elemSize t.fmt) (look xs 0 n)) v = .ok ((), u) →
            exec (.unpack k) s = .next (u.st.endHead k .cpy c u.entry ⟨0,
              (u.aux + xs.length) % 2 ^ 32 * 2 ^ 32 + u.nan * 2 ^ 16 + u.sat, false⟩)
        (h.nt ≤ lo → writes [] w₁) ∧
        (lo < h.nt → ∀ x w₂, eNumAt d h (h.coord + 4 * lo) 4 w₁ = .ok (x, w₂) →
          (x ≠ tr + tc * 2 ^ 16 → writes [] w₂) ∧
          (x = tr + tc * 2 ^ 16 → ∀ es w₃, tileElems d h lo w₂ = .ok (es, w₃) →
            writes es w₃))))

/-- GATHER, SCATTER, PACK and UNPACK. -/
def Obligations.GatherAndTileResults : Prop :=
  GatherResults ∧ CompressedTileResults


/-- FETCHR begins with its checks, once the stores that its core posted before the push are performed (R216); each unit that
arrives is written at its place, once no home of it defers the write (R494), and with the last the command ends and reports
its number of units; a read that fails ends it with 0x5A and the units that arrived (R135, R390). -/
def FetchResults : Prop :=
  ∀ (s : State) (k : Nat) (c : Cmd) (rest : List Cmd), (s.core k).eng.cpy = c :: rest → recCode c.record = 0x26 →
    let d := c.doer k
    let r := c.record
    let len := recNum r 16 4
    (c.begun = false → (s.core k).eng.cpyStop = false → (s.core k).performedTo c.after = true →
      (∀ us w, fetchChecks d r (.start s []) = .ok (us, w) → exec (.fetchr k) s =
        .next (w.st.setQueue k .cpy (⟨r, c.ctx, c.handler, true, c.loop, us, c.after, c.missed⟩ :: rest))) ∧
      (∀ e, fetchChecks d r (.start s []) = .error e →
        (e.again = true → exec (.fetchr k) s = .next (s.keepTlbs k e.work.st)) ∧
        (e.again = false →
          exec (.fetchr k) s = .next ((e.work.st.note e.note).endHead k .cpy c 0 ⟨e.status, 0, false⟩)))) ∧
    (c.begun = false → (s.core k).performedTo c.after = false → exec (.fetchr k) s = .next s) ∧
    (c.begun = true →
      (∀ u n, c.units.find? (·.unit = n) = some u →
        let m := min 4096 (len - 4096 * n)
        let data := s.winBytes (corePkg k) (recNum r 4 2) (recNum r 8 8 + 4096 * n) m
        let left := c.units.filter (·.unit ≠ n)
        let v := s.homeBytes (some k) u.prot u.pa data
        let waits := (upFrom (u.pa / 64) ((m + 63) / 64)).any (s.defers u.prot)
        (s.answer d.who .engine u.pa m).1 = 0 →
          (waits = true → exec (.fetchrUnitArrival k n) s = .next s) ∧
          (waits = false → left = [] → exec (.fetchrUnitArrival k n) s =
            .next (v.endHead k .cpy c 0 ⟨0, (len + 4095) / 4096 * 2 ^ 32, false⟩)) ∧
          (waits = false → left ≠ [] → exec (.fetchrUnitArrival k n) s =
            .next (v.setQueue k .cpy (⟨r, c.ctx, c.handler, true, c.loop, left, c.after, c.missed⟩ :: rest)))) ∧
      exec (.fetchrReadTimeout k) s = .next (s.endHead k .cpy c 0
        ⟨0x5A, ((len + 4095) / 4096 - c.units.length) * 2 ^ 32, false⟩))

/-! The media engine -/

/-- Commands of a die's media queue run out of order but for the VDECs of one decoder context (R136): what a VDEC or RSZ
does is what its body does, after which it leaves the queue, once the stores that its pusher posted before it are performed
(R216); a refused VDEC writes no picture (R138).  A stream outside R137 ends it with 0x3A.  A VDEC without a picture to
write keeps its decoder and says so in its element (R392); what a codec decodes is opaque, and a corrupt unit leaves the depth
and the size that the decoder had (log 10). -/
def MediaResults : Prop :=
  ∀ (s : State) (die idx : Nat) (c : MedCmd), (s.die die).med[idx]? = some c → has (s.die die).medStop c.ctx = false →
    let d := c.doer die
    let r := c.record
    let w0 := Work.start s []
    (∀ x ∈ [(Instr.vdec die idx, 0x40, vdecBody die c), (.rsz die idx, 0x41, rszBody die c)], recCode r = x.2.1 →
      (x.2.1 = 0x40 → ∀ y ∈ (s.die die).med.take idx, recCode y.record = 0x40 → recNum y.record 4 1 ≠ recNum r 4 1) →
      ((s.core c.core).performedTo c.after = false → exec x.1 s = .next s) ∧
      ((s.core c.core).performedTo c.after = true →
        (∀ e w, x.2.2 w0 = .ok (e, w) → exec x.1 s = .next (w.st.endMed die idx c e)) ∧
        (∀ e, x.2.2 w0 = .error e →
          (e.again = true → exec x.1 s = .next (s.keepTlbs c.core e.work.st)) ∧
          (e.again = false → exec x.1 s = .next ((e.work.st.note e.note).endMed die idx c
            ⟨e.status, if x.2.1 = 0x40 then 0xFFFF_FFFF * 2 ^ 32 else 0, false⟩))))) ∧
    (recCode r = 0x40 → (∃ y ∈ (s.die die).med.take idx, recCode y.record = 0x40 ∧ recNum y.record 4 1 = recNum r 4 1) →
      exec (.vdec die idx) s = .next s) ∧
    (queueCode .med (recCode r) = false → exec (.vdec die idx) s = .next (s.endMed die idx c ⟨0x3A, 0, false⟩)) ∧
    (let codec := recNum r 5 1
      let len := recNum r 0x10 4
      let pitch := recNum r 0x14 4
      let rows := recNum r 0x28 2
      flagsOk r 2 = true → recNum r 4 1 < 64 → 1 ≤ codec → codec ≤ 3 → len ≤ 2 ^ 26 → pitch % 64 = 0 → pitch ≤ 32768 →
      recNum r 0x18 8 % 4096 = 0 → recNum r 0x20 8 % 4096 = 0 → 64 ≤ rows → rows ≤ 4352 → reserved r 6 8 = true →
      reserved r 0x2A 64 = true →
      (openFor (s.die die) r = none → vdecBody die c w0 = .error ⟨0x3A, .none, w0, false⟩) ∧
      (∀ x, openFor (s.die die) r = some x → x.pending = [] →
        let keeps := fun (v : Work) (y : Decoder) (st : Nat) => vdecBody die c w0 = .ok (⟨st, 0xFFFF_FFFF * 2 ^ 32, false⟩,
          { v with st := v.st.modDie die fun m => { m with decoders := insert m.decoders (recNum r 4 1) y } })
        (len = 0 → keeps w0 { x with codec := codec } 0) ∧
        (len ≠ 0 → ∀ bs v verdict ten w h, eRead d 0 (recNum r 8 8) len w0 = .ok (bs, v) →
          Config.codecUnit codec x.bytes bs = (verdict, ten, w, h, 0) →
          (verdict = 1 ∨ (verdict ≠ 2 ∧ streamOk codec ten w h = false) →
            vdecBody die c w0 = .error ⟨0x3A, .none, v, false⟩) ∧
          (verdict = 2 ∨ (verdict ≠ 1 ∧ streamOk codec ten w h = true) →
            let shape := if verdict = 2 then (x.ten, x.width, x.height) else (ten, w, h)
            keeps v ⟨codec, x.bytes ++ bs, [], x.next, shape.1, shape.2.1, shape.2.2, x.corrupt || verdict == 2⟩
              (if verdict = 2 then 0x3F else 0)))))

/-- FETCHR and the media engine. -/
def Obligations.FetchAndMediaResults : Prop :=
  FetchResults ∧ MediaResults


/-! Steps of a core and of its surroundings -/

/-- The steps that write a register of a core (R26, R27, R54, R56, R93, R473): LSPLIT faults or changes the split, BFMT is
written while its bank is a scratchpad bank and no running command names it, MTHR keeps 48 bits, TLBINV with GO empties
the TLBs of its scope, the registers of firmware and of the group setup keep their fields, and TRAPCAUSE and TRAPINFO only
read (R5, R34, R36, R450, R464).  A VGRP that names a group of the core is set in each of its members, which keep of their
lines their own ones; that cores left out of a group are alone, and that any other value has no effect, is the model's
(R53, log 67). -/
def RegisterWriteSteps : Prop :=
  ∀ (s : State) (k bank : Nat) (v : Word),
    let c := s.core k
    let n := v.toNat % 32
    let root := BitVec.ofNat 64 (v.toNat / 2 ^ 12 % 2 ^ 32 * 2 ^ 12)
    ((n < 4 ∨ 14 < n) → exec (.lsplitWrite k v) s = .next (s.trapOn k { status := 0x14 } c.pc)) ∧
    (4 ≤ n → n ≤ 14 → n = c.spbanks → exec (.lsplitWrite k v) s = .next s) ∧
    (4 ≤ n → n ≤ 14 → n ≠ c.spbanks → c.sbuf = [] → c.sfly = [] → s.namedL k = false →
      ∃ t, exec (.lsplitWrite k v) s = .next t ∧
        t.core k = { c with spbanks := n, dcache := [], bfmt := (t.core k).bfmt } ∧
        (∀ j, j ≠ k → t.core j = s.core j) ∧
        (∀ p, t.byte p = if s.windowPa k (min n c.spbanks * 0x1_0000) ≤ p ∧ p < s.windowPa k (max n c.spbanks * 0x1_0000)
          then 0 else s.byte p)) ∧
    (s.namesBank k bank = false → bank < c.spbanks → exec (.bfmtWrite k bank v) s =
      .next (s.setCore k { c with bfmt := put c.bfmt 0 bank (v.setWidth 16 &&& 0xFF0F) })) ∧
    (s.namesBank k bank = false → c.spbanks ≤ bank → exec (.bfmtWrite k bank v) s = .next (s.setCore k c)) ∧
    (s.namesBank k bank = true → exec (.bfmtWrite k bank v) s = .next s) ∧
    exec (.mthrWrite k v) s = .next (s.setCore k { c with mthr := BitVec.ofNat 64 (v.toNat % 2 ^ 48) }) ∧
    (v.getLsbD 2 = false → exec (.tlbinv k v) s = .next s) ∧
    (v.getLsbD 2 = true → s.tlbBusy k (v.toNat % 4) = false →
      ∃ t, exec (.tlbinv k v) s = .next t ∧ (∀ j x, (j, x) ∈ t.cores → inTlbScope k (v.toNat % 4) j = true → x.tlb = []) ∧
        t.mem = s.mem ∧ (∀ j, inTlbScope k (v.toNat % 4) j = false → t.core j = s.core j)) ∧
    (∀ x ∈ [(0x050, { c with rasbase := v }), (0x200, c), (0x202, c), (0x201, { c with trapPc := v }),
        (0x210, { c with ptroot0 := root }), (0x211, { c with ptroot1 := root }),
        (0x031, { c with domreg := BitVec.ofNat 64 (v.toNat / 2 ^ 52 * 2 ^ 52 + c.domreg.toNat % 2 ^ 52) })],
      exec (.sysregWrite k x.1 v) s = .next (s.setCore k x.2)) ∧
    (let first := v.toNat / 16 % 64
      let size := v.toNat % 16
      let group := (List.range size).map fun i => sibling k (first + i)
      let regrouped := fun (m first size : Nat) => { s.core m with
        vgrpFirst := first
        vgrpSize := size
        dcache := (s.core m).dcache.filter fun x => x.owner == coreIndex m }
      let ok := coreNo k < 1536 ∧ size ∈ [1, 2, 4, 8] ∧ first = coreIndex k / size * size
      (¬ ok → exec (.sysregWrite k 0x011 v) s = .next s) ∧
      (ok → ∃ t, exec (.sysregWrite k 0x011 v) s = .next t ∧ t.mem = s.mem ∧
        (∀ m ∈ group, t.core m = regrouped m first size) ∧
        ∀ m, m ∉ group → t.core m =
          if group.any (fun j => has (s.pool j) m) then regrouped m (coreIndex m) 1 else s.core m))

/-- A region table or route table entry of a die is written at its home, its reserved bits staying zero, and no other byte
changes (R475, R478, R489, R490).  A page walk fills the core's TLB with the leaf it finds and changes no memory (R467,
R471); one that misses of a cluster share fills the TLBs of all the cores it serves, or is to give each its fault (R472). -/
def TableSteps : Prop :=
  ∀ (s : State) (die n k : Nat) (v : Word) (w : BitVec 32) (va : Word),
    let base := (s.pkg (die / 4)).id * 2 ^ 44 + 0x300_0000_0000 + 0x100_0000 * (die % 4)
    let region := base + 0x1_0000 + 8 * (n % 64)
    let route := base + 0x2_0000 + 4 * (n % 4096)
    (∃ t, exec (.regionTableWrite die n v) s = .next t ∧ t.num region 8 = (v &&& 0xC000_3FFF_FFFF_FFFF).toNat ∧
      ∀ p, (p < region ∨ region + 8 ≤ p) → t.byte p = s.byte p) ∧
    (∃ t, exec (.routeTableWrite die n w) s = .next t ∧ t.num route 4 = (w &&& 0x0007_FFFF).toNat ∧
      ∀ p, (p < route ∨ route + 4 ≤ p) → t.byte p = s.byte p) ∧
    let queue := (s.die (coreDie k)).walks.filter (·.fault.isNone)
    let shared := fun (x : Walk) => has x.cores k && x.unit == va.toNat % 2 ^ 57 / 4096
    (canonical va.toNat = true → (∀ x ∈ queue, shared x = false) →
      ∀ l, s.walk (s.who k) ((s.core k).root (s.who k).secure) (va.toNat % 2 ^ 57) = .ok l →
      ∃ t, exec (.pageWalk k va) s = .next t ∧ t.mem = s.mem ∧ (t.core k).tlb.head? = some l ∧
        (t.core k).regs = (s.core k).regs) ∧
    (canonical va.toNat = true → ∀ x, (queue.take 64).find? shared = some x →
      let found := s.walk { s.who k with secure := x.secure } x.root (va.toNat % 2 ^ 57)
      (∀ l, found = .ok l → x.cluster ≠ none → ∃ t, exec (.pageWalk k va) s = .next t ∧ t.mem = s.mem ∧
        (t.die (coreDie k)).walks = (s.die (coreDie k)).walks.filter (· ≠ x) ∧
        ∀ j ∈ x.cores, (t.core j).tlb.head? = some l) ∧
      (∀ st n, found = .error (st, n) → ∃ t, exec (.pageWalk k va) s = .next t ∧ t.mem = s.mem ∧
        (t.die (coreDie k)).walks = (s.die (coreDie k)).walks.map fun y => if y = x then { x with fault := some st } else y)) ∧
    (canonical va.toNat = true → (∀ x ∈ queue.take 64, shared x = false) → (∃ x ∈ queue, shared x = true) →
      exec (.pageWalk k va) s = .next s) ∧
    (canonical va.toNat = false → exec (.pageWalk k va) s = .next s)

/-- The writes of LSPLIT, BFMT, MTHR, TLBINV and of the tables, and a page walk. -/
def Obligations.RegisterAndTableSteps : Prop :=
  RegisterWriteSteps ∧ TableSteps


/-- The oldest buffered line leaves for its home (R50): it is under way in the own package, or a posted store towards
another.  A line under way is performed at its home after the earlier ones to that home: its bytes land there and nowhere
else, or the refusal becomes the core's asynchronous trap (R205, R206, R245); a line in the stripe that is rebuilt stays
under way (R494). -/
def BufferedLineSteps : Prop :=
  ∀ (s : State) (k idx : Nat) (b : BufLine) (r : List BufLine),
    let c := s.core k
    (s.me.sbuf = [] → exec .bufferLineTimeout s = .next s) ∧
    (s.me.sbuf = b :: r → s.me.journal = [] →
      (64 * b.line / 2 ^ 44 = s.idOf s.cur → exec .bufferLineTimeout s =
        .next (s.setMe { s.me with sbuf := r, sfly := s.me.sfly ++ [b] })) ∧
      (64 * b.line / 2 ^ 44 ≠ s.idOf s.cur → exec .bufferLineTimeout s =
        .next (s.setMe { s.me with
          sbuf := r
          journal := [⟨0, s.me.posts, .line b, .pending, s.me.node, [], [], []⟩]
          posts := s.me.posts + 1 }))) ∧
    (c.sfly[idx]? = some b →
      let u := s.setCore k { c with sfly := removeAt c.sfly idx }
      let first := 64 * b.line + (b.data.head?.map (·.1)).getD 0
      ((∃ a ∈ c.sfly.take idx, homeOf (64 * a.line) = homeOf (64 * b.line)) →
        exec (.bufferedLinePerform k idx) s = .next s) ∧
      ((∀ a ∈ c.sfly.take idx, homeOf (64 * a.line) ≠ homeOf (64 * b.line)) → s.defers b.prot b.line = true →
        ∃ t, exec (.bufferedLinePerform k idx) s = .next t ∧ t.mem = s.mem ∧ t.cores = s.cores) ∧
      ((∀ a ∈ c.sfly.take idx, homeOf (64 * a.line) ≠ homeOf (64 * b.line)) → s.defers b.prot b.line = false →
        ((u.answer (u.who k) .store first 1).1 = 0 → (b.data.map (·.1)).Nodup →
          ∃ t, exec (.bufferedLinePerform k idx) s = .next t ∧ (t.core k).sfly = removeAt c.sfly idx ∧
            (∀ o x, find? b.data o = some x → t.byte (64 * b.line + o) = x &&& writable (64 * b.line + o)) ∧
            (∀ p, (∀ o x, find? b.data o = some x → p ≠ 64 * b.line + o) → t.byte p = s.byte p)) ∧
        (∀ st n, u.answer (u.who k) .store first 1 = (st, n) → st ≠ 0 → exec (.bufferedLinePerform k idx) s =
          .next ((u.note n).asyncCause k { status := st, source := 2, info := refusal first none }))))

/-- A core's journal with the state of one entry changed. -/
def marked (c : Core) (i : Nat) (st : PostState) : Core :=
  { c with journal := c.journal.map fun e =>
      if e.idx = i then ⟨e.idx, e.num, e.what, st, e.node, e.lines, e.writes, e.sent⟩ else e }

/-- A core's journal with a line of one entry answered with a status. -/
def lineAnswered (c : Core) (i line st : Nat) : Core :=
  { c with journal := c.journal.map fun e =>
      if e.idx = i then ⟨e.idx, e.num, e.what, e.st, e.node, e.lines ++ [(line, st)], e.writes, e.sent⟩ else e }

/-- A core's journal without an entry. -/
def freed (c : Core) (i : Nat) : Core := { c with journal := c.journal.filter fun e => e.idx ≠ i }

/-- What a refusal that reaches a core leaves (R245, R446): the asynchronous trap of the first cause, whose entry stands
until it is taken in task mode; every later one is counted, and its entry frees. -/
def RefusalReaches : Prop :=
  ∀ (s : State) (k idx st : Nat) (i : Word), let c := s.core k
    let t := s.refused k idx st i
    t.mem = s.mem ∧
    (c.asyncTrap = none → c.trapped = false →
      (t.core k).asyncTrap = some { status := st, source := 2, info := i } ∧
      (c.mode = .task → (t.core k).journal = (marked c idx (.refused st i)).journal) ∧
      (c.mode = .handler → (t.core k).journal = (freed c idx).journal)) ∧
    ((c.asyncTrap ≠ none ∨ c.trapped = true) →
      (t.core k).asyncTrap = c.asyncTrap ∧ (t.core k).journal = (freed c idx).journal ∧
      (t.core k).laterTraps = c.laterTraps + 1 ∧
      (t.pkg (corePkg k)).counters.extra = bump (s.pkg (corePkg k)).counters.extra)

/-- Posted stores (R243 to R245, R253, R470): the acknowledgement of a performed one frees its entry once the deltas of its
writes are acknowledged; the lines of one for memory are performed one by one, each as one action, and with the last the
entry frees; one for a storage window is performed now; a refusal becomes the core's asynchronous trap.  An entry behind an
earlier one to a home of its own waits. -/
def PostedStoreSteps : Prop :=
  ∀ (s : State) (k idx : Nat) (e : JEntry), let c := s.core k
    c.entry idx = some e →
    (e.st = .performed →
      (s.unacked e.writes = false → exec (.postedStoreAck k idx) s = .next (s.setCore k (freed c idx))) ∧
      (s.unacked e.writes = true → exec (.postedStoreAck k idx) s = .next s) ∧
      exec (.postedStoreRefusal k idx) s = .next s) ∧
    (e.st = .pending → s.behind c e = true → (∀ l ∈ e.left, s.behindAt c e [homeOf (64 * l.1)] = true) →
      exec (.postedStoreAck k idx) s = .next s ∧ exec (.postedStoreRefusal k idx) s = .next s ∧
      exec (.xAccessArrival k idx) s = .next s ∧ exec (.messageArrival k idx) s = .next s) ∧
    (e.st = .pending →
      (∀ pa data l, e.what = .rst pa data false → e.left.find? (s.postDue k e) = some l → (l.2.map (·.1)).Nodup →
        let first := 64 * l.1 + (l.2.head?.map (·.1)).getD 0
        let last := ∀ x ∈ e.left, x.1 = l.1
        ((s.answer (s.who k) .store first 1).1 = 0 →
          exec (.postedStoreRefusal k idx) s = .next s ∧
          ∃ t, exec (.postedStoreAck k idx) s = .next t ∧
            (∀ o x, find? l.2 o = some x → t.byte (64 * l.1 + o) = x &&& writable (64 * l.1 + o)) ∧
            (∀ p, (∀ o x, find? l.2 o = some x → p ≠ 64 * l.1 + o) → t.byte p = s.byte p) ∧
            (¬ last → (t.core k).journal = (lineAnswered c idx l.1 0).journal) ∧
            (last → e.lines = [] → e.writes = [] → (t.core k).journal = (freed c idx).journal)) ∧
        (∀ st n, s.answer (s.who k) .store first 1 = (st, n) → st ≠ 0 →
          exec (.postedStoreAck k idx) s = .next s ∧
          (¬ last → exec (.postedStoreRefusal k idx) s = .next ((s.note n).setCore k (lineAnswered c idx l.1 st))) ∧
          (last → e.lines = [] → exec (.postedStoreRefusal k idx) s =
            .next (((s.note n).setCore k (lineAnswered c idx l.1 st)).refused k idx st (refusal first (some idx)))))) ∧
      (∀ pa data, e.what = .rst pa data false → data ≠ [] → pa % 64 + data.length ≤ 64 → e.lines = [] → e.sent = [] →
        s.behind c e = false → ∃ l, e.left = [l] ∧ s.postDue k e l = true ∧ l.1 = pa / 64 ∧
          (l.2.head?.map (·.1)) = some (pa % 64) ∧ (l.2.map (·.1)).Nodup ∧
          ∀ i, i < data.length → find? l.2 (pa % 64 + i) = some (data.getD i 0)) ∧
      (∀ p, e.what = .foreign [p] → s.behind c e = false →
        (∃ t, exec (.postedStoreAck k idx) s = .next t ∧ (t.core k).journal = (freed c idx).journal ∧ t.mem = s.mem ∧
          t.winBytes (corePkg k) p.unit p.off p.data.length = p.data) ∧
        exec (.postedStoreRefusal k idx) s =
          .next (s.refused k idx 0x50 (refusal (p.unit * 2 ^ 48 + p.off) (some idx))))) ∧
    (∀ st i, e.st = .refused st i →
      (e.heldBy c.asyncTrap = true → exec (.postedStoreRefusal k idx) s = .next s) ∧
      (e.heldBy c.asyncTrap = false → exec (.postedStoreRefusal k idx) s = .next (s.refused k idx st i)))

/-- Buffered lines leave and are performed, and posted stores are acknowledged or refused. -/
def Obligations.WriteOutSteps : Prop :=
  BufferedLineSteps ∧ PostedStoreSteps ∧ RefusalReaches


/-- Arrivals at a core (R42, R190, R336, R459): an X store is written to its scratchpads, a SEND's payload to the
scratchpad with its counter incremented after it, a pipe message enters its ring; each is then performed.  One outside the
scratchpad is refused with 0x22, one for a core whose task is not of the sender's node with 0x2A, one for a package out of
reach with 0x51; for a suspended task a message is kept in its spill; at a halted core it stays queued (R311). -/
def Obligations.ArrivalSteps : Prop :=
  ∀ (s : State) (k idx : Nat) (e : JEntry), let c := s.core k
    c.entry idx = some e → e.st = .pending → e.sent = [] → s.behind c e = false →
    (∀ pkg p, e.what = .xstore pkg [p] →
      let target := pkg * 2048 + p.unit
      let refuses := fun (st : Nat) => exec (.xAccessArrival k idx) s =
        .next (s.setCore k (marked c idx (.refused st (refusal (s.windowPa target p.off) (some idx)))))
      (∀ n, s.xRoute e.node target = .here n →
        (p.off + p.data.length ≤ (s.core n).spbanks * 0x1_0000 → (s.core n).spbanks ≤ 14 →
          ∃ t, exec (.xAccessArrival k idx) s = .next t ∧ (t.core k).journal = (marked c idx .performed).journal ∧
            (∀ i, i < p.data.length → t.byte (s.windowPa n p.off + i) = p.data.getD i 0) ∧
            (∀ q, (q < s.windowPa n p.off ∨ s.windowPa n p.off + p.data.length ≤ q) → t.byte q = s.byte q)) ∧
        ((s.core n).spbanks * 0x1_0000 < p.off + p.data.length → refuses 0x22)) ∧
      (s.xRoute e.node target = .refused → refuses 0x2A) ∧
      (∀ n, s.xRoute e.node target = .later n → exec (.xAccessArrival k idx) s = .next s)) ∧
    (∀ pkg n off counter data, e.what = .send pkg n off counter data →
      let target := pkg * 2048 + n
      let refuses := fun (st : Nat) => exec (.messageArrival k idx) s =
        .next (s.setCore k (marked c idx (.refused st (refusal (s.windowPa target off) (some idx)))))
      (s.reaches k (s.pkg pkg).id = false → refuses 0x51) ∧
      (s.reaches k (s.pkg pkg).id = true →
        (s.xRoute e.node target = .refused → refuses 0x2A) ∧
        (∀ m, s.xRoute e.node target = .here m → (s.core m).run = .halted → exec (.messageArrival k idx) s = .next s) ∧
        (∀ m, s.xRoute e.node target = .here m → (s.core m).run ≠ .halted →
          ((s.core m).spbanks * 0x1_0000 < off + data.length → refuses 0x22) ∧
          (off + data.length ≤ (s.core m).spbanks * 0x1_0000 → (s.core m).spbanks ≤ 14 →
            ∃ t, exec (.messageArrival k idx) s = .next t ∧ (t.core k).journal = (marked c idx .performed).journal ∧
              (t.core m).regs = (s.core m).regs.wk counter ((s.core m).regs.rk counter + 1) ∧
              (∀ i, i < data.length → t.byte (s.windowPa m off + i) = data.getD i 0) ∧
              (∀ q, (q < s.windowPa m off ∨ s.windowPa m off + data.length ≤ q) → t.byte q = s.byte q))) ∧
        (∀ m nd f r, s.xRoute e.node target = .later m → m ≠ k → e.node = some nd → (s.core m).fwd = f :: r →
          f.node = nd → f.core = none → f.spill.length < 64 →
          ∃ t, exec (.messageArrival k idx) s = .next t ∧ (t.core k).journal = (marked c idx .performed).journal ∧
            (t.core m).fwd = ⟨f.task, f.node, f.core, f.spill ++ [⟨off, counter, 255, data⟩]⟩ :: r))) ∧
    (∀ pkg n pipe id data m x pd, e.what = .pipe pkg n pipe id data → s.reaches k (s.pkg pkg).id = true →
      s.xRoute e.node (pkg * 2048 + n) = .here m → (s.core m).run ≠ .halted → find? s.tasks id = some x →
      ((s.node (x.graph, x.node)).map Node.pipes).bind (fun ps => ps.find? (·.num = pipe)) = some pd →
      let r := s.ring id pipe
      ∃ t, exec (.messageArrival k idx) s = .next t ∧ (t.core k).journal = (marked c idx .performed).journal ∧
        (r.count < pd.ring → r.ovr = [] → pd.at_ + pd.ring * pd.size ≤ 2 ^ 20 → data.length ≤ pd.size →
          t.ring id pipe = ⟨id, pipe, r.head, r.count + 1, [], r.fly - 1⟩ ∧
          ∀ i, i < data.length →
            t.byte (s.windowPa m (pd.at_ + (r.head + r.count) % pd.ring * pd.size) + i) = data.getD i 0) ∧
        ((pd.ring ≤ r.count ∨ r.ovr ≠ []) → t.mem = s.mem ∧
          t.ring id pipe = ⟨id, pipe, r.head, r.count, r.ovr ++ [data], r.fly - 1⟩))

/-- A refused full-empty request that is issued again is performed, or joins behind the requests there, or faults where its
home refuses it now (R10, R193, R478).  A foreign
atomic answers the old word with the word updated, 0x27 where the changer offers no operation and the page asks for one,
0x28 where the transport fails (R200).  A delta is applied by XOR, after the earlier ones of its home for that holder, and,
with its write complete, counts no more (R253,
R254); then it is retired (R255). -/
def Obligations.HomeSteps : Prop :=
  ∀ (s : State) (k idx : Nat),
    (∀ r, s.feWait[idx]? = some r →
      let rest := removeAt s.feWait idx
      let row := feRow r.form (has s.fe (r.word / 8))
      let at_ := s.coreAt r.word
      let here := r.node = none ∨ s.xRoute r.node at_ = .here at_
      let off := r.word % 0x20_0000
      (here → r.nack = false → exec (.feRequestReissue idx) s = .next s) ∧
      (here → s.feDefers r = true → exec (.feRequestReissue idx) s = .next s) ∧
      (r.node ≠ none →
        (∀ j, s.xRoute r.node at_ = .later j → exec (.feRequestReissue idx) s = .next s) ∧
        (s.xRoute r.node at_ = .refused → ∃ t, exec (.feRequestReissue idx) s = .next t ∧ t.mem = s.mem ∧ t.fe = s.fe ∧
          t.feWait = rest ∧ (t.core r.core).wait = .failed 0x2A) ∧
        (∀ j, s.xRoute r.node at_ = .here j → j ≠ at_ →
          ((s.core j).spbanks * 0x1_0000 < off + 8 → ∃ t, exec (.feRequestReissue idx) s = .next t ∧ t.mem = s.mem ∧
            t.fe = s.fe ∧ t.feWait = rest ∧ (t.core r.core).wait = .failed 0x22) ∧
          (off + 8 ≤ (s.core j).spbanks * 0x1_0000 → (feRow r.form (has s.fe (s.windowPa j off / 8))).1 = false →
            ∃ t full, exec (.feRequestReissue idx) s = .next t ∧ t.mem = s.mem ∧ t.fe = s.fe ∧
              t.feWait = rest ++ [⟨r.core, s.windowPa j off, r.form, r.data, r.prot, full, r.node⟩] ∧
              (t.core r.core).wait = .fe none))) ∧
      (here → r.nack = true → s.feDefers r = false → row.1 = false → ∃ t full, exec (.feRequestReissue idx) s = .next t ∧
        t.mem = s.mem ∧ t.fe = s.fe ∧
        t.feWait = rest ++ [⟨r.core, r.word, r.form, r.data, r.prot, full, r.node⟩] ∧
        (rest.length < 64 → full = false) ∧ (t.core r.core).wait = .fe none) ∧
      (∀ st n, here → r.nack = true → s.feDefers r = false → row.1 = true →
        s.homeRead (s.who r.core) .atomic r.word 8 = .error (st, n) →
        ∃ t, exec (.feRequestReissue idx) s = .next t ∧ t.mem = s.mem ∧ t.fe = s.fe ∧ t.feWait = rest ∧
          (t.core r.core).wait = .failed st) ∧
      (∀ bs, here → r.nack = true → row.1 = true → (∀ q ∈ rest, q.word ≠ r.word) → r.prot = false →
        s.homeRead (s.who r.core) .atomic r.word 8 = .ok bs →
        r.word % 2 ^ 44 < 0x300_0000_0000 → r.word % 8 = 0 →
        ∃ t, exec (.feRequestReissue idx) s = .next t ∧ t.feWait = rest ∧
          (t.core r.core).wait = .fe (some (BitVec.ofNat 64 (s.num r.word 8))) ∧
          t.num r.word 8 = (if row.2.1 then r.data.toNat else s.num r.word 8) ∧
          (∀ p, (p < r.word ∨ r.word + 8 ≤ p) → t.byte p = s.byte p) ∧
          (∀ w, has t.fe w = if w = r.word / 8 then row.2.2 else has s.fe w))) ∧
    (∀ r adv, (s.core k).wait = .foreign r none →
      let old := ofBytes (s.winBytes (corePkg k) r.win r.off r.ty.size)
      (adv = .neither → r.hs = true → ∀ f, exec (.foreignAtomic k adv f) s =
        .next (s.setCore k { s.core k with wait := .foreign r (some (.fault 0x27)) })) ∧
      ((adv ≠ .neither ∨ r.hs = false) →
        (∃ t, exec (.foreignAtomic k adv true) s = .next t ∧ (t.core k).wait = .foreign r (some (.fault 0x28)) ∧
          t.mem = s.mem) ∧
        ∃ t, exec (.foreignAtomic k adv false) s = .next t ∧ (t.core k).wait = .foreign r (some (.word old)) ∧
          t.mem = s.mem ∧
          (∀ x, r.op.new r.ty old r.v r.cmp = some x → t.winBytes (corePkg k) r.win r.off r.ty.size = toBytes r.ty.size x) ∧
          (r.op.new r.ty old r.v r.cmp = none → t.winMem = s.winMem))) ∧
    (∀ d, s.deltas[idx]? = some d →
      let there := (s.pkg (s.ownerOf d.holder)).joined
      (d.applied = false → there = true → (∀ e ∈ s.deltas.take idx, e.sameWay d = true → e.applied = true) →
        ∃ t, exec (.parityDeltaApply idx) s = .next t ∧ t.line d.line = s.line d.line ^^^ d.bits ∧
          (∀ p, (p < 64 * d.line ∨ 64 * d.line + 64 ≤ p) → t.byte p = s.byte p) ∧
          t.deltas[idx]? = some ⟨d.write, d.home, d.slice, d.core, d.line, d.bits, true⟩ ∧
          (∀ j, d.core = some j → (t.core j).prot = if (∀ e ∈ t.deltas, e.write = d.write → e.applied = true)
            then (s.core j).prot - 1 else (s.core j).prot)) ∧
      ((d.applied = true ∨ there = false ∨ ∃ e ∈ s.deltas.take idx, e.sameWay d = true ∧ e.applied = false) →
        exec (.parityDeltaApply idx) s = .next s) ∧
      ((∀ e ∈ s.deltas, e.write = d.write → e.applied = true) →
        exec (.deltaRetire idx) s = .next { s with deltas := removeAt s.deltas idx }) ∧
      ((∃ e ∈ s.deltas, e.write = d.write ∧ e.applied = false) → exec (.deltaRetire idx) s = .next s))

/-- Event messages (R181, R184, R187, R189): a remote arrival counts at the window of its node, which it is given where one
is free, waits at the unit where none is, and is dropped once its node runs no more; a remote EVSIG adds an event; a
refused message is sent again. -/
def EventMessageSteps : Prop :=
  ∀ (s : State) (u : Nat), let cl := s.cluster u
    (∀ k nd name cnt addr, cl.waiting = [] → cl.refused = [] → cl.fly = [.arrival k nd name cnt addr] →
      (s.live nd = false → exec (.remoteArrival u) s = .next (s.setCluster u { cl with fly := [] })) ∧
      (s.live nd = true → name < 512 →
        (∀ w, (cl.windows.find? (·.2 = nd)).map (·.1) = some w →
          let e := cl.entry (512 * w + name)
          (e.arr = 0 ∨ cnt = e.exp) → cl.harns = [] →
          ∃ t, exec (.remoteArrival u) s = .next t ∧ (t.cluster u).entry (512 * w + name) = arrivedAt e cnt ∧
            (t.cluster u).fly = [] ∧ t.mem = s.mem) ∧
        ((cl.windows.find? (·.2 = nd)) = none →
          (∀ w, leastFrom (fun w => (find? cl.windows w).isNone) 0 48 = some w → cl.harns = [] →
            ∃ t, exec (.remoteArrival u) s = .next t ∧ find? (t.cluster u).windows w = some nd ∧ (t.cluster u).fly = [] ∧
              (t.cluster u).entry (512 * w + name) = arrivedAt ⟨0, 0, 0⟩ cnt) ∧
          (leastFrom (fun w => (find? cl.windows w).isNone) 0 48 = none → exec (.remoteArrival u) s =
            .next (s.setCluster u { cl with fly := [], waiting := [.arrival k nd name cnt addr] }))))) ∧
    (∀ k line, cl.waiting = [] → cl.refused = [] → cl.fly = [.evsig k line] → (∀ w ∈ cl.eventWait, w.1 ≠ line) →
      exec (.remoteEvsig u) s = .next (s.setCluster u
        { cl with fly := [], events := put cl.events 0 line (min 255 (look cl.events 0 line + 1)) })) ∧
    (∀ m r, cl.refused = m :: r →
      exec (.eventMessageReissue u) s = .next (s.setCluster u { cl with refused := r, fly := m :: cl.fly }))

/-- The asynchronous trap is taken in task mode, not in the handler, and not before an instruction that has been granted
what it waits for or whose access has begun completes, nor before a load that has issued (R446).  An instruction that finds
the buffer of a follower full leaves a mark behind the 32 heads, and the network forwards nothing more to it (R227).  The
return-address store spills its oldest entry and fills its newest spilled one in the background, which no program sees
(R305); one with an uncorrectable error stays for the pop that reads it (R10; log 14). -/
def BackgroundSteps : Prop :=
  ∀ (s : State), let c := s.me
    (∀ t, c.asyncTrap = some t → c.mode = .task →
      (c.wait.granted = false → c.due ≠ .access → c.loads = [] → exec .asyncTrap s = .next (s.trapOn s.cur t c.pc)) ∧
      ((c.wait.granted = true ∨ c.due = .access ∨ c.loads ≠ []) → exec .asyncTrap s = .next s)) ∧
    ((c.asyncTrap = none ∨ c.mode = .handler) → exec .asyncTrap s = .next s) ∧
    (∀ x, 16 < c.ras.length → c.ras.getLast? = some x →
      let slot := s.rasSlot s.cur (c.rasD - c.ras.length)
      ∃ t, exec .rasSpill s = .next t ∧ t.num slot 8 = x.toNat ∧ t.me = { c with ras := c.ras.dropLast } ∧
        ∀ p, (p < slot ∨ slot + 8 ≤ p) → t.byte p = s.byte p) ∧
    (c.ras.length ≤ 16 → exec .rasSpill s = .next s) ∧
    (c.ras.length < min c.rasD 16 →
      let slot := s.rasSlot s.cur (c.rasD - c.ras.length - 1)
      (s.bad slot 8 = false →
        exec .rasFill s = .next (s.setMe { c with ras := c.ras ++ [BitVec.ofNat 64 (s.num slot 8)] })) ∧
      (s.bad slot 8 = true → exec .rasFill s = .next s)) ∧
    (min c.rasD 16 ≤ c.ras.length → exec .rasFill s = .next s) ∧
    (∀ m f r, c.member = some m → m.fly = f :: r →
      (m.buf.length < 32 → exec .harnessForward s =
        .next (s.setMe { c with member := some { m with buf := m.buf ++ [f], fly := r } })) ∧
      (32 ≤ m.buf.length → exec .harnessForward s =
        .next (s.setMe { c with member := some { m with buf := m.buf ++ [{ f with det := true }], fly := [],
                                                        last := true } })))

/-- Errors of the storage (R10, R94, R495): the failing rows of compute-in-memory slots are met by the read-back, which
marks their slots bad and counts each row; a double error of an accumulator word or a memory byte marks it, a single one is
corrected and counted, and no other state changes. -/
def StorageErrorSteps : Prop :=
  ∀ (s : State) (k i w pa : Nat),
    let count := fun (p : Nat) (f : Counters → Counters) =>
      Host.Outcome.next (s.setPkg p { s.pkg p with counters := f (s.pkg p).counters })
    (∃ t, exec .cimParityScrub s = .next t ∧ t.mem = s.mem ∧
      t.me.eng.bslots = s.me.eng.bslots.map (fun b =>
        (b.1, ⟨b.2.owner, b.2.plane, b.2.bad || b.2.hurt != [], [], b.2.scale, b.2.data, b.2.exps⟩)) ∧
      (t.pkg (corePkg s.cur)).counters.cimpar = max (s.pkg (corePkg s.cur)).counters.cimpar
        (min (2 ^ 64 - 1) ((s.pkg (corePkg s.cur)).counters.cimpar +
          (s.me.eng.bslots.map (·.2.hurt.length)).sum))) ∧
    let e := (s.core k).eng
    (∀ b, find? e.bslots i = some b → ∃ t x row, exec (.softError (.cim k i)) s = .next t ∧ t.mem = s.mem ∧ row < 128 ∧
      (t.core k).eng = { e with
        bslots := insert e.bslots i ⟨b.owner, b.plane, b.bad, addNat b.hurt row, b.scale, x, b.exps⟩ }) ∧
    (∀ a, find? e.acc i = some a →
      (∃ t, exec (.softError (.acc k i w true)) s = .next t ∧ t.mem = s.mem ∧
        (t.core k).eng = { e with acc := insert e.acc i ⟨a.owner, a.ovf, a.data, addNat a.bad (w % 16384)⟩ }) ∧
      ((s.pkg (corePkg k)).counters.accce < 2 ^ 64 - 1 → exec (.softError (.acc k i w false)) s =
        count (corePkg k) fun c => { c with accce := c.accce + 1 })) ∧
    exec (.softError (.mem pa true)) s = .next { s with ue := addNat s.ue pa } ∧
    ((s.pkg (s.ownerOf (pa / 2 ^ 44))).counters.memce < 2 ^ 64 - 1 → exec (.softError (.mem pa false)) s =
      count (s.ownerOf (pa / 2 ^ 44)) fun c => { c with memce := c.memce + 1 })

/-- Event messages, background work of a core, and errors of the storage. -/
def Obligations.UnitSteps : Prop :=
  EventMessageSteps ∧ BackgroundSteps ∧ StorageErrorSteps


/-! The dispatcher -/

/-- A task with another phase. -/
def phased (t : Task) (p : TaskPhase) : Task := { t with phase := p }

/-- HOBBLE takes up a first eligible task of a slice that has fewer than 16 hobbles in flight: one that claims nothing is
granted, one with too large a set becomes exclusive and stops the other issues of its node, any other begins to claim its
set, or to reserve it when it is old; a status of the task's own claim word, which is looked up first (log 45), or of the
set ends the grid (R161, R170 to R173, R175, R176).  Under the stop of another exclusive task one with too large a set
waits, and the older of the two holds the stop (R172).  Refused tasks return to their queue after their 128 cycles, and a
task past its age limit reserves (R171, R173). -/
def HobbleSteps : Prop :=
  ∀ (s : State) (id : Nat) (t : Task), find? s.tasks id = some t →
    let same := fun (v : State) => exec (.hobble id) s = .next v ∧ v.mem = s.mem
    let large := s.claimSet t = .ok none ∧ s.ownWord t = .ok ()
    let waits := s.firstInOrder id t = false ∨ 16 ≤ s.hobbles t.cluster
    let stands := s.inOrder t = true ∧ s.noneBefore id t = true
    let exclusive := fun (v : State) => ∃ y, find? v.tasks id = some y ∧ y.phase = .exclusive ∧ y.excl = true
    (s.firstInOrder id t = true → s.hobbles t.cluster < 16 →
      (t.elem = none → s.claimSet t = .ok (some []) ∧ s.ownWord t = .ok ()) ∧
      (s.claimSet t = .ok (some []) → s.ownWord t = .ok () → ∃ v y, same v ∧
        find? v.tasks id = some y ∧ y.phase = .granted ∧ y.issues = s.fresh ∧ v.fresh = s.fresh + 1) ∧
      (∀ e r, s.claimSet t = .ok (some (e :: r)) → s.ownWord t = .ok () → ∃ v, same v ∧
        find? v.tasks id = some (phased t (if s.aged t then .reserving (e :: r) else .hobbling (e :: r)))) ∧
      (large → ∃ v, same v ∧ exclusive v ∧ (s.launchOf t.graph ≠ none → (v.nodeSt t.key).stopFor = some id)) ∧
      (∀ st n, (s.ownWord t = .error (st, n) ∨ (s.ownWord t = .ok () ∧ s.claimSet t = .error (st, n))) →
        exec (.hobble id) s = .next ((s.note n).report t.key st (BitVec.ofNat 64 (t.elem.getD 0))))) ∧
    (waits → ¬ (stands ∧ large) → exec (.hobble id) s = .next s) ∧
    (waits → stands → large → ∃ v, same v ∧ exclusive v ∧
      ∀ x u, (s.nodeSt t.key).stopFor = some x → find? s.tasks x = some u → s.launchOf t.graph ≠ none →
        (v.nodeSt t.key).stopFor = some (if u.phase = .exclusive ∧ t.older u = true then id else x)) ∧
    (∃ v, exec (.hobbleRetryExpiry id) s = .next v ∧ v.mem = s.mem ∧
      find? v.tasks id = some (if t.phase = .waiting then phased t .queued else t)) ∧
    (∃ v, exec (.ageLimitExpiry id) s = .next v ∧ v.mem = s.mem ∧ find? v.tasks id = some { t with old := true })

/-- Claim, release and reservation messages at the home of a claim word (R170, R173).  A claimed word refuses, a reserved one
too but to the task its entry names; a grant sets bit 15 and clears a reservation.  A release clears bit 15.  A
reservation of a word without one takes the lowest free entry of the slice and sets bit 14 and the entry's number; one
of an older task takes over the entry (of a bound and an unbound task with one stamp the order is the model's choice: log
68).  No other byte of memory changes; a home of the wrong world performs nothing (R476). -/
def ClaimSteps : Prop :=
  ∀ (s : State) (id e pa : Nat) (rest : List Nat) (t : Task), find? s.tasks id = some t →
    let w := s.num pa 2
    let slice := s.sliceOf pa
    let named := s.entryTask slice (w % 256)
    let others := fun (v : State) => ∀ p, (p < pa ∨ pa + 2 ≤ p) → v.byte p = s.byte p
    pa % 2 ^ 44 < 0x300_0000_0000 →
    (t.phase = .hobbling (e :: rest) → s.live t.key = true → s.wordOf t e = .ok pa →
      (w.testBit 15 = true ∨ (w.testBit 14 = true ∧ named ≠ some id) → ∃ v, exec (.claimAt id e) s = .next v ∧
        v.mem = s.mem ∧ v.resv = s.resv ∧
        find? v.tasks id = some (phased t (if t.claims = [] then .waiting else .releasing))) ∧
      (w.testBit 15 = false → (w.testBit 14 = false ∨ named = some id) → ∃ v y, exec (.claimAt id e) s = .next v ∧
        v.num pa 2 = 2 ^ 15 + (if w.testBit 14 then w % 2 ^ 14 / 256 * 256 else w) ∧ others v ∧
        (w.testBit 14 = true → v.entryTask slice (w % 256) = none) ∧
        find? v.tasks id = some y ∧ y.claims = (e, pa) :: t.claims ∧
        y.phase = (if rest = [] then .granted else .hobbling rest))) ∧
    (t.phase = .hobbling (e :: rest) → s.live t.key = true → ∀ st n, s.wordOf t e = .error (st, n) →
      exec (.claimAt id e) s = .next ((s.note n).report t.key st (BitVec.ofNat 64 (t.elem.getD 0)))) ∧
    (∀ r, t.phase = .releasing → t.claims = (e, pa) :: r → ∃ v, exec (.releaseAt id e) s = .next v ∧
      (let st := (s.answer (dispatcherOf t.pkg) .atomic pa 2).1
       (st = 0 → v.num pa 2 = w % 2 ^ 15 ∧ others v) ∧ (st ≠ 0 → v.mem = s.mem)) ∧
      find? v.tasks id = some { t with claims := r, phase := if r = [] then .waiting else .releasing }) ∧
    (t.phase = .reserving (e :: rest) → s.live t.key = true → s.wordOf t e = .ok pa → rest ≠ [] →
      let goes := fun (v : State) => exec (.reserve id e) s = .next v ∧
        find? v.tasks id = some (phased t (.reserving rest))
      (∀ i, w.testBit 14 = false → s.freeEntry slice = some i → ∃ v, goes v ∧
        v.num pa 2 = w / 2 ^ 15 * 2 ^ 15 + 2 ^ 14 + w % 2 ^ 14 / 256 * 256 + i ∧ others v ∧
        v.resv = s.resv ++ [⟨slice, i, id, pa⟩]) ∧
      (w.testBit 14 = false → s.freeEntry slice = none → ∃ v, goes v ∧ v.mem = s.mem ∧ v.resv = s.resv) ∧
      (∀ x y, w.testBit 14 = true → named = some x → x ≠ id → find? s.tasks x = some y → ∃ v, goes v ∧ v.mem = s.mem ∧
        v.entryTask slice (w % 256) = some (if t.older y then id else x))) ∧
    (t.phase = .reserving [e] → s.live t.key = true → s.wordOf t e = .ok pa →
      let u := s.reserve pa id t
      ∀ x r, u.claimSet t = .ok (some (x :: r)) → u.ownWord t = .ok () → ∃ v, exec (.reserve id e) s = .next v ∧ v.mem = u.mem ∧
        find? v.tasks id = some (phased t (.hobbling (x :: r))))

/-- Hobbles, claims, releases and reservations. -/
def Obligations.NeighbourhoodSteps : Prop :=
  HobbleSteps ∧ ClaimSteps


/-- TASK_ISSUE and GANG_ISSUE (R143, R144, R155, R175, R29 to R31, R444): the granted task that is first takes the free core
of its cluster with the lowest number, which starts at the kernel's entry in task mode with its registers zero, MTHR all
ones and the declared scratchpad zero; a core whose SPBANKS would change waits for commands that name its scratchpad (R28).  The
tasks of a gang issue all or none, and only where none stands before one of them
(R158; of two gangs their first tasks decide, the model's choice: log 69).  Retirement frees what the task held and its
core (R154, R309); a pipe that is abandoned ends the grid with 0x45 (R157), and that its task is then not retired is the
model's choice (log 49).  Balance moves tasks that have never issued to adjacent clusters of their scope and changes nothing
else of them: of two slices whose counts differ by d the fuller one moves floor(d / 4), at most 16, as long as it has such
tasks, those of lower classes first (R177; which of them may move is the model's choice: log 68). -/
def Obligations.IssueSteps : Prop :=
  ∀ (s : State) (id k : Nat) (t : Task), s.TasksRise → find? s.tasks id = some t →
    (s.lowestFree t.cluster = some k → s.mayIssue id t = true → s.resumeFirst t.cluster t.hdr.prio = false →
      s.banksReady k (s.banksOf k t) = true → ∃ v ctx, exec (.taskIssue id) s = .next v ∧
        (let c := v.core k
         c.run = .running ∧ c.mode = .task ∧ c.pc = t.hdr.entry ∧ c.fline = none ∧ c.regs = .zero ∧ c.bfmt = [] ∧
          c.mthr = 0x0000_FFFF_FFFF_FFFF ∧ c.rasD = 0 ∧ c.join = [] ∧ c.wait = .none ∧ c.member = none ∧
          t.hdr.scratch ≤ c.spbanks * 0x1_0000 ∧
          c.task = some ⟨id, BitVec.ofNat 64 t.taskid, t.elem.elim (BitVec.allOnes 64) (BitVec.ofNat 64), t.graph, t.node,
            t.role, ctx, t.hdr⟩) ∧
        (∀ i, i < t.hdr.scratch → v.byte (s.windowPa k i) = 0) ∧
        (∃ y, find? v.tasks id = some y ∧ y.phase = .issued k ∧ y.ctxid = ctx)) ∧
    ((s.lowestFree t.cluster = none ∨ s.mayIssue id t = false ∨ s.resumeFirst t.cluster t.hdr.prio = true ∨
        (s.lowestFree t.cluster = some k ∧ s.banksReady k (s.banksOf k t) = false)) →
      exec (.taskIssue id) s = .next s) ∧
    (∀ n, s.node t.key = some n → n.counts ≠ [] →
      let first := s.gangFirst t.key = true
      let kept := exec (.gangIssue t.graph t.node) s = .next s
      (∀ x ∈ s.tasksOf t.key, (s.resumeFirst x.2.cluster (s.head x.2).hdr.prio = true → kept) ∧
        ∀ y ∈ s.tasks, y.2.key ≠ t.key → y.2.cluster = x.2.cluster →
          (s.mayIssue y.1 y.2 = true → kept) ∧
          (y.2.role = 0 → s.eligible y.1 y.2 = true → y.2.before (s.head x.2) = true → kept)) ∧
      ((s.gangFits t.key = false ∨ ¬ first) → kept) ∧
      (s.gangFits t.key = true → first → s.issueAll (s.tasksOf t.key) = none → kept) ∧
      (∀ u, s.gangFits t.key = true → first → s.issueAll (s.tasksOf t.key) = some u → exec (.gangIssue t.graph t.node) s = .next u ∧
        ∀ x ∈ s.tasksOf t.key, ∃ y j, find? u.tasks x.1 = some y ∧ y.phase = .issued j ∧
          (u.core j).task.map (·.id) = some x.1)) ∧
    (∀ x, (s.core k).wait = .exit → (s.core k).sbuf = [] → (s.core k).sfly = [] →
      (s.mayRetire k = false → exec (.taskRetire k) s = .next s) ∧
      (s.mayRetire k = true → exec (.taskRetire k) s = .next (s.retire k) ∧
        ((s.core k).task = some x → x.id = id → id < s.fresh →
          (s.abandons x = true → s.retire k = s.report (x.graph, x.node) 0x45 x.taskid) ∧
          (s.abandons x = false → let c := (s.retire k).core k
            c.task = none ∧ c.mode = .handler ∧ c.run = (if (s.core k).run = .halted then .halted else .idle) ∧
            c.eng.handles = [] ∧ c.eng.held = [] ∧ find? (s.retire k).tasks id = none)))) ∧
    (∀ pkg, ∃ v cl, exec (.balanceExchange pkg) s = .next v ∧ v.mem = s.mem ∧ v.cores = s.cores ∧
      find? v.tasks id = some { t with cluster := cl } ∧
      (cl ≠ t.cluster → t.fresh = true ∧ t.hdr.covers t.cluster cl = true ∧ cl / 32 = pkg) ∧
      ∀ a b, a / 32 = pkg → (b = a / 8 * 8 + (a + 1) % 8 ∨ a = b / 8 * 8 + (b + 1) % 8 ∨
          b = pkg * 32 + (a + 8) % 32 ∨ a = pkg * 32 + (b + 8) % 32) → b / 32 = pkg →
        let count := fun (c : Nat) => s.tasks.countP fun x => x.2.ready && x.2.cluster == c
        let moved := s.tasks.filter fun x => x.2.cluster == a && (find? v.tasks x.1).any (·.cluster == b)
        let stays := s.tasks.filter fun x => x.2.cluster == a && x.2.fresh && x.2.hdr.covers a b &&
          (find? v.tasks x.1).any (·.cluster == a)
        let due := min 16 ((count a - count b) / 4)
        moved.length ≤ due ∧ (stays ≠ [] → moved.length = due) ∧
        ∀ x ∈ moved, ∀ y ∈ stays, x.2.hdr.prio ≤ y.2.hdr.prio)

/-- Whether a core's task may make room for a task (R159): it is of another graph and of a lower class, runs in task mode,
and has not been asked already. -/
def mayYield (s : State) (u : Task) (k : Nat) : Prop :=
  ∃ x, (s.core k).task = some x ∧ x.graph ≠ u.graph ∧ x.hdr.prio < u.hdr.prio ∧ (s.core k).preempt = false ∧
    (s.core k).mode = .task ∧ s.live (x.graph, x.node) = true

/-- A pre-emption request (R159, R454) goes to a core whose task may make room for a ready one, never to one whose task is of
a higher class than another such, nor issued earlier than another of its class (which tasks are ready, and that a resumption
is no issue, is the model's reading: log 46); it reaches the cores of its harness or
gang together, and only where images and forwarding entries suffice. -/
def PreemptRequests : Prop :=
  ∀ (s : State) (cl : Nat),
    let ready := s.tasks.filter fun t => t.2.cluster == cl && !t.2.ovr && t.2.core.isNone && s.admits t.2.key cl
    let cores := (List.range 48).map fun i => cl / 32 * 2048 + cl % 32 * 48 + i
    let vs := cores.filter fun k => ready.any fun u => s.victim u.2 k
    (∀ u k, s.victim u k = true ↔ mayYield s u k) ∧
    ((s.lowestFree cl ≠ none ∨ vs = []) → exec (.preemptRequest cl) s = .next s) ∧
    (s.lowestFree cl = none → vs ≠ [] → ∃ k ∈ vs, (∀ j ∈ vs, (s.rank k).1 ≤ (s.rank j).1 ∧
        ((s.rank k).1 = (s.rank j).1 → (s.rank j).2 ≤ (s.rank k).2)) ∧
      (s.canSave (s.unit k) = false → exec (.preemptRequest cl) s = .next s) ∧
      (s.canSave (s.unit k) = true → ∃ v, exec (.preemptRequest cl) s = .next v ∧ v.mem = s.mem ∧ v.tasks = s.tasks ∧
        (∀ j ∈ s.unit k, (v.core j).preempt = true) ∧ ∀ j, j ∉ s.unit k → v.core j = s.core j))

/-- The context image `i` of a package lies in its HBM (R454). -/
def imageInHbm (s : State) (pkg i : Nat) : Prop := s.imageAt pkg i % 2 ^ 44 + 0x22_5000 ≤ 0x100_0000_0000

/-- TASK_SUSPEND (R455 to R457): once nothing of its core is under way the task's address, scalar registers and scratchpad
stand in its image, the task is suspended, and its core is free, with SOURCE 4 and the address in its trap registers and a
forwarding entry for the task; where something of the context cannot be saved, or the image not be read, the handler meets a
fault and nothing is (R10, R476; log 12).  TASK_RESUME (R460) restores them on a core that the task may take and no task
before it could (R158, R175), with the suspended members of its harness or gang, none of them still asked to be suspended
(R155, R234); which cores they take and which tasks stand before are the model's reading of those rules, logs 46 and 47.
What it restores is said for a task that has left no tile on the core it moves from. -/
def SuspendSteps : Prop :=
  ∀ (s : State) (id k i : Nat) (t : Task), find? s.tasks id = some t →
    let c := s.core k
    (∀ x, c.task = some x → x.id = id → c.sbuf = [] → c.sfly = [] →
      (s.maySuspend k = false → exec (.taskSuspend k) s = .next s) ∧
      (s.maySuspend k = true → t.image.or (s.pkg t.pkg).freeImage = some i → t.pkg = corePkg k →
        imageInHbm s t.pkg i →
        let a := s.imageAt t.pkg i
        let fails := ((s.withdraw k).modCore k Core.detach).saveFails k a x.hdr.scratch
        (fails ≠ none → ∃ v, exec (.taskSuspend k) s = .next v ∧ v.mem = s.mem ∧ find? v.tasks id = some t ∧
          (v.core k).service = false ∧ (v.core k).preempt = false) ∧
        (fails = none → ∃ v, exec (.taskSuspend k) s = .next v ∧
          (let d := v.core k
           d.task = none ∧ d.run = (if c.run = .halted then .halted else .idle) ∧ d.mode = .handler ∧
            d.trapCause = 0x4000 ∧ d.trapInfo = 0 ∧ d.fwd.getLast? = some ⟨id, (x.graph, x.node), none, []⟩ ∧
            d.eng.handles = [] ∧ d.eng.mat = [] ∧ d.eng.cpy = [] ∧ d.eng.held = []) ∧
          (∃ y, find? v.tasks id = some y ∧ y.phase = .suspended k i (c.wait == .arrived) ∧ y.image = some i ∧
            y.cluster = coreCluster k) ∧
          has (v.pkg t.pkg).images i = true ∧
          (c.member = none → v.num (a + 0x18) 8 = c.pc.toNat ∧ (v.core k).trapPc = c.pc) ∧
          (∀ n : Reg, v.num (a + 0x100 + 8 * n.toNat) 8 = (c.regs.rs n).toNat) ∧
          (∀ j, j < x.hdr.scratch → x.hdr.scratch ≤ 0xE_0000 → v.byte (a + 0xD000 + j) = s.byte (s.windowPa k j))))) ∧
    (∀ old arrived, t.phase = .suspended old i arrived →
      ((s.whole id t = false ∨ s.freeCore k = false ∨ s.mayResume t k = false) →
        exec (.taskResume id k) s = .next s) ∧
      (s.whole id t = true → s.freeCore k = true → s.mayResume t k = true →
        (s.places [k] (s.resumeWith id t) = none → exec (.taskResume id k) s = .next s) ∧
        (∀ ps, s.places [k] (s.resumeWith id t) = some ps → let all := (id, k) :: ps
          let may := fun (p : Nat × Nat) => s.mayTake (all.map (·.1)) (s.lead id t) p.1 p.2
          ((∃ p ∈ all, may p = false) → exec (.taskResume id k) s = .next s) ∧
          ((∀ p ∈ all, may p = true) → exec (.taskResume id k) s =
            .next (ps.foldl (fun (u : State) p => u.resumeOn p.1 p.2) (s.resumeOn id k)))) ∧
        (s.resumeWith id t = [] → s.mayTake [id] (s.lead id t) id k = true →
          let ready := (if k = old then s else s.spillOld old t.ctxid).ensureWindow t.key (coreCluster k)
          let fails := ready.restoreFails k (s.imageAt t.pkg i) t.hdr.scratch
          (fails ≠ none → ∃ v y, exec (.taskResume id k) s = .next v ∧ find? v.tasks id = some y ∧ y.phase = .issued k ∧
            (v.core k).service = false) ∧
          (fails = none → s.spilled old id = [] → imageInHbm s t.pkg i → s.ownerImage t.pkg t.ctxid = some (t, i) →
          t.hdr.scratch ≤ 0xE_0000 → (s.core k).spbanks ≤ 14 →
          (k = old ∨ ∀ b ∈ (s.core old).eng.bslots, b.2.owner ≠ t.ctxid) →
          let a := s.imageAt t.pkg i
          ∃ v, exec (.taskResume id k) s = .next v ∧
            (let d := v.core k
             d.run = .running ∧ d.mode = .task ∧ d.task.map (·.id) = some id ∧ d.fline = none ∧
              d.pc = BitVec.ofNat 64 (s.num (a + 0x18) 8) ∧
              (∀ n : Reg, n ≠ 0 → d.regs.rs n = BitVec.ofNat 64 (s.num (a + 0x100 + 8 * n.toNat) 8)) ∧
              d.wait = (t.harn.elim (if arrived then .arrived else .none) fun x => .harn x none) ∧ d.preempt = false) ∧
            (∃ y, find? v.tasks id = some y ∧ y.phase = .issued k ∧ y.cluster = coreCluster k)))))

/-- Pre-emption requests, suspension and resumption. -/
def Obligations.SuspensionSteps : Prop :=
  PreemptRequests ∧ SuspendSteps


/-! Graphs -/

/-- A number in the host's memory, which wraps at 2^64. -/
def hostNum (s : State) (a n : Nat) : Nat := ofBytes ((upFrom a n).map fun i => look s.hostMem 0 (i % 2 ^ 64))

/-- A control node that is due completes by the word at its home (R147): a conditional takes its then-edges, label 1, for
w ≠ 0 and else its else-edges, label 0; a switch takes edge w, or edge n − 1 where w is n or more; a loop takes its exit
edges, label 0, for w = 0, runs its body once for another w, with every body node reset, and exits with 0x43 in its
status once its cap is reached (R149).  A word that cannot be read, for whatever reason, fails the node with 0x44 (R150; log
33), and the body nodes keep their pass counts (log 31): two choices of the model.  The controller then takes the launch as
far as it goes. -/
def ControlNodeSteps : Prop :=
  ∀ (s : State) (graph i : Nat) (l : Launch) (n : Node), s.launchOf graph = some l → s.node (graph, i) = some n →
    let k := (graph, i)
    let word := fun (a : Word) => s.serviceWord (dispatcherOf (graphPkg graph)) a.toNat
    let due := l.faulted = false ∧ l.stage = .running ∧ controlDue l i n = true
    let goes := fun (v : State) => exec (.controlNodeEval graph i) s = .next (v.settle graph) ∧ v.mem = s.mem ∧
      v.cores = s.cores ∧ v.tasks = s.tasks ∧
      ∀ b, b ≠ graph → find? v.graphs b = find? s.graphs b
    let takes := fun (label status : Nat) => ∃ v, goes v ∧ (v.nodeSt k).run = .done ∧ (v.nodeSt k).status = status ∧
      (v.nodeSt k).passes = (s.nodeSt k).passes ∧ has (v.nodeSt k).taken label = true ∧
      ∀ j, j ≠ i → v.nodeSt (graph, j) = s.nodeSt (graph, j)
    (∀ a w, due → n.kind = .cond a → word a = .ok w → takes (if w = 0 then 0 else 1) 0) ∧
    (∀ a m w, due → n.kind = .switch a m → word a = .ok w → takes (if w < m then w else m - 1) 0) ∧
    (∀ a b e cap w, due → n.kind = .loop a b e cap → word a = .ok w →
      (w = 0 → takes 0 0) ∧
      (w ≠ 0 → cap ≠ 0 → cap ≤ (s.nodeSt k).passes → takes 0 0x43) ∧
      (w ≠ 0 → (cap = 0 ∨ (s.nodeSt k).passes < cap) → (i < b ∨ e < i) → ∃ v, goes v ∧ (v.nodeSt k).run = .running ∧
        (v.nodeSt k).taken = [1] ∧ (v.nodeSt k).passes = min 0xFFFF ((s.nodeSt k).passes + 1) ∧
        (∀ j, b ≤ j → j ≤ e → v.nodeSt (graph, j) = { NodeSt.idle with passes := (s.nodeSt (graph, j)).passes }) ∧
        ∀ j, (j < b ∨ e < j) → j ≠ i → v.nodeSt (graph, j) = s.nodeSt (graph, j))) ∧
    (∀ a st x, due → (n.kind = .cond a ∨ (∃ m, n.kind = .switch a m) ∨ ∃ b e cap, n.kind = .loop a b e cap) →
      word a = .error (st, x) →
      exec (.controlNodeEval graph i) s = .next (((s.note x).report k 0x44 a).settle graph)) ∧
    ((n.kind.isGrid = true ∨ l.faulted = true ∨ l.stage ≠ .running ∨ controlDue l i n = false) →
      exec (.controlNodeEval graph i) s = .next (s.settle graph))

/-- The grid of a faulted node ends (R178, R461): an issued task stops, its core in handler mode with SOURCE 3, and while a
posted store of it is under way nothing more happens; then the task is gone, its core is free, and the node's windows are
freed.  The cause of a stop holds the node's STATUS, which is the model's choice (log 41).  A node that has not faulted is
left alone. -/
def GridEndSteps : Prop :=
  ∀ (s : State) (graph i : Nat),
    let k := (graph, i)
    let st := s.nodeSt k
    (st.run ≠ .faulted → exec (.gridEnd graph i) s = .next s) ∧
    (st.run = .faulted → s.tasksOf k = [] → ∃ v : State, exec (.gridEnd graph i) s = .next (v.settle graph) ∧ v.mem = s.mem ∧
      v.cores = s.cores ∧ v.graphs = s.graphs ∧ ∀ c x, find? v.clusters c = some x → ∀ y ∈ x.windows, y.2 ≠ k) ∧
    (∀ (id : Nat) (t : Task) (j : Nat), let c := s.core j
      st.run = .faulted → s.TasksRise → s.tasksOf k = [(id, t)] → id < s.fresh → t.phase = .issued j →
      c.run = .running → c.mode = .task → c.wait = .none → c.due ≠ .access → c.asyncTrap = none → c.member = none →
      c.loads = [] → c.sbuf = [] → c.sfly = [] →
      ∃ v, exec (.gridEnd graph i) s = .next v ∧ (v.core j).mode = .handler ∧ (v.core j).trapPc = c.pc ∧
        (v.core j).trapCause.toNat = st.status % 256 + 0x3000 ∧
        (c.journal ≠ [] → find? v.tasks id = some t ∧ (v.core j).task = c.task) ∧
        (c.journal = [] → c.eng.cpy.any (·.begun) = false → find? v.tasks id = none ∧ (v.core j).task = none ∧
          (v.core j).run = .idle ∧ (v.core j).eng.handles = []))

/-- Control nodes, and the end of a faulted grid. -/
def Obligations.NodeSteps : Prop :=
  ControlNodeSteps ∧ GridEndSteps


/-- The purser writes the record of a launch that has ended at CRADDR + 32 × (LAUNCH mod CRN), after the node status words
(R153, R440, R441), unless the host's count shows the ring full, which it then reads again; the next launch begins. -/
def CompletionSteps : Prop :=
  ∀ (s : State) (graph cycles : Nat) (g : Graph) (l : Launch), find? s.graphs graph = some g → g.launch = some l →
    let slot := l.num % g.crn
    let rec_ := g.craddr + 32 * slot
    let words := g.nsaddr + 4 * g.nodes.length * slot
    let count := (s.purserRead (purserOf (graphPkg graph) g.page) g.crcaddr 8).2
    let room := g.crcaddr = 0 ∨ ∃ n, count = some n ∧ l.num < ofBytes n + g.crn
    let act := if g.full then Instr.completionCountReread graph else .graphCompletionRecord graph
    let other := if g.full then Instr.graphCompletionRecord graph else .completionCountReread graph
    let status := fun (x : Nat) => ∃ y, x = y % 2 ^ 16 ∧
      (∀ i, i < g.nodes.length → (l.at_ i).run = .faulted → (∀ j, j < i → (l.at_ j).run ≠ .faulted) →
        y = (l.at_ i).status) ∧
      ((∀ i, i < g.nodes.length → (l.at_ i).run ≠ .faulted) → y = 0)
    exec other s = .next s ∧
    ((l.stage = .starting ∨ l.stage = .running) → exec act s = .next s) ∧
    (l.stage = .formed cycles → 0 < g.crn → g.crcaddr ≠ 0 → (∃ n, count = some n ∧ ofBytes n + g.crn ≤ l.num) →
      ∃ v, exec act s = .next v ∧ v.hostMem = s.hostMem ∧ find? v.graphs graph = some { g with full := true }) ∧
    (l.stage = .formed cycles → 0 < g.crn → room → g.nodes.length ≤ 4096 → ∃ v y, exec act s = .next v ∧
      hostNum v rec_ 8 = l.num % 2 ^ 64 ∧ status (hostNum v (rec_ + 8) 2) ∧
      hostNum v (rec_ + 12) 4 = l.tasks % 2 ^ 32 ∧ hostNum v (rec_ + 24) 8 = cycles % 2 ^ 64 ∧
      (∀ i, i < g.nodes.length → (l.at_ i).run = .faulted → (∀ j, j < i → (l.at_ j).run ≠ .faulted) →
        hostNum v (rec_ + 10) 2 = i ∧ hostNum v (rec_ + 16) 8 = (l.at_ i).info.toNat) ∧
      ((∀ i, i < g.nodes.length → (l.at_ i).run ≠ .faulted) →
        hostNum v (rec_ + 10) 2 = 0xFFFF ∧ hostNum v (rec_ + 16) 8 = 0) ∧
      (∀ i n, g.nsaddr ≠ 0 → g.nodes[i]? = some n → (l.at_ i).status < 256 →
        (∀ p q, p < 32 → q < 4 → (rec_ + p) % 2 ^ 64 ≠ (words + 4 * i + q) % 2 ^ 64) →
        hostNum v (words + 4 * i) 4 =
          (if n.kind.bodyEnd = none then 0 else min 0xFFFF (l.at_ i).passes) * 2 ^ 16 +
          (match (l.at_ i).run with
            | .done => 2 ^ 8 + (l.at_ i).status
            | .skipped => 2 * 2 ^ 8
            | .faulted => 3 * 2 ^ 8 + (l.at_ i).status
            | _ => 0)) ∧
      (∀ a, (∀ p, p < 32 → a ≠ (rec_ + p) % 2 ^ 64) →
        (g.nsaddr = 0 ∨ ∀ q, q < 4 * g.nodes.length → a ≠ (words + q) % 2 ^ 64) →
        look v.hostMem 0 a = look s.hostMem 0 a) ∧
      find? v.graphs graph = some y ∧ y.full = false ∧
      (∃ st, y.acks = g.acks ++ [(l.num, st)] ∧ status (st % 2 ^ 16)) ∧
      (g.pending = 0 → y.launch = none ∧ y.nextLaunch = g.nextLaunch) ∧
      (0 < g.pending → y.launch.map (·.num) = some g.nextLaunch ∧ y.pending = g.pending - 1 ∧
        y.nextLaunch = g.nextLaunch + 1))

/-- The host's acknowledgement of a launch's writes lets its completion response be produced, with OP 0x80, SEQ 0xFFFF (0
in version 1, DESIGN CHOICE of the log), the launch's STATUS and number; where the page has closed since the graph was
submitted it is dropped (R433, R435, R440). -/
def AcknowledgementSteps : Prop :=
  ∀ (s : State) (graph num st : Nat) (g : Graph) (rest : List (Nat × Nat)), find? s.graphs graph = some g →
    let p := graphPkg graph
    let page := (s.pkg p).page g.page
    (g.acks = [] → exec (.hostAcknowledgement graph) s = .next s) ∧
    (g.acks = (num, st) :: rest → ∃ v, exec (.hostAcknowledgement graph) s = .next v ∧ v.mem = s.mem ∧
      find? v.graphs graph = some { g with acks := rest } ∧
      ((v.pkg p).page g.page).queue = page.queue ++
        (if page.isOpen ∧ page.opens = g.opening then [⟨g.tag, if page.ver = 1 then 0 else 0xFFFF, 0x80, st, num % 2 ^ 32⟩] else []))

/-! The host's side -/

/-- Host RMA (R428 to R431, R442, R477): into the mailbox pages, resource 1, or into device memory, resource 2, HBM and vault
only, through a logical port that exists; anything else is refused with an error response, as are bytes of the secure world,
whose refusal is logged with its global address, and a packet of an unsupported part.  A write changes the bytes it names and
no full-empty bit, and is acknowledged; one on a connection with sequence numbers is performed only when the earlier ones are,
the numbers counting from 0 (log 74, DESIGN CHOICE).  A read answers each byte as its home holds it; a byte with an
uncorrectable error is answered with an error response, which is the model's reading (log 52). -/
def Obligations.HostAccessSteps : Prop :=
  ∀ (s : State) (pkg port off : Nat) (rod : Option (Nat × Nat)), let p := s.pkg pkg
    let ok := p.step = 8 ∧ port < 12 ∧ (port % 2 = 0 ∨ port / 2 ∈ p.mode1)
    let device := fun (n : Nat) => off + n ≤ 0x080_0000_0000 ∨ (0x100_0000_0000 ≤ off ∧ off + n ≤ 0x102_0000_0000)
    let mailbox := fun (n : Nat) => off + n ≤ 1024 * 4096
    let pa := p.id * 2 ^ 44 + off
    let due := ∀ c n, rod = some (c, n) → look p.rod 0 c = n
    let rods := match rod with
      | some (c, n) => put p.rod 0 c (n + 1)
      | none => p.rod
    (∀ data ri, ¬ due → exec (.hostRmaWrite pkg (port, rod) ri off data) s = .next s) ∧
    (∀ data ri, ok → due → data.length ≤ 4096 →
      (ri = 1 → mailbox data.length → ∃ t, exec (.hostRmaWrite pkg (port, rod) ri off data) s = .next t ∧ t.mem = s.mem ∧
        (t.pkg pkg).ackOut = p.ackOut + 1 ∧ (t.pkg pkg).rod = rods ∧
        (∀ i, i < data.length → look (t.pkg pkg).mail 0 (off + i) = data.getD i 0) ∧
        ∀ a, (a < off ∨ off + data.length ≤ a) → look (t.pkg pkg).mail 0 a = look p.mail 0 a) ∧
      (ri = 2 → device data.length → s.rmaSecure pkg off data.length = none →
        ∃ t, exec (.hostRmaWrite pkg (port, rod) ri off data) s = .next t ∧ t.fe = s.fe ∧
          t.pkg pkg = { p with ackOut := p.ackOut + 1, rod := rods } ∧
          (∀ i, i < data.length → t.byte (pa + i) = data.getD i 0) ∧
          ∀ q, (q < pa ∨ pa + data.length ≤ q) → t.byte q = s.byte q) ∧
      (∀ a, ri = 2 → device data.length → s.rmaSecure pkg off data.length = some a →
        ∃ t, exec (.hostRmaWrite pkg (port, rod) ri off data) s = .next t ∧ t.mem = s.mem ∧
          t.pkg pkg = { p with errorOut := p.errorOut + 1, rod := rods } ∧
          let die := s.die (pkg * 4 + homeDie a)
          (die.log.length < 16 → (t.die (pkg * 4 + homeDie a)).log =
            die.log ++ [⟨p.id * 2 ^ 44 + a, p.id * 2 ^ 12 + (2032 + port) * 2, 5⟩])) ∧
      ((ri ≠ 1 ∨ ¬ mailbox data.length) → (ri ≠ 2 ∨ ¬ device data.length) →
        ∃ t, exec (.hostRmaWrite pkg (port, rod) ri off data) s = .next t ∧ t.mem = s.mem ∧
          t.pkg pkg = { p with errorOut := p.errorOut + 1, rod := rods })) ∧
    (∀ n ri, ok → n ≤ 4096 →
      let answers := fun (x : Option (List Byte)) => ∃ t, exec (.hostRmaRead pkg port ri off n) s = .next t ∧
        t.mem = s.mem ∧ (t.pkg pkg).readOut = x ∧ (x = none → (t.pkg pkg).errorOut = p.errorOut + 1)
      (ri = 1 → mailbox n → answers (some ((upFrom off n).map (look p.mail 0)))) ∧
      (ri = 2 → device n → s.rmaSecure pkg off n = none → s.bad pa n = false → answers (some (s.bytes pa n))) ∧
      (ri = 2 → device n → s.rmaSecure pkg off n = none → s.bad pa n = true → answers none) ∧
      (∀ a, ri = 2 → device n → s.rmaSecure pkg off n = some a → answers none) ∧
      ((ri ≠ 1 ∨ ¬ mailbox n) → (ri ≠ 2 ∨ ¬ device n) → answers none)) ∧
    (ok → exec (.unsupportedPacket pkg port) s = .next (s.setPkg pkg { p with errorOut := p.errorOut + 1 })) ∧
    (¬ ok → (∀ ri data, exec (.hostRmaWrite pkg (port, rod) ri off data) s = .next s) ∧
      (∀ ri n, exec (.hostRmaRead pkg port ri off n) s = .next s) ∧ exec (.unsupportedPacket pkg port) s = .next s)

/-- The request that a slot of a page holds (R434). -/
def slotHolds (p : Package) (page ver slot : Nat) (r : Request) : Prop :=
  let f := fun (a n : Nat) => p.mailNum page (64 * slot + a) n
  r.op = f 0 1 ∧ r.seq = f 2 2 ∧ r.tag = BitVec.ofNat 64 (f 8 8) ∧
    r.args = [BitVec.ofNat 64 (f 16 8), BitVec.ofNat 64 (f 24 8), BitVec.ofNat 64 (f 32 8), BitVec.ofNat 64 (f 40 8)] ∧
    (r.bad = true ↔ (ver = 1 ∧ (f 1 1 ≠ 0 ∨ f 2 2 ≠ 0)) ∨ (ver ≠ 1 ∧ 1 < f 1 1) ∨ f 4 4 ≠ 0 ∨ f 0x30 16 ≠ 0)

/-- What makes a request malformed (R436, R437 step 1): an unknown OP, a reserved byte, an argument outside its range, or one
that the request does not use and that is not zero. -/
def malformedRequest (r : Request) : Prop :=
  let zeroFrom := fun (i : Nat) => ∀ a ∈ r.args.drop i, a = 0
  r.bad = true ∨ 6 < r.op ∨ ¬ zeroFrom (if r.op = 0 then 0 else if r.op = 5 then 2 else 1) ∨
    (r.op = 3 ∧ 255 < (r.args.getD 0 0).toNat) ∨
    (r.op = 5 ∧ ((r.args.getD 1 0).toNat = 0 ∨ 65535 < (r.args.getD 1 0).toNat))

/-- A purser visits a page (R432 to R434, R436, R437): EN opens it, with VER and RSPADDR kept, CONS and the slots zeroed,
unless VER or a reserved byte is wrong, and, DESIGN CHOICE (log 69), not before what an earlier opening left is
complete; EN clear closes it; of an open page the next request is taken, once it is placed and the purser serves no other:
its objects are read with it, and a malformed one is answered with 0x54, as which a version 1 request with a SEQ or a PHASE
counts (log 40, DEDUCED). -/
def Obligations.PageVisits : Prop :=
  ∀ (s : State) (pkg page : Nat), let p := s.pkg pkg
    let g := p.page page
    let f := p.mailNum page
    let en := f 0x11 1 % 2
    let good := (f 0x10 1 = 1 ∨ f 0x10 1 = 2) ∧ f 0x11 1 < 2 ∧ f 0x12 6 = 0 ∧ f 0x28 24 = 0
    let act := exec (.mailboxPageVisit pkg page) s
    let slot := g.taken % 63 + 1
    let placed := if g.ver = 1 then g.taken < f 0 8 else f (64 * slot + 1) 1 % 2 = 1 - g.taken / 63 % 2
    let busy := ∃ x ∈ p.pages, x.1 / 64 = page / 64 ∧ x.2.current ≠ none
    let others := fun (t : State) => ∀ a, (a < 4096 * page ∨ 4096 * page + 4096 ≤ a) →
      look (t.pkg pkg).mail 0 a = look p.mail 0 a
    p.step = 8 → page < 1024 →
    (en = 0 → ∃ t, act = .next t ∧ (t.pkg pkg).page page = { g with isOpen := false } ∧ (t.pkg pkg).mail = p.mail) ∧
    (en = 1 → g.isOpen = false → (g.current ≠ none ∨ g.queue ≠ []) → act = .next s) ∧
    (en = 1 → g.isOpen = false → good → g.current = none → g.queue = [] → ∃ t, act = .next t ∧ others t ∧
      (t.pkg pkg).page page =
        ⟨true, f 0x10 1, f 0x18 8, 0, none, [], 0, g.opens + 1⟩ ∧
      (t.pkg pkg).mailNum page 8 8 = 0 ∧
      (∀ a, 64 ≤ a → a < 4096 → look (t.pkg pkg).mail 0 (4096 * page + a) = 0) ∧
      ∀ a, a < 64 → (a < 8 ∨ 16 ≤ a) → look (t.pkg pkg).mail 0 (4096 * page + a) = look p.mail 0 (4096 * page + a)) ∧
    (en = 1 → g.isOpen = false → ¬ good → act = .next s) ∧
    (en = 1 → g.isOpen = true → (¬ placed ∨ busy) → act = .next s) ∧
    (en = 1 → g.isOpen = true → placed → ¬ busy → ∃ t r, act = .next t ∧ slotHolds p page g.ver slot r ∧
      (t.pkg pkg).mailNum page 8 8 = (g.taken + 1) % 2 ^ 64 ∧
      (∀ a, (a < 4096 * page + 8 ∨ 4096 * page + 16 ≤ a) → look (t.pkg pkg).mail 0 a = look p.mail 0 a) ∧
      (malformedRequest r → (t.pkg pkg).page page =
        ⟨true, g.ver, g.rspaddr, g.taken + 1, none,
          g.queue ++ [⟨r.tag, if g.ver = 1 then 0 else r.seq, r.op, 0x54, 0⟩], g.written, g.opens⟩) ∧
      (¬ malformedRequest r → r.obj = (s.readRequest pkg page { r with obj := .nothing }).2 ∧ (t.pkg pkg).page page =
        ⟨true, g.ver, g.rspaddr, g.taken + 1, some r, g.queue, g.written, g.opens⟩))

/-- The oldest response of a page is written at RSPADDR + 16 × (k mod 63), unless 63 responses stand unread (R435). -/
def ResponseWrites : Prop :=
  ∀ (s : State) (pkg page : Nat), let p := s.pkg pkg
    let g := p.page page
    let at_ := g.rspaddr + 16 * (g.written % 63)
    (g.queue = [] → exec (.responseWrite pkg page) s = .next s) ∧
    (p.mailNum page 0x20 8 + 63 ≤ g.written → exec (.responseWrite pkg page) s = .next s) ∧
    (∀ r rest, g.queue = r :: rest → g.written < p.mailNum page 0x20 8 + 63 →
      ∃ t, exec (.responseWrite pkg page) s = .next t ∧ t.mem = s.mem ∧
        (t.pkg pkg).page page = { g with queue := rest, written := g.written + 1 } ∧
        hostNum t at_ 8 = r.tag.toNat ∧ hostNum t (at_ + 8) 2 = r.seq % 2 ^ 16 ∧
        hostNum t (at_ + 10) 1 = r.op % 2 ^ 8 ∧ hostNum t (at_ + 11) 1 = r.status % 2 ^ 8 ∧
        hostNum t (at_ + 12) 4 = r.value % 2 ^ 32 ∧
        ∀ a, (∀ i, i < 16 → a ≠ (at_ + i) % 2 ^ 64) → look t.hostMem 0 a = look s.hostMem 0 a)

/-- Completion records, acknowledgements and responses. -/
def Obligations.CompletionRules : Prop :=
  CompletionSteps ∧ AcknowledgementSteps ∧ ResponseWrites


/-- A page has been answered: its request is served no more, and its response stands last. -/
def answered (s t : State) (pkg page : Nat) (r : Request) (status value : Nat) : Prop :=
  let g := (s.pkg pkg).page page
  (t.pkg pkg).page page = { g with
    current := none
    queue := g.queue ++ [⟨r.tag, if g.ver = 1 then 0 else r.seq, r.op, status, value⟩] }

/-- The requests NOP, REGWIN, UNREGWIN and REGSPACE (R436, R437, R439, R160 to R163): a window or a space is registered
under its number when its record could be read with the request and is in range, a space's claim words are zeroed, and a
refusal, 0x55, 0x57 or 0x40, leaves nothing.  UNREGWIN waits for the FETCHR commands that began on the window.  A request of
another OP is not served by them.  Three points are the model's choices: that UNREGWIN of a window that is not registered
answers 0 (log 50), and that REGSPACE is answered although its home refuses a zero, with no permission asked of the claim
array's pages (log 71). -/
def RegistrationRequests : Prop :=
  ∀ (s : State) (pkg page : Nat) (r : Request), let p := s.pkg pkg
    let w := purserOf pkg page
    let noRecord := ∀ bs, r.obj ≠ .record bs
    (p.page page).current = some r →
    (r.op = 0 → ∃ t, exec (.mailboxNop pkg page) s = .next t ∧ answered s t pkg page r 0 0 ∧ t.mem = s.mem) ∧
    (r.op ≠ 0 → exec (.mailboxNop pkg page) s = .next s) ∧ (r.op ≠ 1 → exec (.regspace pkg page) s = .next s) ∧
    (r.op ≠ 2 → exec (.regwin pkg page) s = .next s) ∧ (r.op ≠ 3 → exec (.unregwin pkg page) s = .next s) ∧
    (r.op = 1 → noRecord → ∃ t, exec (.regspace pkg page) s = .next t ∧ answered s t pkg page r 0x55 0 ∧
      t.mem = s.mem ∧ (t.pkg pkg).spaces = p.spaces) ∧
    (∀ bs, r.op = 1 → r.obj = .record bs → let f := fieldOf bs
      let (n, offs, nbrs, claim, id, graph) := (f 0 8, f 8 8, f 16 8, f 24 8, f 0x20 2, f 0x22 2)
      let units := (claim + 2 * n - 1) / 4096 + 1 - claim / 4096
      let fits := 1 ≤ n ∧ n ≤ 2 ^ 40 ∧ offs % 8 = 0 ∧ nbrs % 8 = 0 ∧ claim % 64 = 0 ∧ id < 64 ∧ graph < 1024 ∧
        f 0x24 28 = 0 ∧ find? p.spaces id = none ∧ (s.mapsMemory w units (claim / 4096)).2 = true
      let u := (s.mapsMemory w units (claim / 4096)).1
      let place := fun (v : State) (e : Nat) => (v.purserPa w ((claim + 2 * e) % 2 ^ 64)).2
      let word := place u
      let steady := ∀ m e, m ≤ n → e < n → let v := u.zeroClaims w claim m 0
        place v e = word e ∧ ∀ pa, word e = some pa → (v.answer w .store pa 2).1 = 0
      (fits → ∃ t, exec (.regspace pkg page) s = .next t ∧ answered s t pkg page r 0 id ∧
        find? (t.pkg pkg).spaces id = some ⟨n, offs, nbrs, claim, graph⟩ ∧
        (∀ j, j ≠ id → find? (t.pkg pkg).spaces j = find? p.spaces j) ∧
        (steady → (∀ e pa, e < n → word e = some pa → t.num pa 2 = 0) ∧
          ∀ q, (∀ e pa, e < n → word e = some pa → q < pa ∨ pa + 2 ≤ q) → t.byte q = s.byte q)) ∧
      (¬ fits → ∃ t, exec (.regspace pkg page) s = .next t ∧ answered s t pkg page r 0x40 0 ∧ t.mem = s.mem ∧
        (t.pkg pkg).spaces = p.spaces)) ∧
    (r.op = 2 → noRecord → ∃ t, exec (.regwin pkg page) s = .next t ∧ answered s t pkg page r 0x55 0 ∧
      (t.pkg pkg).windows = p.windows) ∧
    (∀ bs, r.op = 2 → r.obj = .record bs → let f := fieldOf bs
      let port := f 2 1
      let fits := f 0 2 < 256 ∧ find? p.windows (f 0 2) = none ∧
        (port = 0xFF ∨ (port < 12 ∧ (port % 2 = 0 ∨ port / 2 ∈ p.mode1))) ∧ f 3 1 < 2 ∧ f 4 4 < 2 ^ 24 ∧ f 0x18 2 < 4096 ∧
        f 0x1A 6 = 0 ∧ 1 ≤ f 0x30 8 ∧ f 0x30 8 ≤ 2 ^ 48 ∧ f 0x38 8 = 0
      (fits → ∃ t, exec (.regwin pkg page) s = .next t ∧ answered s t pkg page r 0 (f 0 2) ∧ t.mem = s.mem ∧
        find? (t.pkg pkg).windows (f 0 2) =
          some ⟨port, f 3 1, f 4 4, (bs.drop 8).take 16, f 0x18 2, f 0x20 8, f 0x28 8, f 0x30 8⟩) ∧
      (¬ fits → ∃ t, exec (.regwin pkg page) s = .next t ∧ answered s t pkg page r 0x57 0 ∧
        (t.pkg pkg).windows = p.windows)) ∧
    (r.op = 3 → let win := (r.args.getD 0 0).toNat
      (s.fetchingOn pkg win = true → exec (.unregwin pkg page) s = .next s) ∧
      (s.fetchingOn pkg win = false → win < 256 → ∃ t, exec (.unregwin pkg page) s = .next t ∧ t.mem = s.mem ∧
        answered s t pkg page r 0 win ∧ find? (t.pkg pkg).windows win = none ∧
        ∀ j, j ≠ win → find? (t.pkg pkg).windows j = find? p.windows j))

/-- LAUNCH queues its launches, unless the graph is not held, 0x56, or too many would be pending, 0x54, and answers the number
of the first; the first pending launch begins when none is under way.  RELEASE frees the graph and its spaces once no
launch of it is left, none whose writes the host has yet to acknowledge either (log 36) (R436, R437, R440). -/
def LaunchRequests : Prop :=
  ∀ (s : State) (pkg page : Nat) (r : Request), let p := s.pkg pkg
    let num := (r.args.getD 0 0).toNat
    let n := (r.args.getD 1 0).toNat
    let key := pkg * 1024 + num
    (p.page page).current = some r →
    (r.op ≠ 5 → exec (.launch pkg page) s = .next s) ∧ (r.op ≠ 6 → exec (.release pkg page) s = .next s) ∧
    ((1024 ≤ num ∨ find? s.graphs key = none) →
      (r.op = 5 → ∃ t, exec (.launch pkg page) s = .next t ∧ answered s t pkg page r 0x56 0 ∧ t.graphs = s.graphs) ∧
      (r.op = 6 → ∃ t, exec (.release pkg page) s = .next t ∧ answered s t pkg page r 0x56 0 ∧ t.graphs = s.graphs)) ∧
    (∀ g, num < 1024 → find? s.graphs key = some g →
      let left := g.pending + g.acks.length + (if g.launch = none then 0 else 1)
      (r.op = 5 → 2 ^ 32 - 1 < left + n →
        ∃ t, exec (.launch pkg page) s = .next t ∧ answered s t pkg page r 0x54 0 ∧ t.graphs = s.graphs) ∧
      (r.op = 5 → left + n ≤ 2 ^ 32 - 1 → ∃ t y, exec (.launch pkg page) s = .next t ∧
        answered s t pkg page r 0 ((g.nextLaunch + g.pending) % 2 ^ 32) ∧ find? t.graphs key = some y ∧
        y.nodes = g.nodes ∧ y.acks = g.acks ∧
        (g.launch ≠ none → y.pending = g.pending + n ∧ y.launch = g.launch ∧ y.nextLaunch = g.nextLaunch) ∧
        (g.launch = none → 0 < n → y.pending = g.pending + n - 1 ∧ y.launch.map (·.num) = some g.nextLaunch ∧
          y.nextLaunch = g.nextLaunch + 1)) ∧
      (r.op = 6 → left ≠ 0 → exec (.release pkg page) s = .next s) ∧
      (r.op = 6 → left = 0 → ∃ t, exec (.release pkg page) s = .next t ∧ answered s t pkg page r 0 num ∧
        t.mem = s.mem ∧ find? t.graphs key = none ∧ (∀ j, j ≠ key → find? t.graphs j = find? s.graphs j) ∧
        (t.pkg pkg).spaces = p.spaces.filter (·.2.graph ≠ num)))

/-- What is read with a SUBMIT when it is taken (R436, R437 step 2): the descriptor, and, where its own fields are in range,
what it bounds. -/
def SubmitObject : Prop :=
  ∀ (s : State) (pkg page : Nat) (r : Request), r.op = 4 →
    let read := s.object pkg page (r.args.getD 0 0).toNat 64
    let obj := (s.readRequest pkg page r).2
    (read.2 = none → obj = .unreadable) ∧
    ∀ bs, read.2 = some bs → let f := fieldOf bs
      let fits := f 0 2 < 1024 ∧ 1 ≤ f 2 2 ∧ f 2 2 ≤ 4096 ∧ f 4 4 ≤ 65536 ∧ f 8 8 % 64 = 0 ∧ f 0x10 8 % 4 = 0 ∧
        f 0x18 8 % 32 = 0 ∧ 1 ≤ f 0x20 2 ∧ f 0x20 2 ≤ 1024 ∧ 1 ≤ f 0x22 2 ∧ f 0x22 2 ≤ 4096 ∧ f 0x24 4 = 0 ∧
        (f 0x22 2 = 1 → f 0x28 8 = 0) ∧ f 0x30 8 % 4 = 0 ∧ f 0x38 8 % 8 = 0
      (¬ fits → obj = .badDesc) ∧
      (fits → (read.1.readGraph pkg page (descOf bs)).2 = none → obj = .unreadable) ∧
      (fits → ∀ g, (read.1.readGraph pkg page (descOf bs)).2 = some g → obj = .graph g ∧ g.desc = descOf bs)

/-- SUBMIT (R436 to R438): an object that could not be read is 0x55, a descriptor out of range 0x40; then come the checks of
R437 in their order, 0x56, 0x40, 0x42, 0x41 and 0x58, and those of each listed package; a graph that passes is held with no
launch, and a refused one leaves nothing.  A listed package that does not answer the hand-over of a graph that has passed the
purser's own checks makes it 0x40. -/
def SubmitRequests : Prop :=
  ∀ (s : State) (pkg page : Nat) (r : Request), let p := s.pkg pkg
    let refused := fun (st : Nat) => ∃ t, exec (.submit pkg page) s = .next t ∧ answered s t pkg page r st 0 ∧
      t.graphs = s.graphs ∧ t.mem = s.mem
    (p.page page).current = some r →
    (r.op ≠ 4 → exec (.submit pkg page) s = .next s ∧ exec (.graphHandoverTimeout pkg page) s = .next s) ∧
    (r.op = 4 → r.obj = .unreadable → refused 0x55) ∧
    (r.op = 4 → r.obj = .badDesc → refused 0x40) ∧
    (∀ g, r.op = 4 → r.obj = .graph g → let d := g.desc
      let ns := g.nodes.map g.toNode
      let held := ∃ x ∈ s.graphs, x.2.num = d.graph ∧ (x.1 / 1024 = pkg ∨ p.id ∈ x.2.pkgs)
      let shape := g.shapeOk = true ∧ (∀ n ∈ g.nodes, s.boundOk pkg n = true) ∧ s.pkgsOk pkg g.pkgs = true
      let gangs := ∀ n ∈ g.nodes, n.gangOk = true
      let spaces := s.spacesOk pkg g = true
      let room := s.overflowOk pkg ns = true
      let others := (g.pkgs.drop 1).map fun id => let o := s.ownerOf id
        if s.holds o d.graph then 0x56 else if s.overflowOk o ns then 0 else 0x58
      (held → refused 0x56) ∧ (¬ held → ¬ shape → refused 0x40) ∧ (¬ held → shape → ¬ gangs → refused 0x42) ∧
      (¬ held → shape → gangs → ¬ spaces → refused 0x41) ∧
      (¬ held → shape → gangs → spaces → ¬ room → refused 0x58) ∧
      (¬ held → shape → gangs → spaces → room → ∀ st, others.find? (· ≠ 0) = some st → refused st) ∧
      (¬ held → shape → gangs → spaces → room → (∀ st ∈ others, st = 0) →
        (∃ t, exec (.submit pkg page) s = .next t ∧ answered s t pkg page r 0 (d.graph % 2 ^ 32) ∧ t.mem = s.mem ∧
          find? t.graphs (pkg * 1024 + d.graph) = some
            ⟨d.graph, g.pkgs, ns, d.craddr, d.crn, d.nsaddr, d.crcaddr, page, (p.page page).opens, r.tag, 0, 0, none,
              false, []⟩ ∧
          ∀ j, j ≠ pkg * 1024 + d.graph → find? t.graphs j = find? s.graphs j)) ∧
      let own := ¬ held ∧ shape ∧ gangs ∧ spaces ∧ room
      (own → 1 < g.pkgs.length → ∃ t, exec (.graphHandoverTimeout pkg page) s = .next t ∧
        answered s t pkg page r 0x40 0 ∧ t.graphs = s.graphs) ∧
      ((¬ own ∨ g.pkgs.length ≤ 1) → exec (.graphHandoverTimeout pkg page) s = .next s))

/-- The mailbox requests. -/
def Obligations.RequestResults : Prop :=
  RegistrationRequests ∧ LaunchRequests ∧ SubmitObject ∧ SubmitRequests


/-! Links and rebuild -/

/-- Every package is listed once and answers to an id of its own. -/
def OwnIds (s : State) : Prop := s.pkgs.Pairwise fun a b => a.1 < b.1 ∧ a.2.id ≠ b.2.id

/-- The idle flit that carries an ACK. -/
def ackFlit (n : Nat) : Flit := ⟨0, 0, n, 0, 0, none⟩

/-- FLIT_RECEIVE: the first flit that arrives leaves the queue; a link out of service, or more wrong symbols than its state
corrects (12, or 4 beside an erased lane), loses it.  Of the others an idle flit acknowledges; a data flit acknowledges,
is delivered where it is next in order, and is answered with an ACK either way; any other is discarded.  One for a core
number that does not exist is counted, and one for a resident service program is its message (R239, R247, R248, R311).
A lane with more than 256 errors within the newest 2^24 flits fails (R488), a flit that could not be decoded counting as one
without errors (log 73, DESIGN CHOICE).  The code finds no wrong symbol in a flit that arrives unchanged. -/
def FlitSteps : Prop :=
  ∀ (s : State) (pkg i : Nat) (errs : List (Nat × BitVec 10)) (f : Flit) (rest : List Flit),
    let l := (s.pkg pkg).link i
    let wrong := wrongSymbols f errs l.erased
    let limit := match l.up with
      | .erased _ => 4
      | _ => 12
    let dst := Config.packetDest f.hdr
    let n := dst / 2 % 2048
    let here := dst / 4096 % 4096 = (s.pkg pkg).id
    let loud := fun (x : Nat) => 256 < ((look (l.countErrors wrong).errAt [] x).filter (l.flits < · + 2 ^ 24)).length
    let act := exec (.flitReceive pkg i errs) s
    wrongSymbols f [] l.erased = [] ∧
    (∀ (m : Link) (ws : List Nat) x, x < 16 → (look m.errAt [] x).length ≤ 257 →
      (m.countErrors ws).flits = m.flits + 1 ∧
      look (m.countErrors ws).errAt [] x =
        (List.replicate (ws.countP (· % 16 = x)) m.flits ++ look m.errAt [] x).take 257) ∧
    (l.arriving = [] → act = .next s) ∧
    (l.arriving = f :: rest →
      (∀ p, f.packet = some p → l.up ≠ .out → s.canTake pkg i p = false → act = .next s) ∧
      ((l.up = .out ∨ (limit < wrong.length ∧ ∀ p, f.packet = some p → s.canTake pkg i p = true)) →
        ∃ t, act = .next t ∧ t.mem = s.mem ∧ t.cores = s.cores ∧
          (t.pkg pkg).link i = (if l.up = .out then { l with arriving := rest }
            else { l with arriving := rest, flits := l.flits + 1, symErr := min (2 ^ 64 - 1) l.symErr }) ∧
          ∀ j, j ≠ i → (t.pkg pkg).link j = (s.pkg pkg).link j) ∧
      (l.up ≠ .out → wrong.length ≤ limit → f.packet = none → s.otherEnd l ≠ some (pkg, i) →
        ((∀ x, x < 16 → ¬ loud x) → ∃ t, act = .next t ∧ t.mem = s.mem ∧
          (∀ j, j ≠ i → s.otherEnd l ≠ some (pkg, j) → (t.pkg pkg).link j = (s.pkg pkg).link j) ∧
          let u := (t.pkg pkg).link i
          u.arriving = rest ∧ u.up = l.up ∧ u.symErr = min (2 ^ 64 - 1) (l.symErr + wrong.length) ∧
          (∀ g r, (f.kind = 0 ∨ (f.kind = 1 ∧ f.seq = l.rxSeq)) → l.unacked = g :: r →
            let n := (f.ack + 4096 - g.seq) % 4096
            u.unacked = if n ≤ l.unacked.length then l.unacked.drop n else l.unacked) ∧
          (f.kind = 1 → f.seq = l.rxSeq → u.rxSeq = (l.rxSeq + 1) % 4096 ∧ u.delivered = l.delivered ++ [f] ∧
            (here → 1557 ≤ n → (s.pkg pkg).counters.dropped < 2 ^ 64 - 1 →
              (t.pkg pkg).counters.dropped = (s.pkg pkg).counters.dropped + 1) ∧
            (here → n < 1557 → dst % 2 = 1 →
              (t.core (pkg * 2048 + n)).svc = (s.core (pkg * 2048 + n)).svc + 1)) ∧
          ((f.kind ≠ 1 ∨ f.seq ≠ l.rxSeq) → u.rxSeq = l.rxSeq ∧ u.delivered = l.delivered ∧ t.cores = s.cores ∧
            (f.kind ≠ 0 → u.unacked = l.unacked)) ∧
          ∀ q j, OwnIds s → s.otherEnd l = some (q, j) →
            ((t.pkg q).link j).arriving = ((s.pkg q).link j).arriving ++
              if f.kind = 1 then [ackFlit u.rxSeq] else []) ∧
        (∀ x, x < 16 → loud x → (∀ y, y < 16 → loud y → y = x) → l.up = .healthy →
          ∃ t, act = .next t ∧ ((t.pkg pkg).link i).up = .erased x)))

/-- Posted stores as link packets (R240, R250, R490): the part of an entry that sets out goes on the link that the gateway
picks, of those its table lists and that are in service to a package that has booted, by a hash of the home slice's
number; it waits while a packet for that home is outstanding on another link.  On its way a packet goes on over the link
that the next gateway picks, and where no route leads on it is refused with status 0x51. -/
def PacketSteps : Prop :=
  (∀ (s : State) (k idx part : Nat) (home : Nat × Nat) (e : JEntry) (r : List JEntry), let pkg := corePkg k
    let ls := s.open_ pkg (coreDie k % 4) home.1
    let i := ls.getD (Config.linkHash home.2 ls.length % max 1 ls.length) 0
    let l := (s.pkg pkg).link i
    (s.core k).journal = e :: r → e.idx = idx → e.st = .pending → (∀ c ∈ s.cores, ∀ x ∈ c.2.journal, x.sent = []) →
    (s.parts e).head? = some (part, home) → home.1 ≠ s.idOf k → (∀ x ∈ r, x.num ≠ e.num) →
    let t := s.sendPosted k idx
    ((ls = [] ∨ s.otherWay pkg i home = true) → t = s) ∧
    (ls ≠ [] → s.otherWay pkg i home = false → t.mem = s.mem ∧
      (((t.core k).entry idx).bind fun e => find? e.sent part) = some i ∧
      ((t.pkg pkg).link i).txSeq = (l.txSeq + 1) % 4096 ∧
      ((t.pkg pkg).link i).unacked =
        l.unacked ++ [{ packetFlit ⟨k, e.num, part, home⟩ with seq := l.txSeq, ack := l.rxSeq }])) ∧
  (∀ (s : State) (pkg i : Nat) (f : Flit) (p : Packet) (rest : List Flit), let l := (s.pkg pkg).link i
    let ls := s.open_ pkg (i / 3) p.home.1
    let j := ls.getD (Config.linkHash p.home.2 ls.length % max 1 ls.length) 0
    let m := (s.pkg pkg).link j
    let act := exec (.flitReceive pkg i []) s
    OwnIds s → l.arriving = f :: rest → l.up ≠ .out → f.kind = 1 → f.seq = l.rxSeq → f.packet = some p →
    p.home.1 ≠ (s.pkg pkg).id → (∀ x, x < 16 → (look l.errAt [] x).length ≤ 256) →
    (ls ≠ [] → j ≠ i → s.otherWay pkg j p.home = false → ∃ t, act = .next t ∧ t.mem = s.mem ∧
      ((t.pkg pkg).link j).unacked = m.unacked ++ [{ packetFlit p with seq := m.txSeq, ack := m.rxSeq }] ∧
      ((t.pkg pkg).link i).rxSeq = (l.rxSeq + 1) % 4096) ∧
    (∀ e b, ls = [] → (s.core p.core).journal = [e] → e.num = p.num → e.st = .pending → e.what = .line b → e.lines = [] →
      p.part = b.line → (s.core p.core).mode = .task → (s.core p.core).asyncTrap = none →
      (s.core p.core).trapped = false → ∃ t, act = .next t ∧ t.mem = s.mem ∧
        (t.core p.core).asyncTrap = some
          { status := 0x51, source := 2
            info := refusal (64 * b.line + (b.data.head?.map (·.1)).getD 0) (some e.idx) }))

/-- FLIT_RESEND_TIMEOUT: every flit not acknowledged is sent again, in order, with the ACK of now, to the link at the other
end; a link out of service sends none (R247). -/
def ResendSteps : Prop :=
  ∀ (s : State) (pkg i : Nat), let l := (s.pkg pkg).link i
    (l.up = .out → exec (.flitResendTimeout pkg i) s = .next s) ∧
    (l.up ≠ .out → ∃ t, exec (.flitResendTimeout pkg i) s = .next t ∧ t.mem = s.mem ∧
      ((t.pkg pkg).link i).unacked = l.unacked ∧
      ((t.pkg pkg).link i).resent = min (2 ^ 64 - 1) (l.resent + l.unacked.length) ∧
      ∀ q j, OwnIds s → s.otherEnd l = some (q, j) → (q, j) ≠ (pkg, i) →
        ((t.pkg q).link j).arriving = ((s.pkg q).link j).arriving ++ l.unacked.map fun f => { f with ack := l.rxSeq })

/-- Flits are received and resent. -/
def Obligations.LinkFlitSteps : Prop :=
  FlitSteps ∧ PacketSteps ∧ ResendSteps


/-- A link that trains from its first state: what R486 and R487 reset. -/
def trains (l : Link) : Link :=
  { l with
    training := .exchange, heard := false, seen := false, prbs := 2 ^ 31 - 1, laneErr := [], flits := 0, errAt := []
    retrain := min (2 ^ 32 - 1) (l.retrain + 1) }

/-- A link whose training has ended in a state. -/
def concluded (up : LinkUp) (l : Link) : Link :=
  { l with up := up, training := .none, laneErr := [], flits := 0, errAt := [], txSeq := 0, rxSeq := 0, arriving := [] }

/-- Training (R479 step 7, R486, R487, R496): a link starts its first training once the boot has come to step 6, and another
every second while it is out of service; training flits tell each end its partner's generation, package and link, and once
each end has received one with SEEN the test flits run at both, each adding its errors to the lanes, 16 on each where it
cannot be decoded; after 2^20 test flits at each end the link is healthy with no lane above 16 errors in either direction,
has the one such lane erased, or stays out of service; where it enters service between packages whose links are up, those
reached set their cycle counters from the lowest-numbered one, within 4,096 cycles of it (R491). -/
def TrainingSteps : Prop :=
  ∀ (s : State) (pkg i : Nat) (errs : List (Nat × BitVec 10)), let l := (s.pkg pkg).link i
    let put_ := fun (x : Instr) (u : Link) => ∃ t, exec x s = .next t ∧ t.mem = s.mem ∧ (t.pkg pkg).link i = u ∧
      ∀ j, j ≠ i → (t.pkg pkg).link j = (s.pkg pkg).link j
    (l.training = .none →
      (l.up = .out → l.retrain = 0 → 6 ≤ (s.pkg pkg).step → i < 12 → put_ (.linkTraining pkg i) (trains l)) ∧
      ((l.up ≠ .out ∨ l.retrain ≠ 0 ∨ (s.pkg pkg).step < 6 ∨ 12 ≤ i) → put_ (.linkTraining pkg i) l) ∧
      (l.up = .out → l.retrain ≠ 0 → put_ (.linkRetrainTimer pkg i) (trains l))) ∧
    ((l.up ≠ .out ∨ l.training ≠ .none ∨ l.retrain = 0) → put_ (.linkRetrainTimer pkg i) l) ∧
    (match Config.cable pkg i with
      | none => exec (.trainingFlit pkg i errs) s = .next s ∧
        (l.training ≠ .none → exec (.linkTraining pkg i) s = .next s)
      | some (q, j, gen) =>
        let m := (s.pkg q).link j
        let f := s.trainingFlit q j gen
        let h := gen + j * 2 ^ 8 + (s.pkg q).id * 2 ^ 16 + (if m.heard then 1 else 0) * 2 ^ 32
        let wrong := wrongSymbols f errs none
        let sees := l.seen = true ∨ (wrong.length ≤ 12 ∧ h.testBit 32 = true)
        let both := l.training = .exchange ∧ m.training = .exchange ∧ sees ∧ m.seen = true
        let failed := fun (x : Nat) => x < 16 ∧ (16 < look l.laneErr 0 x ∨ 16 < look m.laneErr 0 x)
        f.kind = 3 ∧ f.seq = 0 ∧ f.ack = 0 ∧ f.hdr = h ∧
        (m.training = .none → exec (.trainingFlit pkg i errs) s = .next s) ∧
        (m.training ≠ .none → (q, j) ≠ (pkg, i) → ∃ t, exec (.trainingFlit pkg i errs) s = .next t ∧ t.mem = s.mem ∧
          let v := (t.pkg q).link j
          let u := (t.pkg pkg).link i
          v = (if both then { m with training := .test 0, prbs := 2 ^ 31 - 1 }
            else { m with prbs := (prbsBits 2048 m.prbs).1 }) ∧
          u.symErr = (if wrong.length ≤ 12 then min (2 ^ 64 - 1) (l.symErr + wrong.length) else l.symErr) ∧
          ((l.training = .none ∨ (l.training = .exchange ∧ 12 < wrong.length ∧ ¬ both)) → u = { l with symErr := u.symErr }) ∧
          (l.training = .exchange → wrong.length ≤ 12 →
            u.heard = true ∧ u.gen = h % 256 ∧ u.partner = some (h / 2 ^ 16 % 4096, h / 2 ^ 8 % 256) ∧
            (u.seen = true ↔ sees)) ∧
          (both → u.training = .test 0 ∧ u.prbs = 2 ^ 31 - 1) ∧
          (¬ both → u.prbs = l.prbs ∧ (l.training = .exchange → u.training = .exchange)) ∧
          (∀ n, l.training = .test n → u.training = .test (n + 1) ∧ u.up = l.up ∧
            ∀ x, x < 16 → look u.laneErr 0 x =
              look l.laneErr 0 x + if wrong.length ≤ 12 then wrong.countP (· % 16 = x) else 16)) ∧
        (l.training ≠ .none → ((∀ n, l.training = .test n → n < 2 ^ 20) ∨ ∀ n, m.training = .test n → n < 2 ^ 20) →
          exec (.linkTraining pkg i) s = .next s) ∧
        (∀ n o up, l.training = .test n → 2 ^ 20 ≤ n → m.training = .test o → 2 ^ 20 ≤ o → (q, j) ≠ (pkg, i) →
          ((up = .healthy ∧ ∀ x, ¬ failed x) ∨ (∃ x, up = .erased x ∧ failed x ∧ ∀ y, failed y → y = x) ∨
            (up = .out ∧ ∃ x y, failed x ∧ failed y ∧ x ≠ y)) →
          ∃ t, exec (.linkTraining pkg i) s = .next t ∧ t.mem = s.mem ∧ (t.pkg pkg).link i = concluded up l ∧
            (t.pkg q).link j = concluded up m ∧
            let (ps, low) := t.aligned pkg
            (up ≠ .out → 7 ≤ (s.pkg pkg).step → 7 ≤ (s.pkg q).step → q ∈ ps →
              ∀ o ∈ ps, -4096 ≤ t.ahead o low ∧ t.ahead o low ≤ 4096)))

/-- A lane fails (R248, R249, R488): the first failure erases it, a second one of another lane takes the link out of service,
each at both ends; the flits of an end that were not acknowledged are sent on another link that the route table of its die
lists.  ROUTE_RECOMPUTE writes one table into all four dies: the entry of each other package lists at most four links in
service, each the beginning of a path of the fewest hops (R489). -/
def LaneAndRouteSteps : Prop :=
  (∀ (s : State) (pkg i lane : Nat), let l := (s.pkg pkg).link i
    let act := exec (.laneFailure pkg i lane) s
    ((16 ≤ lane ∨ l.up = .out ∨ l.up = .erased lane) → act = .next s) ∧
    (lane < 16 → l.up = .healthy → s.otherEnd l ≠ some (pkg, i) → ∃ t, act = .next t ∧ t.mem = s.mem ∧
      (t.pkg pkg).link i = { l with up := .erased lane, laneFail := min (2 ^ 64 - 1) (l.laneFail + 1) } ∧
      ∀ q j, s.otherEnd l = some (q, j) → let m := (s.pkg q).link j
        (t.pkg q).link j = { m with up := .erased lane, laneFail := min (2 ^ 64 - 1) (m.laneFail + 1) }) ∧
    (∀ x, lane < 16 → l.up = .erased x → x ≠ lane → s.otherEnd l ≠ some (pkg, i) → ∃ t, act = .next t ∧ t.mem = s.mem ∧
      ((t.pkg pkg).link i).up = .out ∧ ((t.pkg pkg).link i).unacked = [] ∧
      ((t.pkg pkg).link i).laneFail = min (2 ^ 64 - 1) (l.laneFail + 1) ∧
      ((t.pkg pkg).link i).training = .none ∧
      (∀ q j, s.otherEnd l = some (q, j) → ((t.pkg q).link j).up = .out ∧ ((t.pkg q).link j).unacked = []) ∧
      ∀ f, OwnIds s → l.unacked = [f] → f.packet = none →
        (∀ q j, s.otherEnd l = some (q, j) → q ≠ pkg ∧ ((s.pkg q).link j).unacked = []) →
        let home := (Config.packetDest f.hdr / 4096 % 4096, Config.packetDest f.hdr / 2 % 2048)
        let ls := (s.open_ pkg (i / 3) home.1).filter (· ≠ i)
        match ls[Config.linkHash home.2 ls.length % max 1 ls.length]? with
        | some j => let m := (s.pkg pkg).link j
          ((t.pkg pkg).link j).unacked = m.unacked ++ [{ f with kind := 1, seq := m.txSeq, ack := m.rxSeq }]
        | none => ∀ j, j ≠ i → (t.pkg pkg).link j = (s.pkg pkg).link j)) ∧
  (∀ (s : State), let pkg := corePkg s.cur
    let base := (s.pkg pkg).id * 2 ^ 44 + 0x300_0002_0000
    (∃ t, exec .routeRecompute s = .next t ∧ t.pkgs = s.pkgs ∧
      (∀ d p, d < 4 → p < 4096 → let ls := s.bestLinks pkg p
        t.num (base + 0x100_0000 * d + 4 * p) 4 = if p = (s.pkg pkg).id then 0
          else ls.length * 2 ^ 16 + ls.getD 3 0 * 2 ^ 12 + ls.getD 2 0 * 2 ^ 8 + ls.getD 1 0 * 2 ^ 4 + ls.getD 0 0) ∧
      ∀ q, (∀ d, d < 4 → q < base + 0x100_0000 * d ∨ base + 0x100_0000 * d + 0x4000 ≤ q) → t.byte q = s.byte q) ∧
    ∀ p, let ls := s.bestLinks pkg p
      ls.length ≤ 4 ∧
      ∀ i ∈ ls, ∃ b d, (i, b) ∈ s.neighbours pkg ∧ s.distance b p = some d ∧
        ∀ j ∈ s.neighbours pkg, ∀ e, s.distance j.2 p = some e → d ≤ e)

/-- Links train, fail and are routed. -/
def Obligations.LinkStateSteps : Prop :=
  TrainingSteps ∧ LaneAndRouteSteps


/-- The loss of a member (R257, R493): every member's record goes to STATE 1 with the flag, and the deltas for the lost holder
are dropped, which their cores are marked with; with a spare and no rebuild under way the other deltas are finished, STATE
goes to 2, the spare answers to the lost id with its own memory, it joins the group, and every other package's route table
has for that id what it has for the spare.  A spare that has taken a lost id before is none any more, and a second loss while
the spare rebuilds the first leaves the rebuild to go on with P and Q, or ends it where only P is kept (the model's readings:
log 70).  A package that is no member, is not joined, is
reached, or is lost already changes nothing. -/
def MemberLossSteps : Prop :=
  ∀ (s : State) (pkg lost r : Nat) (g : ParityGroup), let p := s.pkg pkg
    let act := exec (.memberLost pkg lost) s
    p.parity = some g →
    let g1 := { g with state := 1, flags := 1, lost := addNat g.lost r }
    let g2 := { g1 with state := 2, adopted := addNat g.adopted r, busy := some 0 }
    let counts := p.joined = true ∧ indexOf? (· == lost) g.ranks = some r ∧ has g.lost r = false ∧ p.id ≠ lost ∧
      s.reaches (pkg * 2048 + 1536) lost = false
    let sp := s.ownerOf g.spare
    let gone := s.ownerOf lost
    let entry := fun (a : Nat) => ∃ d, d < 4 ∧ a % 2 ^ 44 / 4 = (0x300_0002_0000 + 0x100_0000 * d) / 4 + lost
    ((lost ∉ g.ranks ∨ p.joined = false ∨ p.id = lost ∨ s.reaches (pkg * 2048 + 1536) lost = true ∨
      (indexOf? (· == lost) g.ranks = some r ∧ has g.lost r = true)) → act = .next s) ∧
    (counts → ((g.lost = [] ∧ (g.spare = 0xFFFF ∨ (s.pkg sp).id ≠ g.spare)) ∨ (g.lost ≠ [] ∧ g.busy = none)) →
      ∃ t, act = .next t ∧ t.mem = s.mem ∧ (t.pkg pkg).parity = some g1 ∧ (t.pkg pkg).id = p.id ∧
        (∀ d ∈ t.deltas, d.holder = lost → d.applied = true) ∧
        ∀ d ∈ s.deltas, ∀ k, d.holder = lost → d.applied = false → d.core = some k →
          has (t.core k).dropped g.group = true) ∧
    (counts → g.lost ≠ [] → g.busy ≠ none → s.deltas = [] → ∃ t, act = .next t ∧ t.mem = s.mem ∧
      (t.pkg pkg).parity = some (if g.m = 2 then { g1 with state := 2 } else { g1 with busy := none })) ∧
    (counts → g.spare ≠ 0xFFFF → (s.pkg sp).id = g.spare → g.lost = [] → s.deltas = [] → s.MemWf → OwnIds s → g.spare ≠ lost → lost < 4096 →
      g.spare < 4096 → g.ranks.find? (· ≠ lost) = some p.id → s.ownerOf p.id = pkg → sp ≠ pkg → gone ≠ pkg → sp ≠ gone →
      ∃ t, act = .next t ∧ (t.pkg pkg).parity = some g2 ∧ (t.pkg sp).parity = some g2 ∧ (t.pkg sp).id = lost ∧
        (t.pkg sp).joined = true ∧ (t.pkg gone).id = 4096 + gone ∧ (t.pkg gone).joined = false ∧
        (∀ a, a / 2 ^ 44 = lost → t.byte a = s.byte (a % 2 ^ 44 + g.spare * 2 ^ 44)) ∧
        (∀ a, a / 2 ^ 44 ≠ lost → a / 2 ^ 44 ≠ g.spare → ¬ entry a → t.byte a = s.byte a) ∧
        (∀ q x d, (q, x) ∈ s.pkgs → q ≠ sp → q ≠ gone → d < 4 → t.route q d lost = s.route q d g.spare) ∧
        (∀ q i, ((t.pkg q).link i).partner = ((s.pkg q).link i).partner.map fun x =>
          if x.1 = lost then (4096 + gone, x.2) else if x.1 = g.spare then (lost, x.2) else x) ∧
        ∀ k, k < 1557 → ((t.core (sp * 2048 + k)).domreg.toNat / 2 ^ 40) % 2 ^ 12 = lost % 4096)

/-- A stripe is rebuilt onto the spare (R493 steps 3 and 4, R256, R494): once no delta for it is outstanding, the lost member's
unit, where the stripe has one of it, gets its solved bytes, with every full-empty bit of it empty; with one parity unit each
byte is the XOR of the same byte of all the other units of the stripe, be the lost unit data or parity.  A unit that the
pursers' world may not reach leaves the stripe to be rebuilt, and the refusal is logged (R476, R477).  After the last stripe
STATE and the flag are 0, unless another member is lost, and the logs are discarded. -/
def StripeRebuildSteps : Prop :=
  ∀ (s : State) (pkg stripe r : Nat) (g : ParityGroup), let p := s.pkg pkg
    let at_ := g.unitAt stripe r
    let unit := g.hasUnit stripe r
    let shut := if unit then s.rebuildShut pkg g stripe r else none
    p.parity = some g →
    ((p.joined = false ∨ g.adopted = [] ∨ g.state ≠ 2 ∨ g.busy ≠ some stripe ∨ s.stripePending g stripe = true) →
      exec (.stripeRebuild pkg stripe) s = .next s) ∧
    (∀ d ∈ s.deltas, d.applied = false → d.holder ∈ g.ranks →
      64 * d.line % 2 ^ 44 / 4096 = parityUnit stripe / 4096 → s.stripePending g stripe = true) ∧
    (∀ note, p.joined = true → g.adopted.head? = some r → g.state = 2 → g.busy = some stripe →
      s.stripePending g stripe = false → shut = some note → exec (.stripeRebuild pkg stripe) s = .next (s.note note)) ∧
    (p.joined = true → g.adopted.head? = some r → g.state = 2 → g.busy = some stripe → s.stripePending g stripe = false →
      shut = none → (∀ q, (s.pkg q).deferred = []) → (∀ w ∈ s.feWait, w.prot = false) →
      ∃ t, exec (.stripeRebuild pkg stripe) s = .next t ∧
        (unit = true → ∀ i, i < 4096 → t.byte (at_ + i) = s.rebuiltByte g stripe r i) ∧
        (∀ q, (unit = false ∨ q < at_ ∨ at_ + 4096 ≤ q) → t.byte q = s.byte q) ∧
        (∀ w, has t.fe w = if unit = true ∧ at_ ≤ 8 * w ∧ 8 * w < at_ + 4096 then false else has s.fe w) ∧
        (stripe + 1 < g.stripes → (t.pkg pkg).parity = some { g with busy := some (stripe + 1) } ∧
          t.deltas = s.deltas) ∧
        (g.stripes ≤ stripe + 1 →
          let left := g.lost.filter (· ≠ r)
          let still := if left = [] then 0 else 1
          (t.pkg pkg).parity = some
            { g with lost := left, adopted := g.adopted.filter (· ≠ r), busy := none, state := still, flags := still } ∧
          t.deltas = (s.deltas.filter fun d => !(d.applied && has g.ranks d.home)) ∧
          (left = [] → ∀ x ∈ t.tasks, has x.2.dropped g.group = false) ∧
          ∀ k, has (t.core k).dropped g.group = if left = [] then false else has (s.core k).dropped g.group)) ∧
    (∀ off, g.m = 1 → g.lost = [r] → r < g.ranks.length → unit = true →
      let byte := fun (i : Nat) => (s.byte (g.unitAt stripe i + off)).toNat
      (s.rebuiltByte g stripe r off).toNat =
        ((upFrom 0 g.ranks.length).filter fun i => i ≠ r ∧
          (stripe % g.ranks.length = i ∨ g.unit i stripe < g.size / 4096)).foldl (fun a i => a ^^^ byte i) 0)

/-- The loss of a member and the rebuild of its stripes. -/
def Obligations.RebuildSteps : Prop :=
  MemberLossSteps ∧ StripeRebuildSteps


/-! Boot and operation -/

/-- A package after a reset (R479, R499, R501): at no step of its boot, with every core as reset leaves it; what it held is
gone; flash and fuses stay, and other packages' memory; the ends of links that lead to it are out of service and train no
more; deltas stay with their holders, and count on no core of the package. -/
def hasReset (s t : State) (pkg : Nat) : Prop :=
  let p := s.pkg pkg
  let u := t.pkg pkg
  u.flash = p.flash ∧ u.revoked = p.revoked ∧ u.minSvn = p.minSvn ∧ u.step = 0 ∧ u.id = pkg ∧ u.svn = 0 ∧ u.slot = 0 ∧
    u.faila = 0 ∧ u.failb = 0 ∧ u.cap = 2400 ∧ u.mail = [] ∧ u.windows = [] ∧ u.spaces = [] ∧ u.links = [] ∧
    u.parity = none ∧ u.loaded = [] ∧ u.rod = [] ∧ (∀ k, k < 1557 → t.core (pkg * 2048 + k) = .reset (pkg * 2048 + k)) ∧
    (∀ g x, find? t.graphs g = some x → g / 1024 ≠ pkg) ∧
    (∀ id x, (id, x) ∈ t.tasks → x.cluster / 32 ≠ pkg) ∧
    (∀ q, t.byte q = if q / 2 ^ 44 = p.id then 0 else s.byte q) ∧
    t.deltas = s.deltas.map (fun d => if d.core.any (corePkg · == pkg) then { d with core := none } else d) ∧
    ∀ i q j, q ≠ pkg → s.otherEnd ((s.pkg q).link j) = some (pkg, i) →
      ((t.pkg q).link j).up = .out ∧ ((t.pkg q).link j).training = .none

/-- The first boot steps, each a MODULE_RESET (R57, R479 to R483): the assay core starts; slot A is authenticated, after it
slot B, each failing check standing in the boot status word; the image that passes gives SVN, digests, configuration and
key; components but operator data are loaded; memory is zero, full-empty bits empty. -/
def BootImageSteps : Prop :=
  ∀ (s : State), let pkg := corePkg s.cur
    let p := s.pkg pkg
    let act := exec .moduleReset s
    let slot := if p.faila = 0 then 0 else 1
    let img := p.slotImage slot
    let st := authenticate p img
    let seed := (Config.sha3 (Config.deviceSecret pkg)).take 32
    (p.step = 0 → act = .next (s.setPkg pkg { p with step := 1 })) ∧
    (p.step = 1 → p.failb = 0 →
      (st ≠ 0 → p.faila = 0 → act = .next (s.setPkg pkg { p with faila := st })) ∧
      (st ≠ 0 → p.faila ≠ 0 → act = .next (s.setPkg pkg { p with failb := st })) ∧
      (st = 0 → act = .next (s.setPkg pkg { p with
        step := 2, slot := slot, svn := imgNum img 8 4, config := configBytes img
        digests := (upFrom 0 (compCount img)).map (digest img), idSeed := seed, idKey := Config.mlDsaPublic seed }))) ∧
    (p.step = 2 → act = .next (s.setPkg pkg { p with
      step := 3
      loaded := (((upFrom 0 (compCount (p.slotImage p.slot))).map (component (p.slotImage p.slot))).filter (·.1 ≠ 6)).map
        fun c => (c.1, imgBytes (p.slotImage p.slot) c.2.1 c.2.2) })) ∧
    (p.step = 3 → ∃ t, act = .next t ∧ t.pkgs = (s.setPkg pkg { p with step := 4 }).pkgs ∧ t.cores = s.cores ∧
      let mine := fun (a : Nat) => a / 2 ^ 44 = p.id ∨ a / 2 ^ 44 = (Config.confPackage p.config).toNat
      (∀ q, t.byte q = if mine q then 0 else s.byte q) ∧
      ∀ w, has t.fe w = if mine (8 * w) then false else has s.fe w)

/-- The boot's use of the configuration (R36, R53, R428, R464, R475, R484, R489, R491, R492, R500): step 5 writes the region
tables, with an entry before them that leaves the report area non-secure where they would not, and the roots; step 6 sets
the package id, port modes, the power cap, brought into its range, DOMREG, and VGRP, a core being alone where no group that R53
allows is given (the model's: log 24); step 7, once cabled links have trained, writes the routes and aligns the cycle
counter to within 4,096 of the packages met; step 8 joins the parity group and sets the cores free, and COMMIT raises the
fused minimum (R482). -/
def BootConfigSteps : Prop :=
  ∀ (s : State), let pkg := corePkg s.cur
    let p := s.pkg pkg
    let act := exec .moduleReset s
    let conf := p.config
    let id := (Config.confPackage conf).toNat
    (p.step = 4 → ∃ t, act = .next t ∧ (t.pkg pkg).step = 5 ∧
      (∀ d n e, d < 4 → n < 64 → (regionTable conf)[n]? = some e →
        t.num (id * 2 ^ 44 + 0x300_0001_0000 + 0x100_0000 * d + 8 * n) 8 = (e &&& 0xC000_3FFF_FFFF_FFFF).toNat) ∧
      makesSecure (regionTable conf) 0x3_FFFF = false ∧
      (makesSecure ((Config.confRegions conf).take 64) 0x3_FFFF = false →
        regionTable conf = (Config.confRegions conf).take 64) ∧
      (∀ q, q / 2 ^ 44 ≠ id → t.byte q = s.byte q) ∧
      ∀ k, k < 1557 → (t.core (pkg * 2048 + k)).ptroot0 = (Config.confRoots conf).1 &&& 0x0000_0FFF_FFFF_F000 ∧
        (t.core (pkg * 2048 + k)).ptroot1 = (Config.confRoots conf).2 &&& 0x0000_0FFF_FFFF_F000) ∧
    (p.step = 5 → ∃ t, act = .next t ∧ t.mem = s.mem ∧ (t.pkg pkg).step = 6 ∧ (t.pkg pkg).id = id ∧
      (t.pkg pkg).mode1 = (Config.confPorts conf).filter (· < 6) ∧
      (t.pkg pkg).cap = (match Config.confCap conf with
        | some w => max 1200 (min 2400 w)
        | none => 2400) ∧
      ∀ k, k < 1557 → let c := t.core (pkg * 2048 + k)
        c.domreg = domregAt (Config.confPart conf).toNat id k ∧
        let v := Config.confVgrp conf k
        let fits := v.2.toNat ∈ [1, 2, 4, 8] ∧ v.1.toNat = coreIndex k / v.2.toNat * v.2.toNat ∧
          ∀ i, i < v.2.toNat → Config.confVgrp conf (k - coreIndex k + (v.1.toNat + i)) = v
        (k < 1536 → (fits → c.vgrpFirst = v.1.toNat ∧ c.vgrpSize = v.2.toNat) ∧
          (¬ fits → c.vgrpFirst = coreIndex k ∧ c.vgrpSize = 1))) ∧
    (p.step = 6 →
      let trained := ∀ i, i < 12 → Config.cable pkg i ≠ none → (p.link i).retrain ≠ 0 ∧ (p.link i).training = .none
      (¬ trained → act = .next s) ∧
      (trained → ∃ t, act = .next t ∧ (t.pkg pkg).step = 7 ∧ (t.pkg pkg).id = p.id ∧
        (∀ d dst, d < 4 → dst < 4096 → dst ≠ p.id → t.route pkg d dst = s.bestLinks pkg dst) ∧
        let met := fun (q : Nat) => q ≠ pkg ∧ 7 ≤ (s.pkg q).step ∧
          ∃ e, e ∈ (s.hops [p.id] [p.id] (s.pkgs.length + 1)).flatten ∧ s.ownerOf e = q
        (OwnIds s → (∀ a b, met a → met b → (s.ahead a b).natAbs ≤ 4096) →
          ∀ q, met q → (t.ahead q pkg).natAbs ≤ 4096))) ∧
    (p.step = 7 → ∃ t, act = .next t ∧ (t.pkg pkg).step = 8 ∧ (t.pkg pkg).id = p.id ∧ t.mem = s.mem ∧
      (t.pkg pkg).parity = parityOf p.presents ∧
      (t.pkg pkg).minSvn = (if imgNum (p.slotImage p.slot) 12 4 % 2 = 1 then max p.minSvn p.svn else p.minSvn) ∧
      (∀ g, parityOf p.presents = some g → OwnIds s →
        (∀ m ∈ g.ranks, s.ownerOf m ≠ pkg →
          (s.pkg (s.ownerOf m)).parity = some g ∧ (s.pkg (s.ownerOf m)).presents = p.presents) →
        ∀ m ∈ g.ranks, (t.pkg (s.ownerOf m)).joined = true) ∧
      ∀ k, k < 1557 → (t.core (pkg * 2048 + k)).run = (if k < 1536 then .idle else .gated) ∧
        (t.core (pkg * 2048 + k)).domreg = (s.core (pkg * 2048 + k)).domreg)

/-- MODULE_RESET takes a package through the boot, step by step; one that has booted, or neither of whose slots passes, is
reset, and THERMAL_RESET resets it at any time while a die's junction stands at 115 °C (R479, R480, R501).  Memory that reads
zero after a reset, and zero in registers without a stated value, are the model's choice (logs 5 and 6). -/
def ResetSteps : Prop :=
  BootImageSteps ∧ BootConfigSteps ∧
  ∀ (s : State), let pkg := corePkg s.cur
    let p := s.pkg pkg
    ((8 ≤ p.step ∨ (p.step = 1 ∧ p.failb ≠ 0)) → ∃ t, exec .moduleReset s = .next t ∧ hasReset s t pkg) ∧
    let hot := ∃ d ∈ s.dies, d.1 / 4 = pkg ∧ 115 ≤ d.2.junction
    (hot → ∃ t, exec .thermalReset s = .next t ∧ hasReset s t pkg) ∧ (¬ hot → exec .thermalReset s = .next s)

/-- The bytes that an update's image has in HBM, and zero beyond them (R502; log 53). -/
def imageByte (s : State) (pkg adr len i : Nat) : Byte :=
  if i < len then s.byte ((s.pkg pkg).id * 2 ^ 44 + adr + i) else 0

/-- Whether a slot that an update writes reads back as it was written (R502; log 53). -/
def readsBack (s : State) (pkg adr len slot : Nat) : Prop :=
  ∀ c ∈ Config.flashWrong s.free slot, c.1 < 0x400_0000 → c.2 = imageByte s pkg adr len c.1

/-- The assay core serves a new report request (R484): the report, which begins with the nonce, at +0x100, then DONE; and a
new update request (R502): where the image passes slot B is written and, if it reads back so, slot A; the status, 1 to 6, 7
where a slot reads back otherwise, or 0, is at +0x70, then UPDDONE.  Its 8 bytes, and zeros beyond the image, are the
model's choice (log 53).  Sequence number 0, or the last served, asks for nothing. -/
def AssaySteps : Prop :=
  ∀ (s : State), let pkg := corePkg s.cur
    let p := s.pkg pkg
    let a := p.id * 2 ^ 44 + 0x07F_FFFF_0000
    let req := s.num (a + 0x40) 8
    let upd := s.num (a + 0x60) 8
    let (adr, len) := (s.num (a + 0x50) 8, s.num (a + 0x58) 8)
    let st := s.updateStatus pkg adr len
    ((p.step < 5 ∨ req = 0 ∨ req = p.lastReq) → exec .reportRequestPoll s = .next s) ∧
    (5 ≤ p.step → req ≠ 0 → req ≠ p.lastReq → ∃ t sig, exec .reportRequestPoll s = .next t ∧
      let report := s.reportBody pkg ++ sig
      sig = Config.mlDsaSign p.idSeed (Config.sha3 (s.reportBody pkg)) (ascii "VLN-K48-report") s.free ∧
      t.num (a + 0x48) 8 = req ∧ (t.pkg pkg).lastReq = req ∧ t.fe = s.fe ∧
      (∀ i, i < 64 → t.byte (a + 0x100 + i) = s.byte (a + i)) ∧
      (∀ i, i < report.length → i < 2 ^ 32 → t.byte (a + 0x100 + i) = report.getD i 0) ∧
      (∀ q, (q < a + 0x48 ∨ a + 0x50 ≤ q) → (q < a + 0x100 ∨ a + 0x100 + report.length ≤ q) → t.byte q = s.byte q)) ∧
    ((p.step < 5 ∨ upd = 0 ∨ upd = p.lastUpd) → exec .firmwareUpdate s = .next s) ∧
    (5 ≤ p.step → upd ≠ 0 → upd ≠ p.lastUpd → s.MemWf → ∃ t, exec .firmwareUpdate s = .next t ∧
      let reads := readsBack s pkg adr len
      let written := fun (slot : Nat) => st = 0 ∧ (slot = 1 ∨ reads 1)
      let byte := fun (slot i : Nat) => look (t.pkg pkg).flash 0 (slot * 0x400_0000 + i)
      t.num (a + 0x68) 8 = upd ∧ (t.pkg pkg).lastUpd = upd ∧ (st ≠ 0 → t.num (a + 0x70) 8 = st) ∧
      (st = 0 → reads 1 → reads 0 → t.num (a + 0x70) 8 = 0) ∧
      (st = 0 → ¬ (reads 1 ∧ reads 0) → t.num (a + 0x70) 8 = 7) ∧
      (∀ q, (q < a + 0x68 ∨ a + 0x78 ≤ q) → t.byte q = s.byte q) ∧
      (st = 0 → len ≤ 0x400_0000 ∧ adr + len ≤ 0x080_0000_0000) ∧
      ∀ slot i, slot < 2 → i < 0x400_0000 →
        (¬ written slot → byte slot i = look p.flash 0 (slot * 0x400_0000 + i)) ∧
        (written slot → (reads slot ∨ ∀ c ∈ Config.flashWrong s.free slot, c.1 ≠ i) →
          byte slot i = imageByte s pkg adr len i))

/-- POWER_FAILURE: a package stops; of an update that was due and passes, the first bytes of its writes, to slot B and then
to slot A, have reached the flash, so that one slot is whole (R502), where the flash reads back what is written. -/
def PowerFailureSteps : Prop :=
  ∀ (s : State) (pkg kept : Nat), let p := s.pkg pkg
    s.MemWf → ∃ t, exec (.powerFailure pkg kept) s = .next t ∧ (t.pkg pkg).step = 0 ∧
      (t.pkg pkg).minSvn = p.minSvn ∧ (t.pkg pkg).revoked = p.revoked ∧
      (∀ q, t.byte q = if q / 2 ^ 44 = p.id then 0 else s.byte q) ∧
      (s.updateDue pkg = none → (t.pkg pkg).flash = p.flash) ∧
      (∀ adr len seq, s.updateDue pkg = some (adr, len, seq) → readsBack s pkg adr len 1 → readsBack s pkg adr len 0 →
        let st := s.updateStatus pkg adr len
        (∀ i, i < 0x400_0000 → look (t.pkg pkg).flash 0 (0x400_0000 + i) =
          if st = 0 ∧ i < kept then imageByte s pkg adr len i else look p.flash 0 (0x400_0000 + i)) ∧
        (∀ i, i < 0x400_0000 → look (t.pkg pkg).flash 0 i =
          if st = 0 ∧ 0x400_0000 + i < kept then imageByte s pkg adr len i else look p.flash 0 i))

/-- Reset and boot, the assay core's services, and loss of power. -/
def Obligations.BootSteps : Prop :=
  ResetSteps ∧ AssaySteps ∧ PowerFailureSteps


/-- What the telemetry block holds beyond SEQ (R495 to R497, R499): the boot status word, the cycle counter, what the sensors
read, the clock steps, the counters, each link's lane health, the logs of refusals, and the parity group's state. -/
def TelemetryBody : Prop :=
  ∀ (s : State) (pkg power tin tjmax : Nat), let p := s.pkg pkg
    let c := p.counters
    let body := s.telemetryBody pkg power tin tjmax
    let num := fun (off n : Nat) => ofBytes ((body.drop (off - 8)).take n)
    body.length = 0x900 ∧ num 8 8 = bootWord p ∧ num 0x10 8 = s.cycle pkg ∧ num 0x18 4 = power % 2 ^ 32 ∧
      num 0x1C 2 = tin % 2 ^ 16 ∧ num 0x1E 2 = tjmax % 2 ^ 16 ∧
      (∀ d, d < 4 → (s.die (4 * pkg + d)).clock < 16 → num 0x20 4 / 2 ^ (4 * d) % 16 = (s.die (4 * pkg + d)).clock) ∧
      num 0x40 8 = c.cimpar % 2 ^ 64 ∧ num 0x48 8 = c.accce % 2 ^ 64 ∧ num 0x50 8 = c.accue % 2 ^ 64 ∧
      num 0x58 8 = c.memce % 2 ^ 64 ∧ num 0x60 8 = c.memue % 2 ^ 64 ∧ num 0x68 8 = c.dropped % 2 ^ 64 ∧
      num 0x70 8 = c.extra % 2 ^ 64 ∧ num 0x78 8 = c.hfault % 2 ^ 64 ∧
      (∀ i, i < 12 → let l := p.link i
        num (0x100 + 32 * i) 1 = (match l.up with
          | .out => 0
          | .healthy => 1
          | .erased _ => 2) ∧
        num (0x101 + 32 * i) 1 = l.gen % 2 ^ 8 ∧
        num (0x104 + 32 * i) 4 = l.retrain % 2 ^ 32 ∧ num (0x108 + 32 * i) 8 = l.symErr % 2 ^ 64 ∧
        num (0x110 + 32 * i) 8 = l.resent % 2 ^ 64 ∧ num (0x118 + 32 * i) 8 = l.laneFail % 2 ^ 64) ∧
      (∀ d r n, d < 4 → n < 16 → (s.die (4 * pkg + d)).log[n]? = some r →
        num (0x400 + 0x110 * d + 16 * n) 7 = r.addr % 2 ^ 56 ∧
        num (0x408 + 0x110 * d + 16 * n) 3 = r.endpoint % 2 ^ 24 ∧
        num (0x40B + 0x110 * d + 16 * n) 1 = r.kind % 2 ^ 8) ∧
      (∀ d, d < 4 → num (0x500 + 0x110 * d) 8 = (s.die (4 * pkg + d)).logMore % 2 ^ 64) ∧
      num 0x900 2 = (match p.parity with
        | some g => g.state % 2 ^ 8 + g.flags % 2 ^ 8 * 2 ^ 8
        | none => 0)

/-- The telemetry update (R498), which the model makes one write in each TELEMETRY_UPDATE, with a body fixed when SEQ becomes
odd (log 55, DESIGN CHOICE): SEQ becomes odd and the body is due, line by line; each line of it is written; and then SEQ
becomes even.  Where the pursers' world may not reach the block a write is refused and logged (R476, R477).  Before step 8 of
the boot there is none. -/
def TelemetrySteps : Prop :=
  ∀ (s : State) (pkg power tin tjmax : Nat), let p := s.pkg pkg
    let a := p.id * 2 ^ 44 + 0x07F_FFFF_8000
    let body := s.telemetryBody pkg power tin tjmax
    let ls := byLine (a + 8) body
    let act := exec (.telemetryUpdate pkg power tin tjmax) s
    let shut := fun (a : Nat) => s.shut (firmware (pkg * 2048 + 1536)) .store a 1
    let counts := fun (u : Option (List (Nat × List (Nat × Byte)))) => ∃ t, act = .next t ∧ t.fe = s.fe ∧
      t.num a 8 = (s.num a 8 + 1) % 2 ^ 64 ∧ t.pkgs = (s.setPkg pkg { p with update := u }).pkgs ∧
      ∀ q, (q < a ∨ a + 8 ≤ q) → t.byte q = s.byte q
    (p.step < 8 → act = .next s) ∧
    (8 ≤ p.step →
      (p.update = none → shut a = none → counts (some ls)) ∧
      (p.update = some [] → shut a = none → counts none) ∧
      (∀ l r note, p.update = some (l :: r) → shut (64 * l.1 + (l.2.headD (0, 0)).1) = some note → ∃ t, act = .next t ∧
        t.mem = s.mem ∧ t.dies = (s.note note).dies) ∧
      (∀ l r, p.update = some (l :: r) → shut (64 * l.1 + (l.2.headD (0, 0)).1) = none → ∃ t, act = .next t ∧ t.fe = s.fe ∧
        t.pkgs = (s.setPkg pkg { p with update := some r }).pkgs ∧
        ((l.2.map (·.1)).Nodup → (∀ x ∈ l.2, (64 * l.1 + x.1) % 2 ^ 44 < 0x300_0000_0000) →
          (∀ x ∈ l.2, t.byte (64 * l.1 + x.1) = x.2) ∧
          ∀ q, (∀ x ∈ l.2, q ≠ 64 * l.1 + x.1) → t.byte q = s.byte q))) ∧
    (∀ i, i < body.length → ∃ l ∈ ls, l.1 = (a + 8 + i) / 64 ∧ ((a + 8 + i) % 64, body.getD i 0) ∈ l.2) ∧
    (∀ l ∈ ls, (l.2.map (·.1)).Nodup ∧ ∀ x ∈ l.2, x.1 < 64 ∧ 64 * l.1 + x.1 < a + 8 + body.length ∧
      a + 8 ≤ 64 * l.1 + x.1)

/-- What an operator reads and what the clocks do (R495, R496, R498 to R501): the telemetry block; the boot status word on the
management bus, whose other commands are not acknowledged; and the clock steps, 0 to 8, one lower for a millisecond above
105 degrees or above the power cap, with the junction that a thermal reset looks at. -/
def Obligations.OperatorSteps : Prop :=
  TelemetryBody ∧ TelemetrySteps ∧
  ∀ (s : State) (pkg die code junction power : Nat), let p := s.pkg pkg
    let word := p.svn % 2 ^ 32 * 2 ^ 32 + p.slot % 2 * 2 ^ 16 + p.failb % 16 * 2 ^ 12 + p.faila % 16 * 2 ^ 8 + p.step % 16
    bootWord p = word ∧
    exec (.smbusBlockRead pkg code) s = .next (s.setPkg pkg { p with
      busOut := if code = 0x10 then some (8 :: toBytes 8 word) else none }) ∧
    exec (.smbusOtherCommand pkg code) s = .next (s.setPkg pkg { p with busOut := none }) ∧
    (let d := s.die die
     let hot := 105 < junction ∨ (s.pkg (die / 4)).cap < power
     (hot → exec (.clockStep die (junction, power)) s = .next (s.setDie die
       { d with clock := min 8 (d.clock + 1), junction := junction })) ∧
     (¬ hot → exec (.clockStep die (junction, power)) s = .next (s.setDie die
       { d with clock := d.clock - 1, junction := junction })))

/-! Reset, and what every step keeps -/

/-- Reset (R479 step 1, R499, R432, R57, R392): every core but the assay core is held; the system registers hold the values
their tables give, LSPLIT 14, MTHR all thresholds 0xFFFF, VGRP the core alone, the others zero but for the core's place;
the boot status word is zero, every mailbox byte is zero, every full-empty bit empty, every port and decoder closed.  Zero in
a register without a stated reset value (log 5) and memory that reads zero (log 6) are the model's choice. -/
def ResetValues : Prop :=
  let s := State.reset
  (∀ k, let c := s.core k
    c.run = (if k % 2048 = 1556 then .running else .held) ∧ c.spbanks = 14 ∧ (∀ i, look c.bfmt 0 i = 0) ∧ c.barbase = 0 ∧
      c.mthr = 0x0000_FFFF_FFFF_FFFF ∧ c.trapCause = 0 ∧ c.trapPc = 0 ∧ c.trapInfo = 0 ∧ c.ptroot0 = 0 ∧ c.ptroot1 = 0 ∧
      c.vgrpSize = 1 ∧ c.task = none ∧ c.rasD = 0 ∧ c.eng.handles = [] ∧ c.eng.bslots = []) ∧
  (∀ n, bootWord (s.pkg n) = 0 ∧ (s.pkg n).cap = 2400 ∧ (∀ a, look (s.pkg n).mail 0 a = 0) ∧ (s.pkg n).opened = false ∧
    ∀ i, ((s.pkg n).page i).isOpen = false ∧ ((s.pkg n).link i).up = .out) ∧
  (∀ w, has s.fe w = false) ∧ (∀ a, s.num a 8 = 0) ∧ (∀ d, (s.die d).decoders = []) ∧
  s.graphs = [] ∧ s.tasks = []

/-- The memories have their one canonical form at reset, and so has the list of tasks. -/
def ResetIsTidy : Prop := State.reset.Tidy

/-- The state after reset, and its canonical form. -/
def Obligations.ResetState : Prop :=
  ResetValues ∧ ResetIsTidy


/-- Every step keeps the canonical form of the memories and of the list of tasks, the model's own form of them (log 6), from every
state that has it: no listed
byte reads as an unlisted one does, no address is listed twice, and no two tasks share a number. -/
def Obligations.StepKeepsTidy : Prop := ∀ (s t : State), s.Tidy → step s = .next t → t.Tidy
end

