-- ==== Sys2Proof/Laws/Encoding.lean ====
section
/-! SUPPORT. Laws of heads and tails: the parts of an encoded head, a field of a tail as a remainder. -/

namespace Sys2Proof

theorem Guard.code_lt (g : Guard) : g.code < 16 := by
  obtain ⟨n, p⟩ := g
  have := p.isLt
  cases n <;> simp only [Guard.code, bit] <;> simp <;> omega

theorem headOpc_encHead {opc tl : Nat} (g : Guard) (h : opc < 512) : headOpc (encHead opc tl g) = opc := by
  have := g.code_lt
  unfold headOpc encHead
  omega

theorem headTl_encHead {opc tl : Nat} (g : Guard) (h : opc < 512) (ht : tl < 8) : headTl (encHead opc tl g) = tl := by
  have := g.code_lt
  unfold headTl encHead
  omega

/-- A field of a tail equals a value where the remainder does. -/
theorem fld_eq {n t lo : Nat} {x : BitVec n} (h : t / 2 ^ lo % 2 ^ n = x.toNat) : fld n t lo = x := by
  apply BitVec.eq_of_toNat_eq
  simpa [fld] using h

theorem toNat_fld (n t lo : Nat) : (fld n t lo).toNat = t / 2 ^ lo % 2 ^ n := by simp [fld]

theorem headGuard_encHead {opc tl : Nat} (g : Guard) : headGuard (encHead opc tl g) = g := by
  obtain ⟨n, p⟩ := g
  have hp := p.isLt
  have h1 : fld 3 (encHead opc tl ⟨n, p⟩) 0 = p := by
    apply fld_eq
    cases n <;> simp only [encHead, Guard.code, bit] <;> simp <;> omega
  have h2 : bitAt (encHead opc tl ⟨n, p⟩) 3 = n := by
    cases n <;> simp only [encHead, Guard.code, bit, bitAt] <;> simp <;> omega
  simp [headGuard, h1, h2]

/-- What a tail decodes to is what its head and it decode to. -/
theorem decode_encHead {opc tl t : Nat} {g : Guard} {i : Instr} (hl : tailLen opc = some tl) (ho : opc < 512)
    (htl : tl < 8) (ht : t < 2 ^ (16 * tl)) (hd : decodeTail opc g t = some i) (hw : i.wellFormed = true) :
    decode (encHead opc tl g) t = .ok i := by
  unfold decode
  rw [headOpc_encHead g ho, headTl_encHead g ho htl, headGuard_encHead, if_pos hl, Nat.mod_eq_of_lt ht, hd]
  simp [hw]

theorem keep_eq {ok : Bool} {i j : Instr} (h : ok = true) (e : i = j) : keep ok i = some j := by
  subst e; simp [keep, h]

/-! Codes -/

@[simp] theorem Ty.ofCode_code (t : Ty) : Ty.ofCode t.code = t := by cases t <;> rfl
@[simp] theorem Cond.ofCode_code (c : Cond) : Cond.ofCode c.code = some c := by cases c <;> rfl
@[simp] theorem Rm.ofCode_code (r : Rm) : Rm.ofCode r.code = r := by cases r <;> rfl
@[simp] theorem Ord.ofCode_code (o : Ord) : Ord.ofCode o.code = o := by cases o <;> rfl
@[simp] theorem Scope.ofCode_code (s : Scope) : Scope.ofCode s.code = some s := by cases s <;> rfl
@[simp] theorem Space.ofCode_code (s : Space) : Space.ofCode s.code = some s := by cases s <;> rfl
@[simp] theorem Queue.ofCode_code (q : Queue) : Queue.ofCode q.code = some q := by cases q <;> rfl
@[simp] theorem AmoOp.ofCode_code (f : AmoOp) : AmoOp.ofCode f.code = some f := by cases f <;> rfl

end Sys2Proof
end

