-- ==== Sys2Proof/Laws/Maps.lean ====
section
/-! SUPPORT. Laws of association lists: what a key reads as after a write, and that writes keep the canonical form. -/

namespace Sys2Proof.Machine

variable {α : Type}

theorem find?_insert_same (m : List (Nat × α)) (k : Nat) (x : α) : find? (insert m k x) k = some x := by
  induction m with
  | nil => simp [insert, find?]
  | cons c r ih =>
    obtain ⟨c, v⟩ := c
    simp only [insert]
    split
    · simp [find?]
    · split
      · simp [find?]
      · simp [find?, *]

theorem find?_insert_ne (m : List (Nat × α)) {j k : Nat} (x : α) (h : j ≠ k) :
    find? (insert m k x) j = find? m j := by
  induction m with
  | nil => simp [insert, find?, Ne.symm h]
  | cons c r ih =>
    obtain ⟨c, v⟩ := c
    simp only [insert]
    split
    · simp [find?, Ne.symm h]
    · split
      · subst c; simp [find?, Ne.symm h]
      · simp [find?, ih]

theorem find?_insert (m : List (Nat × α)) (j k : Nat) (x : α) :
    find? (insert m k x) j = if j = k then some x else find? m j := by
  split
  · subst j; exact find?_insert_same m k x
  · exact find?_insert_ne m x ‹_›

/-- The later of two writes to one key counts. -/
theorem insert_insert (m : List (Nat × α)) (k : Nat) (x y : α) : insert (insert m k x) k y = insert m k y := by
  induction m with
  | nil => simp [insert]
  | cons c r ih =>
    obtain ⟨c, v⟩ := c
    simp only [insert]
    split
    · simp [insert]
    · split
      · simp [insert]
      · simp [insert, *]

theorem find?_erase_same (m : List (Nat × α)) (k : Nat) : find? (erase m k) k = none := by
  induction m with
  | nil => rfl
  | cons c r ih => obtain ⟨c, v⟩ := c; simp only [erase]; split <;> simp [find?, *]

theorem find?_erase_ne (m : List (Nat × α)) {j k : Nat} (h : j ≠ k) : find? (erase m k) j = find? m j := by
  induction m with
  | nil => rfl
  | cons c r ih =>
    obtain ⟨c, v⟩ := c
    simp only [erase]
    split
    · subst c; simp [find?, ih, Ne.symm h]
    · simp [find?, ih]

section
variable [DecidableEq α]

theorem look_put_same (m : List (Nat × α)) (d : α) (k : Nat) (x : α) : look (put m d k x) d k = x := by
  unfold look put
  split
  · simp [find?_erase_same, *]
  · simp [find?_insert_same]

theorem look_put_ne (m : List (Nat × α)) (d : α) {j k : Nat} (x : α) (h : j ≠ k) :
    look (put m d k x) d j = look m d j := by
  unfold look put
  split
  · rw [find?_erase_ne m h]
  · rw [find?_insert_ne m x h]

/-- Read after write. -/
theorem look_put (m : List (Nat × α)) (d : α) (j k : Nat) (x : α) :
    look (put m d k x) d j = if j = k then x else look m d j := by
  split
  · subst j; exact look_put_same m d k x
  · exact look_put_ne m d x ‹_›

/-! The canonical form -/

theorem wfFrom_mono {d : α} : ∀ {lo lo' : Nat} {m : List (Nat × α)}, lo' ≤ lo → wfFrom d lo m = true → wfFrom d lo' m = true
  | _, _, [], _, _ => rfl
  | _, _, (k, v) :: r, hl, h => by
    simp only [wfFrom, Bool.and_eq_true, decide_eq_true_eq] at h ⊢
    exact ⟨⟨by omega, h.1.2⟩, h.2⟩

theorem wfFrom_insert {d : α} {x : α} (hx : x ≠ d) :
    ∀ {lo k : Nat} {m : List (Nat × α)}, lo ≤ k → wfFrom d lo m = true → wfFrom d lo (insert m k x) = true
  | lo, k, [], hl, _ => by simp [insert, wfFrom, hl, hx]
  | lo, k, (c, v) :: r, hl, h => by
    simp only [wfFrom, Bool.and_eq_true, decide_eq_true_eq] at h
    simp only [insert]
    split
    · simp only [wfFrom, Bool.and_eq_true, decide_eq_true_eq]
      exact ⟨⟨hl, by simpa using hx⟩, ⟨by omega, h.1.2⟩, h.2⟩
    · split
      · subst c
        simp only [wfFrom, Bool.and_eq_true, decide_eq_true_eq]
        exact ⟨⟨hl, by simpa using hx⟩, h.2⟩
      · simp only [wfFrom, Bool.and_eq_true, decide_eq_true_eq]
        exact ⟨h.1, wfFrom_insert hx (by omega) h.2⟩

theorem wfFrom_erase {d : α} : ∀ {lo k : Nat} {m : List (Nat × α)}, wfFrom d lo m = true → wfFrom d lo (erase m k) = true
  | _, _, [], _ => rfl
  | lo, k, (c, v) :: r, h => by
    simp only [wfFrom, Bool.and_eq_true, decide_eq_true_eq] at h
    simp only [erase]
    split
    · exact wfFrom_erase (wfFrom_mono (by omega) h.2)
    · simp only [wfFrom, Bool.and_eq_true, decide_eq_true_eq]
      exact ⟨h.1, wfFrom_erase h.2⟩

theorem wfFrom_filter {d : α} (p : Nat × α → Bool) :
    ∀ {lo : Nat} {m : List (Nat × α)}, wfFrom d lo m = true → wfFrom d lo (m.filter p) = true
  | _, [], _ => rfl
  | lo, (c, v) :: r, h => by
    simp only [wfFrom, Bool.and_eq_true, decide_eq_true_eq] at h
    simp only [List.filter]
    split
    · simp only [wfFrom, Bool.and_eq_true, decide_eq_true_eq]
      exact ⟨h.1, wfFrom_filter p h.2⟩
    · exact wfFrom_mono (by omega) (wfFrom_filter p h.2)

/-- A write keeps the canonical form. -/
theorem wf_put {d : α} {m : List (Nat × α)} (h : wf d m = true) (k : Nat) (x : α) : wf d (put m d k x) = true := by
  unfold put
  split
  · exact wfFrom_erase h
  · exact wfFrom_insert ‹_› (Nat.zero_le k) h

/-- Leaving entries out keeps the canonical form. -/
theorem wf_filter {d : α} {m : List (Nat × α)} (p : Nat × α → Bool) (h : wf d m = true) : wf d (m.filter p) = true :=
  wfFrom_filter p h

/-- Writing cells one after another keeps the canonical form. -/
theorem wf_foldl_put {d : α} (l : List (Nat × α)) :
    ∀ {m : List (Nat × α)}, wf d m = true → wf d (l.foldl (fun m c => put m d c.1 c.2) m) = true := by
  induction l with
  | nil => intro m h; exact h
  | cons c r ih => intro m h; exact ih (wf_put h c.1 c.2)

end

/-! Bytes -/

@[simp] theorem length_toBytes (n x : Nat) : (toBytes n x).length = n := by
  induction n generalizing x with
  | zero => rfl
  | succ n ih => simp [toBytes, ih]

/-- The number of the bytes of a number (R4). -/
theorem ofBytes_toBytes (n x : Nat) : ofBytes (toBytes n x) = x % 256 ^ n := by
  induction n generalizing x with
  | zero => simp [toBytes, ofBytes, Nat.mod_one]
  | succ n ih =>
    rw [toBytes, ofBytes, ih, BitVec.toNat_ofNat, show (256 : Nat) ^ (n + 1) = 256 * 256 ^ n by ring, Nat.mod_mul]

theorem ofBytes_lt (l : List Byte) : ofBytes l < 256 ^ l.length := by
  induction l with
  | nil => simp [ofBytes]
  | cons b r ih =>
    have := b.isLt
    simp only [ofBytes, List.length_cons, Nat.pow_succ]
    omega

end Sys2Proof.Machine
end

