-- ==== Sys2Proof/Laws/Regs.lean ====
section
/-! SUPPORT. Laws of the register files: read after write in each file, and the registers that discard writes. -/

namespace Sys2Proof.Machine

theorem reg_toNat_inj {a b : Reg} (h : a.toNat = b.toNat) : a = b := BitVec.eq_of_toNat_eq h

/-! Scalar registers -/

@[simp] theorem Regs.rs_zero (r : Regs) : r.rs 0 = 0 := rfl
@[simp] theorem Regs.ws_zero (r : Regs) (x : Word) : r.ws 0 x = r := rfl

/-- What s[n] reads as after a write of s[d]. -/
theorem Regs.rs_ws (r : Regs) (d n : Reg) (x : Word) : (r.ws d x).rs n = if n = d ∧ d ≠ 0#6 then x else r.rs n := by
  unfold Regs.ws Regs.rs
  by_cases hd : d = 0
  · subst hd; simp
  · have hd' : ¬d = 0#6 := hd
    by_cases hn : n = 0
    · subst hn
      have : ¬(0#6 : Reg) = d := Ne.symm hd'
      simp [this]
    · rw [if_neg hd, if_neg hn, if_neg hn]
      simp only [look_put]
      by_cases h : n = d
      · simp [h, hd']
      · have : n.toNat ≠ d.toNat := fun e => h (reg_toNat_inj e)
        simp [h, this]

theorem Regs.rs_ws_same (r : Regs) {d : Reg} (x : Word) (h : d ≠ 0#6) : (r.ws d x).rs d = x := by simp [Regs.rs_ws, h]

theorem Regs.rs_ws_ne (r : Regs) {d n : Reg} (x : Word) (h : n ≠ d) : (r.ws d x).rs n = r.rs n := by
  simp [Regs.rs_ws, h]

@[simp] theorem Regs.v_ws (r : Regs) (d : Reg) (x : Word) : (r.ws d x).v = r.v := by unfold Regs.ws; split <;> rfl
@[simp] theorem Regs.m_ws (r : Regs) (d : Reg) (x : Word) : (r.ws d x).m = r.m := by unfold Regs.ws; split <;> rfl
@[simp] theorem Regs.p_ws (r : Regs) (d : Reg) (x : Word) : (r.ws d x).p = r.p := by unfold Regs.ws; split <;> rfl
@[simp] theorem Regs.k_ws (r : Regs) (d : Reg) (x : Word) : (r.ws d x).k = r.k := by unfold Regs.ws; split <;> rfl
@[simp] theorem Regs.q_ws (r : Regs) (d : Reg) (x : Word) : (r.ws d x).q = r.q := by unfold Regs.ws; split <;> rfl

@[simp] theorem Regs.rv_ws (r : Regs) (d : Reg) (x : Word) (n : Nat) : (r.ws d x).rv n = r.rv n := by simp [Regs.rv]
@[simp] theorem Regs.rm_ws (r : Regs) (d : Reg) (x : Word) (n : Nat) : (r.ws d x).rm n = r.rm n := by simp [Regs.rm]
@[simp] theorem Regs.rp_ws (r : Regs) (d : Reg) (x : Word) (n : Nat) : (r.ws d x).rp n = r.rp n := by simp [Regs.rp]
@[simp] theorem Regs.rk_ws (r : Regs) (d : Reg) (x : Word) (n : Nat) : (r.ws d x).rk n = r.rk n := by simp [Regs.rk]
@[simp] theorem Regs.rq_ws (r : Regs) (d : Reg) (x : Word) (n : Nat) : (r.ws d x).rq n = r.rq n := by simp [Regs.rq]
@[simp] theorem Regs.guard_ws (r : Regs) (d : Reg) (x : Word) (g : Guard) : (r.ws d x).guard g = r.guard g := by
  simp [Regs.guard]

/-! Vector and mask registers -/

theorem Regs.rv_wv (r : Regs) (d n : Nat) (x : VWord) : (r.wv d x).rv n = if n = d then x else r.rv n :=
  look_put r.v 0 n d x

@[simp] theorem Regs.rv_wv_same (r : Regs) (d : Nat) (x : VWord) : (r.wv d x).rv d = x := by simp [Regs.rv_wv]

theorem Regs.rv_wv_ne (r : Regs) {d n : Nat} (x : VWord) (h : n ≠ d) : (r.wv d x).rv n = r.rv n := by
  simp [Regs.rv_wv, h]

@[simp] theorem Regs.s_wv (r : Regs) (d : Nat) (x : VWord) : (r.wv d x).s = r.s := rfl
@[simp] theorem Regs.m_wv (r : Regs) (d : Nat) (x : VWord) : (r.wv d x).m = r.m := rfl
@[simp] theorem Regs.p_wv (r : Regs) (d : Nat) (x : VWord) : (r.wv d x).p = r.p := rfl
@[simp] theorem Regs.k_wv (r : Regs) (d : Nat) (x : VWord) : (r.wv d x).k = r.k := rfl
@[simp] theorem Regs.q_wv (r : Regs) (d : Nat) (x : VWord) : (r.wv d x).q = r.q := rfl
@[simp] theorem Regs.rs_wv (r : Regs) (d : Nat) (x : VWord) (n : Reg) : (r.wv d x).rs n = r.rs n := rfl
@[simp] theorem Regs.rm_wv (r : Regs) (d : Nat) (x : VWord) (n : Nat) : (r.wv d x).rm n = r.rm n := rfl
@[simp] theorem Regs.rp_wv (r : Regs) (d : Nat) (x : VWord) (n : Nat) : (r.wv d x).rp n = r.rp n := rfl

@[simp] theorem Regs.rm_zero (r : Regs) : r.rm 0 = BitVec.allOnes 256 := rfl
@[simp] theorem Regs.wm_zero (r : Regs) (x : MWord) : r.wm 0 x = r := rfl

/-- What m[n] reads as after a write of m[d]. -/
theorem Regs.rm_wm (r : Regs) (d n : Nat) (x : MWord) : (r.wm d x).rm n = if n = d ∧ d ≠ 0 then x else r.rm n := by
  unfold Regs.wm Regs.rm
  by_cases hd : d = 0
  · simp [hd]
  · by_cases hn : n = 0
    · subst hn; simp [hd, Ne.symm hd]
    · simp only [hd, hn, if_false, look_put]
      by_cases h : n = d <;> simp [h, hd]

@[simp] theorem Regs.s_wm (r : Regs) (d : Nat) (x : MWord) : (r.wm d x).s = r.s := by unfold Regs.wm; split <;> rfl
@[simp] theorem Regs.v_wm (r : Regs) (d : Nat) (x : MWord) : (r.wm d x).v = r.v := by unfold Regs.wm; split <;> rfl
@[simp] theorem Regs.p_wm (r : Regs) (d : Nat) (x : MWord) : (r.wm d x).p = r.p := by unfold Regs.wm; split <;> rfl
@[simp] theorem Regs.k_wm (r : Regs) (d : Nat) (x : MWord) : (r.wm d x).k = r.k := by unfold Regs.wm; split <;> rfl
@[simp] theorem Regs.q_wm (r : Regs) (d : Nat) (x : MWord) : (r.wm d x).q = r.q := by unfold Regs.wm; split <;> rfl

/-! Predicates -/

@[simp] theorem Regs.rp_zero (r : Regs) : r.rp 0 = true := rfl
@[simp] theorem Regs.wp_zero (r : Regs) (x : Bool) : r.wp 0 x = r := rfl

/-- What p[n] reads as after a write of p[d]. -/
theorem Regs.rp_wp (r : Regs) (d n : Nat) (x : Bool) (hd : d < 8) (hn : n < 8) :
    (r.wp d x).rp n = if n = d ∧ d ≠ 0 then x else r.rp n := by
  unfold Regs.wp Regs.rp
  by_cases h0 : d = 0
  · simp [h0]
  · by_cases h : n = d
    · subst h
      cases x <;> simp [h0, hn]
    · have e : n < d ∨ n - d ≠ 0 := by omega
      have e' : ¬n < d → n - d ≠ 0 := by omega
      cases x <;> simp [h0, h, hn] <;> by_cases c : n < d <;> simp_all

@[simp] theorem Regs.s_wp (r : Regs) (d : Nat) (x : Bool) : (r.wp d x).s = r.s := by unfold Regs.wp; split <;> rfl
@[simp] theorem Regs.v_wp (r : Regs) (d : Nat) (x : Bool) : (r.wp d x).v = r.v := by unfold Regs.wp; split <;> rfl
@[simp] theorem Regs.m_wp (r : Regs) (d : Nat) (x : Bool) : (r.wp d x).m = r.m := by unfold Regs.wp; split <;> rfl
@[simp] theorem Regs.k_wp (r : Regs) (d : Nat) (x : Bool) : (r.wp d x).k = r.k := by unfold Regs.wp; split <;> rfl
@[simp] theorem Regs.q_wp (r : Regs) (d : Nat) (x : Bool) : (r.wp d x).q = r.q := by unfold Regs.wp; split <;> rfl
@[simp] theorem Regs.rs_wp (r : Regs) (d : Nat) (x : Bool) (n : Reg) : (r.wp d x).rs n = r.rs n := by simp [Regs.rs]
@[simp] theorem Regs.rv_wp (r : Regs) (d : Nat) (x : Bool) (n : Nat) : (r.wp d x).rv n = r.rv n := by simp [Regs.rv]
@[simp] theorem Regs.rm_wp (r : Regs) (d : Nat) (x : Bool) (n : Nat) : (r.wp d x).rm n = r.rm n := by simp [Regs.rm]

/-! Counters and coefficients -/

theorem Regs.rk_wk (r : Regs) (d n : Nat) (x : BitVec 32) : (r.wk d x).rk n = if n = d then x else r.rk n :=
  look_put r.k 0 n d x

theorem Regs.rq_wq (r : Regs) (d n : Nat) (x : BitVec 32) : (r.wq d x).rq n = if n = d then x else r.rq n :=
  look_put r.q 0 n d x

@[simp] theorem Regs.rs_wk (r : Regs) (d : Nat) (x : BitVec 32) (n : Reg) : (r.wk d x).rs n = r.rs n := rfl
@[simp] theorem Regs.rs_wq (r : Regs) (d : Nat) (x : BitVec 32) (n : Reg) : (r.wq d x).rs n = r.rs n := rfl

end Sys2Proof.Machine
end

