-- ==== Sys2Proof/Laws/State.lean ====
section
/-! SUPPORT. One lemma per field per update of the state and of a core, and what the parts of a state read as after an
update of a part. -/

namespace Sys2Proof.Machine

/-! Parts of the state -/

@[simp] theorem State.mem_setCore (s : State) (n : Nat) (x : Core) : (s.setCore n x).mem = s.mem := rfl
@[simp] theorem State.fe_setCore (s : State) (n : Nat) (x : Core) : (s.setCore n x).fe = s.fe := rfl
@[simp] theorem State.ue_setCore (s : State) (n : Nat) (x : Core) : (s.setCore n x).ue = s.ue := rfl
@[simp] theorem State.hostMem_setCore (s : State) (n : Nat) (x : Core) : (s.setCore n x).hostMem = s.hostMem := rfl
@[simp] theorem State.winMem_setCore (s : State) (n : Nat) (x : Core) : (s.setCore n x).winMem = s.winMem := rfl
@[simp] theorem State.clusters_setCore (s : State) (n : Nat) (x : Core) : (s.setCore n x).clusters = s.clusters := rfl
@[simp] theorem State.dies_setCore (s : State) (n : Nat) (x : Core) : (s.setCore n x).dies = s.dies := rfl
@[simp] theorem State.pkgs_setCore (s : State) (n : Nat) (x : Core) : (s.setCore n x).pkgs = s.pkgs := rfl
@[simp] theorem State.graphs_setCore (s : State) (n : Nat) (x : Core) : (s.setCore n x).graphs = s.graphs := rfl
@[simp] theorem State.tasks_setCore (s : State) (n : Nat) (x : Core) : (s.setCore n x).tasks = s.tasks := rfl
@[simp] theorem State.harnesses_setCore (s : State) (n : Nat) (x : Core) : (s.setCore n x).harnesses = s.harnesses := rfl
@[simp] theorem State.rings_setCore (s : State) (n : Nat) (x : Core) : (s.setCore n x).rings = s.rings := rfl
@[simp] theorem State.steps_setCore (s : State) (n : Nat) (x : Core) : (s.setCore n x).steps = s.steps := rfl
@[simp] theorem State.feWait_setCore (s : State) (n : Nat) (x : Core) : (s.setCore n x).feWait = s.feWait := rfl
@[simp] theorem State.watch_setCore (s : State) (n : Nat) (x : Core) : (s.setCore n x).watch = s.watch := rfl
@[simp] theorem State.resv_setCore (s : State) (n : Nat) (x : Core) : (s.setCore n x).resv = s.resv := rfl
@[simp] theorem State.deltas_setCore (s : State) (n : Nat) (x : Core) : (s.setCore n x).deltas = s.deltas := rfl
@[simp] theorem State.fresh_setCore (s : State) (n : Nat) (x : Core) : (s.setCore n x).fresh = s.fresh := rfl
@[simp] theorem State.free_setCore (s : State) (n : Nat) (x : Core) : (s.setCore n x).free = s.free := rfl
@[simp] theorem State.sched_setCore (s : State) (n : Nat) (x : Core) : (s.setCore n x).sched = s.sched := rfl
@[simp] theorem State.cur_setCore (s : State) (n : Nat) (x : Core) : (s.setCore n x).cur = s.cur := rfl
@[simp] theorem State.tick_setCore (s : State) (n : Nat) (x : Core) : (s.setCore n x).tick = s.tick := rfl
@[simp] theorem State.late_setCore (s : State) (n : Nat) (x : Core) : (s.setCore n x).late = s.late := rfl
@[simp] theorem State.mem_setCluster (s : State) (n : Nat) (x : Cluster) : (s.setCluster n x).mem = s.mem := rfl
@[simp] theorem State.fe_setCluster (s : State) (n : Nat) (x : Cluster) : (s.setCluster n x).fe = s.fe := rfl
@[simp] theorem State.ue_setCluster (s : State) (n : Nat) (x : Cluster) : (s.setCluster n x).ue = s.ue := rfl
@[simp] theorem State.hostMem_setCluster (s : State) (n : Nat) (x : Cluster) : (s.setCluster n x).hostMem = s.hostMem := rfl
@[simp] theorem State.winMem_setCluster (s : State) (n : Nat) (x : Cluster) : (s.setCluster n x).winMem = s.winMem := rfl
@[simp] theorem State.cores_setCluster (s : State) (n : Nat) (x : Cluster) : (s.setCluster n x).cores = s.cores := rfl
@[simp] theorem State.dies_setCluster (s : State) (n : Nat) (x : Cluster) : (s.setCluster n x).dies = s.dies := rfl
@[simp] theorem State.pkgs_setCluster (s : State) (n : Nat) (x : Cluster) : (s.setCluster n x).pkgs = s.pkgs := rfl
@[simp] theorem State.graphs_setCluster (s : State) (n : Nat) (x : Cluster) : (s.setCluster n x).graphs = s.graphs := rfl
@[simp] theorem State.tasks_setCluster (s : State) (n : Nat) (x : Cluster) : (s.setCluster n x).tasks = s.tasks := rfl
@[simp] theorem State.harnesses_setCluster (s : State) (n : Nat) (x : Cluster) : (s.setCluster n x).harnesses = s.harnesses := rfl
@[simp] theorem State.rings_setCluster (s : State) (n : Nat) (x : Cluster) : (s.setCluster n x).rings = s.rings := rfl
@[simp] theorem State.steps_setCluster (s : State) (n : Nat) (x : Cluster) : (s.setCluster n x).steps = s.steps := rfl
@[simp] theorem State.feWait_setCluster (s : State) (n : Nat) (x : Cluster) : (s.setCluster n x).feWait = s.feWait := rfl
@[simp] theorem State.watch_setCluster (s : State) (n : Nat) (x : Cluster) : (s.setCluster n x).watch = s.watch := rfl
@[simp] theorem State.resv_setCluster (s : State) (n : Nat) (x : Cluster) : (s.setCluster n x).resv = s.resv := rfl
@[simp] theorem State.deltas_setCluster (s : State) (n : Nat) (x : Cluster) : (s.setCluster n x).deltas = s.deltas := rfl
@[simp] theorem State.fresh_setCluster (s : State) (n : Nat) (x : Cluster) : (s.setCluster n x).fresh = s.fresh := rfl
@[simp] theorem State.free_setCluster (s : State) (n : Nat) (x : Cluster) : (s.setCluster n x).free = s.free := rfl
@[simp] theorem State.sched_setCluster (s : State) (n : Nat) (x : Cluster) : (s.setCluster n x).sched = s.sched := rfl
@[simp] theorem State.cur_setCluster (s : State) (n : Nat) (x : Cluster) : (s.setCluster n x).cur = s.cur := rfl
@[simp] theorem State.tick_setCluster (s : State) (n : Nat) (x : Cluster) : (s.setCluster n x).tick = s.tick := rfl
@[simp] theorem State.late_setCluster (s : State) (n : Nat) (x : Cluster) : (s.setCluster n x).late = s.late := rfl
@[simp] theorem State.mem_setDie (s : State) (n : Nat) (x : Die) : (s.setDie n x).mem = s.mem := rfl
@[simp] theorem State.fe_setDie (s : State) (n : Nat) (x : Die) : (s.setDie n x).fe = s.fe := rfl
@[simp] theorem State.ue_setDie (s : State) (n : Nat) (x : Die) : (s.setDie n x).ue = s.ue := rfl
@[simp] theorem State.hostMem_setDie (s : State) (n : Nat) (x : Die) : (s.setDie n x).hostMem = s.hostMem := rfl
@[simp] theorem State.winMem_setDie (s : State) (n : Nat) (x : Die) : (s.setDie n x).winMem = s.winMem := rfl
@[simp] theorem State.cores_setDie (s : State) (n : Nat) (x : Die) : (s.setDie n x).cores = s.cores := rfl
@[simp] theorem State.clusters_setDie (s : State) (n : Nat) (x : Die) : (s.setDie n x).clusters = s.clusters := rfl
@[simp] theorem State.pkgs_setDie (s : State) (n : Nat) (x : Die) : (s.setDie n x).pkgs = s.pkgs := rfl
@[simp] theorem State.graphs_setDie (s : State) (n : Nat) (x : Die) : (s.setDie n x).graphs = s.graphs := rfl
@[simp] theorem State.tasks_setDie (s : State) (n : Nat) (x : Die) : (s.setDie n x).tasks = s.tasks := rfl
@[simp] theorem State.harnesses_setDie (s : State) (n : Nat) (x : Die) : (s.setDie n x).harnesses = s.harnesses := rfl
@[simp] theorem State.rings_setDie (s : State) (n : Nat) (x : Die) : (s.setDie n x).rings = s.rings := rfl
@[simp] theorem State.steps_setDie (s : State) (n : Nat) (x : Die) : (s.setDie n x).steps = s.steps := rfl
@[simp] theorem State.feWait_setDie (s : State) (n : Nat) (x : Die) : (s.setDie n x).feWait = s.feWait := rfl
@[simp] theorem State.watch_setDie (s : State) (n : Nat) (x : Die) : (s.setDie n x).watch = s.watch := rfl
@[simp] theorem State.resv_setDie (s : State) (n : Nat) (x : Die) : (s.setDie n x).resv = s.resv := rfl
@[simp] theorem State.deltas_setDie (s : State) (n : Nat) (x : Die) : (s.setDie n x).deltas = s.deltas := rfl
@[simp] theorem State.fresh_setDie (s : State) (n : Nat) (x : Die) : (s.setDie n x).fresh = s.fresh := rfl
@[simp] theorem State.free_setDie (s : State) (n : Nat) (x : Die) : (s.setDie n x).free = s.free := rfl
@[simp] theorem State.sched_setDie (s : State) (n : Nat) (x : Die) : (s.setDie n x).sched = s.sched := rfl
@[simp] theorem State.cur_setDie (s : State) (n : Nat) (x : Die) : (s.setDie n x).cur = s.cur := rfl
@[simp] theorem State.tick_setDie (s : State) (n : Nat) (x : Die) : (s.setDie n x).tick = s.tick := rfl
@[simp] theorem State.late_setDie (s : State) (n : Nat) (x : Die) : (s.setDie n x).late = s.late := rfl
@[simp] theorem State.mem_setPkg (s : State) (n : Nat) (x : Package) : (s.setPkg n x).mem = s.mem := rfl
@[simp] theorem State.fe_setPkg (s : State) (n : Nat) (x : Package) : (s.setPkg n x).fe = s.fe := rfl
@[simp] theorem State.ue_setPkg (s : State) (n : Nat) (x : Package) : (s.setPkg n x).ue = s.ue := rfl
@[simp] theorem State.hostMem_setPkg (s : State) (n : Nat) (x : Package) : (s.setPkg n x).hostMem = s.hostMem := rfl
@[simp] theorem State.winMem_setPkg (s : State) (n : Nat) (x : Package) : (s.setPkg n x).winMem = s.winMem := rfl
@[simp] theorem State.cores_setPkg (s : State) (n : Nat) (x : Package) : (s.setPkg n x).cores = s.cores := rfl
@[simp] theorem State.clusters_setPkg (s : State) (n : Nat) (x : Package) : (s.setPkg n x).clusters = s.clusters := rfl
@[simp] theorem State.dies_setPkg (s : State) (n : Nat) (x : Package) : (s.setPkg n x).dies = s.dies := rfl
@[simp] theorem State.graphs_setPkg (s : State) (n : Nat) (x : Package) : (s.setPkg n x).graphs = s.graphs := rfl
@[simp] theorem State.tasks_setPkg (s : State) (n : Nat) (x : Package) : (s.setPkg n x).tasks = s.tasks := rfl
@[simp] theorem State.harnesses_setPkg (s : State) (n : Nat) (x : Package) : (s.setPkg n x).harnesses = s.harnesses := rfl
@[simp] theorem State.rings_setPkg (s : State) (n : Nat) (x : Package) : (s.setPkg n x).rings = s.rings := rfl
@[simp] theorem State.steps_setPkg (s : State) (n : Nat) (x : Package) : (s.setPkg n x).steps = s.steps := rfl
@[simp] theorem State.feWait_setPkg (s : State) (n : Nat) (x : Package) : (s.setPkg n x).feWait = s.feWait := rfl
@[simp] theorem State.watch_setPkg (s : State) (n : Nat) (x : Package) : (s.setPkg n x).watch = s.watch := rfl
@[simp] theorem State.resv_setPkg (s : State) (n : Nat) (x : Package) : (s.setPkg n x).resv = s.resv := rfl
@[simp] theorem State.deltas_setPkg (s : State) (n : Nat) (x : Package) : (s.setPkg n x).deltas = s.deltas := rfl
@[simp] theorem State.fresh_setPkg (s : State) (n : Nat) (x : Package) : (s.setPkg n x).fresh = s.fresh := rfl
@[simp] theorem State.free_setPkg (s : State) (n : Nat) (x : Package) : (s.setPkg n x).free = s.free := rfl
@[simp] theorem State.sched_setPkg (s : State) (n : Nat) (x : Package) : (s.setPkg n x).sched = s.sched := rfl
@[simp] theorem State.cur_setPkg (s : State) (n : Nat) (x : Package) : (s.setPkg n x).cur = s.cur := rfl
@[simp] theorem State.tick_setPkg (s : State) (n : Nat) (x : Package) : (s.setPkg n x).tick = s.tick := rfl
@[simp] theorem State.late_setPkg (s : State) (n : Nat) (x : Package) : (s.setPkg n x).late = s.late := rfl
@[simp] theorem State.mem_modCore (s : State) (n : Nat) (f : Core → Core) : (s.modCore n f).mem = s.mem := rfl
@[simp] theorem State.fe_modCore (s : State) (n : Nat) (f : Core → Core) : (s.modCore n f).fe = s.fe := rfl
@[simp] theorem State.ue_modCore (s : State) (n : Nat) (f : Core → Core) : (s.modCore n f).ue = s.ue := rfl
@[simp] theorem State.hostMem_modCore (s : State) (n : Nat) (f : Core → Core) : (s.modCore n f).hostMem = s.hostMem := rfl
@[simp] theorem State.winMem_modCore (s : State) (n : Nat) (f : Core → Core) : (s.modCore n f).winMem = s.winMem := rfl
@[simp] theorem State.clusters_modCore (s : State) (n : Nat) (f : Core → Core) : (s.modCore n f).clusters = s.clusters := rfl
@[simp] theorem State.dies_modCore (s : State) (n : Nat) (f : Core → Core) : (s.modCore n f).dies = s.dies := rfl
@[simp] theorem State.pkgs_modCore (s : State) (n : Nat) (f : Core → Core) : (s.modCore n f).pkgs = s.pkgs := rfl
@[simp] theorem State.graphs_modCore (s : State) (n : Nat) (f : Core → Core) : (s.modCore n f).graphs = s.graphs := rfl
@[simp] theorem State.tasks_modCore (s : State) (n : Nat) (f : Core → Core) : (s.modCore n f).tasks = s.tasks := rfl
@[simp] theorem State.harnesses_modCore (s : State) (n : Nat) (f : Core → Core) : (s.modCore n f).harnesses = s.harnesses := rfl
@[simp] theorem State.rings_modCore (s : State) (n : Nat) (f : Core → Core) : (s.modCore n f).rings = s.rings := rfl
@[simp] theorem State.steps_modCore (s : State) (n : Nat) (f : Core → Core) : (s.modCore n f).steps = s.steps := rfl
@[simp] theorem State.feWait_modCore (s : State) (n : Nat) (f : Core → Core) : (s.modCore n f).feWait = s.feWait := rfl
@[simp] theorem State.watch_modCore (s : State) (n : Nat) (f : Core → Core) : (s.modCore n f).watch = s.watch := rfl
@[simp] theorem State.resv_modCore (s : State) (n : Nat) (f : Core → Core) : (s.modCore n f).resv = s.resv := rfl
@[simp] theorem State.deltas_modCore (s : State) (n : Nat) (f : Core → Core) : (s.modCore n f).deltas = s.deltas := rfl
@[simp] theorem State.fresh_modCore (s : State) (n : Nat) (f : Core → Core) : (s.modCore n f).fresh = s.fresh := rfl
@[simp] theorem State.free_modCore (s : State) (n : Nat) (f : Core → Core) : (s.modCore n f).free = s.free := rfl
@[simp] theorem State.sched_modCore (s : State) (n : Nat) (f : Core → Core) : (s.modCore n f).sched = s.sched := rfl
@[simp] theorem State.cur_modCore (s : State) (n : Nat) (f : Core → Core) : (s.modCore n f).cur = s.cur := rfl
@[simp] theorem State.tick_modCore (s : State) (n : Nat) (f : Core → Core) : (s.modCore n f).tick = s.tick := rfl
@[simp] theorem State.late_modCore (s : State) (n : Nat) (f : Core → Core) : (s.modCore n f).late = s.late := rfl
@[simp] theorem State.mem_modCluster (s : State) (n : Nat) (f : Cluster → Cluster) : (s.modCluster n f).mem = s.mem := rfl
@[simp] theorem State.fe_modCluster (s : State) (n : Nat) (f : Cluster → Cluster) : (s.modCluster n f).fe = s.fe := rfl
@[simp] theorem State.ue_modCluster (s : State) (n : Nat) (f : Cluster → Cluster) : (s.modCluster n f).ue = s.ue := rfl
@[simp] theorem State.hostMem_modCluster (s : State) (n : Nat) (f : Cluster → Cluster) : (s.modCluster n f).hostMem = s.hostMem := rfl
@[simp] theorem State.winMem_modCluster (s : State) (n : Nat) (f : Cluster → Cluster) : (s.modCluster n f).winMem = s.winMem := rfl
@[simp] theorem State.cores_modCluster (s : State) (n : Nat) (f : Cluster → Cluster) : (s.modCluster n f).cores = s.cores := rfl
@[simp] theorem State.dies_modCluster (s : State) (n : Nat) (f : Cluster → Cluster) : (s.modCluster n f).dies = s.dies := rfl
@[simp] theorem State.pkgs_modCluster (s : State) (n : Nat) (f : Cluster → Cluster) : (s.modCluster n f).pkgs = s.pkgs := rfl
@[simp] theorem State.graphs_modCluster (s : State) (n : Nat) (f : Cluster → Cluster) : (s.modCluster n f).graphs = s.graphs := rfl
@[simp] theorem State.tasks_modCluster (s : State) (n : Nat) (f : Cluster → Cluster) : (s.modCluster n f).tasks = s.tasks := rfl
@[simp] theorem State.harnesses_modCluster (s : State) (n : Nat) (f : Cluster → Cluster) : (s.modCluster n f).harnesses = s.harnesses := rfl
@[simp] theorem State.rings_modCluster (s : State) (n : Nat) (f : Cluster → Cluster) : (s.modCluster n f).rings = s.rings := rfl
@[simp] theorem State.steps_modCluster (s : State) (n : Nat) (f : Cluster → Cluster) : (s.modCluster n f).steps = s.steps := rfl
@[simp] theorem State.feWait_modCluster (s : State) (n : Nat) (f : Cluster → Cluster) : (s.modCluster n f).feWait = s.feWait := rfl
@[simp] theorem State.watch_modCluster (s : State) (n : Nat) (f : Cluster → Cluster) : (s.modCluster n f).watch = s.watch := rfl
@[simp] theorem State.resv_modCluster (s : State) (n : Nat) (f : Cluster → Cluster) : (s.modCluster n f).resv = s.resv := rfl
@[simp] theorem State.deltas_modCluster (s : State) (n : Nat) (f : Cluster → Cluster) : (s.modCluster n f).deltas = s.deltas := rfl
@[simp] theorem State.fresh_modCluster (s : State) (n : Nat) (f : Cluster → Cluster) : (s.modCluster n f).fresh = s.fresh := rfl
@[simp] theorem State.free_modCluster (s : State) (n : Nat) (f : Cluster → Cluster) : (s.modCluster n f).free = s.free := rfl
@[simp] theorem State.sched_modCluster (s : State) (n : Nat) (f : Cluster → Cluster) : (s.modCluster n f).sched = s.sched := rfl
@[simp] theorem State.cur_modCluster (s : State) (n : Nat) (f : Cluster → Cluster) : (s.modCluster n f).cur = s.cur := rfl
@[simp] theorem State.tick_modCluster (s : State) (n : Nat) (f : Cluster → Cluster) : (s.modCluster n f).tick = s.tick := rfl
@[simp] theorem State.late_modCluster (s : State) (n : Nat) (f : Cluster → Cluster) : (s.modCluster n f).late = s.late := rfl
@[simp] theorem State.mem_modDie (s : State) (n : Nat) (f : Die → Die) : (s.modDie n f).mem = s.mem := rfl
@[simp] theorem State.fe_modDie (s : State) (n : Nat) (f : Die → Die) : (s.modDie n f).fe = s.fe := rfl
@[simp] theorem State.ue_modDie (s : State) (n : Nat) (f : Die → Die) : (s.modDie n f).ue = s.ue := rfl
@[simp] theorem State.hostMem_modDie (s : State) (n : Nat) (f : Die → Die) : (s.modDie n f).hostMem = s.hostMem := rfl
@[simp] theorem State.winMem_modDie (s : State) (n : Nat) (f : Die → Die) : (s.modDie n f).winMem = s.winMem := rfl
@[simp] theorem State.cores_modDie (s : State) (n : Nat) (f : Die → Die) : (s.modDie n f).cores = s.cores := rfl
@[simp] theorem State.clusters_modDie (s : State) (n : Nat) (f : Die → Die) : (s.modDie n f).clusters = s.clusters := rfl
@[simp] theorem State.pkgs_modDie (s : State) (n : Nat) (f : Die → Die) : (s.modDie n f).pkgs = s.pkgs := rfl
@[simp] theorem State.graphs_modDie (s : State) (n : Nat) (f : Die → Die) : (s.modDie n f).graphs = s.graphs := rfl
@[simp] theorem State.tasks_modDie (s : State) (n : Nat) (f : Die → Die) : (s.modDie n f).tasks = s.tasks := rfl
@[simp] theorem State.harnesses_modDie (s : State) (n : Nat) (f : Die → Die) : (s.modDie n f).harnesses = s.harnesses := rfl
@[simp] theorem State.rings_modDie (s : State) (n : Nat) (f : Die → Die) : (s.modDie n f).rings = s.rings := rfl
@[simp] theorem State.steps_modDie (s : State) (n : Nat) (f : Die → Die) : (s.modDie n f).steps = s.steps := rfl
@[simp] theorem State.feWait_modDie (s : State) (n : Nat) (f : Die → Die) : (s.modDie n f).feWait = s.feWait := rfl
@[simp] theorem State.watch_modDie (s : State) (n : Nat) (f : Die → Die) : (s.modDie n f).watch = s.watch := rfl
@[simp] theorem State.resv_modDie (s : State) (n : Nat) (f : Die → Die) : (s.modDie n f).resv = s.resv := rfl
@[simp] theorem State.deltas_modDie (s : State) (n : Nat) (f : Die → Die) : (s.modDie n f).deltas = s.deltas := rfl
@[simp] theorem State.fresh_modDie (s : State) (n : Nat) (f : Die → Die) : (s.modDie n f).fresh = s.fresh := rfl
@[simp] theorem State.free_modDie (s : State) (n : Nat) (f : Die → Die) : (s.modDie n f).free = s.free := rfl
@[simp] theorem State.sched_modDie (s : State) (n : Nat) (f : Die → Die) : (s.modDie n f).sched = s.sched := rfl
@[simp] theorem State.cur_modDie (s : State) (n : Nat) (f : Die → Die) : (s.modDie n f).cur = s.cur := rfl
@[simp] theorem State.tick_modDie (s : State) (n : Nat) (f : Die → Die) : (s.modDie n f).tick = s.tick := rfl
@[simp] theorem State.late_modDie (s : State) (n : Nat) (f : Die → Die) : (s.modDie n f).late = s.late := rfl
@[simp] theorem State.mem_modPkg (s : State) (n : Nat) (f : Package → Package) : (s.modPkg n f).mem = s.mem := rfl
@[simp] theorem State.fe_modPkg (s : State) (n : Nat) (f : Package → Package) : (s.modPkg n f).fe = s.fe := rfl
@[simp] theorem State.ue_modPkg (s : State) (n : Nat) (f : Package → Package) : (s.modPkg n f).ue = s.ue := rfl
@[simp] theorem State.hostMem_modPkg (s : State) (n : Nat) (f : Package → Package) : (s.modPkg n f).hostMem = s.hostMem := rfl
@[simp] theorem State.winMem_modPkg (s : State) (n : Nat) (f : Package → Package) : (s.modPkg n f).winMem = s.winMem := rfl
@[simp] theorem State.cores_modPkg (s : State) (n : Nat) (f : Package → Package) : (s.modPkg n f).cores = s.cores := rfl
@[simp] theorem State.clusters_modPkg (s : State) (n : Nat) (f : Package → Package) : (s.modPkg n f).clusters = s.clusters := rfl
@[simp] theorem State.dies_modPkg (s : State) (n : Nat) (f : Package → Package) : (s.modPkg n f).dies = s.dies := rfl
@[simp] theorem State.graphs_modPkg (s : State) (n : Nat) (f : Package → Package) : (s.modPkg n f).graphs = s.graphs := rfl
@[simp] theorem State.tasks_modPkg (s : State) (n : Nat) (f : Package → Package) : (s.modPkg n f).tasks = s.tasks := rfl
@[simp] theorem State.harnesses_modPkg (s : State) (n : Nat) (f : Package → Package) : (s.modPkg n f).harnesses = s.harnesses := rfl
@[simp] theorem State.rings_modPkg (s : State) (n : Nat) (f : Package → Package) : (s.modPkg n f).rings = s.rings := rfl
@[simp] theorem State.steps_modPkg (s : State) (n : Nat) (f : Package → Package) : (s.modPkg n f).steps = s.steps := rfl
@[simp] theorem State.feWait_modPkg (s : State) (n : Nat) (f : Package → Package) : (s.modPkg n f).feWait = s.feWait := rfl
@[simp] theorem State.watch_modPkg (s : State) (n : Nat) (f : Package → Package) : (s.modPkg n f).watch = s.watch := rfl
@[simp] theorem State.resv_modPkg (s : State) (n : Nat) (f : Package → Package) : (s.modPkg n f).resv = s.resv := rfl
@[simp] theorem State.deltas_modPkg (s : State) (n : Nat) (f : Package → Package) : (s.modPkg n f).deltas = s.deltas := rfl
@[simp] theorem State.fresh_modPkg (s : State) (n : Nat) (f : Package → Package) : (s.modPkg n f).fresh = s.fresh := rfl
@[simp] theorem State.free_modPkg (s : State) (n : Nat) (f : Package → Package) : (s.modPkg n f).free = s.free := rfl
@[simp] theorem State.sched_modPkg (s : State) (n : Nat) (f : Package → Package) : (s.modPkg n f).sched = s.sched := rfl
@[simp] theorem State.cur_modPkg (s : State) (n : Nat) (f : Package → Package) : (s.modPkg n f).cur = s.cur := rfl
@[simp] theorem State.tick_modPkg (s : State) (n : Nat) (f : Package → Package) : (s.modPkg n f).tick = s.tick := rfl
@[simp] theorem State.late_modPkg (s : State) (n : Nat) (f : Package → Package) : (s.modPkg n f).late = s.late := rfl
@[simp] theorem State.mem_setMe (s : State) (x : Core) : (s.setMe x).mem = s.mem := rfl
@[simp] theorem State.fe_setMe (s : State) (x : Core) : (s.setMe x).fe = s.fe := rfl
@[simp] theorem State.ue_setMe (s : State) (x : Core) : (s.setMe x).ue = s.ue := rfl
@[simp] theorem State.hostMem_setMe (s : State) (x : Core) : (s.setMe x).hostMem = s.hostMem := rfl
@[simp] theorem State.winMem_setMe (s : State) (x : Core) : (s.setMe x).winMem = s.winMem := rfl
@[simp] theorem State.clusters_setMe (s : State) (x : Core) : (s.setMe x).clusters = s.clusters := rfl
@[simp] theorem State.dies_setMe (s : State) (x : Core) : (s.setMe x).dies = s.dies := rfl
@[simp] theorem State.pkgs_setMe (s : State) (x : Core) : (s.setMe x).pkgs = s.pkgs := rfl
@[simp] theorem State.graphs_setMe (s : State) (x : Core) : (s.setMe x).graphs = s.graphs := rfl
@[simp] theorem State.tasks_setMe (s : State) (x : Core) : (s.setMe x).tasks = s.tasks := rfl
@[simp] theorem State.harnesses_setMe (s : State) (x : Core) : (s.setMe x).harnesses = s.harnesses := rfl
@[simp] theorem State.rings_setMe (s : State) (x : Core) : (s.setMe x).rings = s.rings := rfl
@[simp] theorem State.steps_setMe (s : State) (x : Core) : (s.setMe x).steps = s.steps := rfl
@[simp] theorem State.feWait_setMe (s : State) (x : Core) : (s.setMe x).feWait = s.feWait := rfl
@[simp] theorem State.watch_setMe (s : State) (x : Core) : (s.setMe x).watch = s.watch := rfl
@[simp] theorem State.resv_setMe (s : State) (x : Core) : (s.setMe x).resv = s.resv := rfl
@[simp] theorem State.deltas_setMe (s : State) (x : Core) : (s.setMe x).deltas = s.deltas := rfl
@[simp] theorem State.fresh_setMe (s : State) (x : Core) : (s.setMe x).fresh = s.fresh := rfl
@[simp] theorem State.free_setMe (s : State) (x : Core) : (s.setMe x).free = s.free := rfl
@[simp] theorem State.sched_setMe (s : State) (x : Core) : (s.setMe x).sched = s.sched := rfl
@[simp] theorem State.cur_setMe (s : State) (x : Core) : (s.setMe x).cur = s.cur := rfl
@[simp] theorem State.tick_setMe (s : State) (x : Core) : (s.setMe x).tick = s.tick := rfl
@[simp] theorem State.late_setMe (s : State) (x : Core) : (s.setMe x).late = s.late := rfl

@[simp] theorem State.cluster_of_setCore (s : State) (n : Nat) (x : Core) (j : Nat) : (s.setCore n x).cluster j = s.cluster j := rfl
@[simp] theorem State.die_of_setCore (s : State) (n : Nat) (x : Core) (j : Nat) : (s.setCore n x).die j = s.die j := rfl
@[simp] theorem State.pkg_of_setCore (s : State) (n : Nat) (x : Core) (j : Nat) : (s.setCore n x).pkg j = s.pkg j := rfl
@[simp] theorem State.core_of_setCluster (s : State) (n : Nat) (x : Cluster) (j : Nat) : (s.setCluster n x).core j = s.core j := rfl
@[simp] theorem State.die_of_setCluster (s : State) (n : Nat) (x : Cluster) (j : Nat) : (s.setCluster n x).die j = s.die j := rfl
@[simp] theorem State.pkg_of_setCluster (s : State) (n : Nat) (x : Cluster) (j : Nat) : (s.setCluster n x).pkg j = s.pkg j := rfl
@[simp] theorem State.core_of_setDie (s : State) (n : Nat) (x : Die) (j : Nat) : (s.setDie n x).core j = s.core j := rfl
@[simp] theorem State.cluster_of_setDie (s : State) (n : Nat) (x : Die) (j : Nat) : (s.setDie n x).cluster j = s.cluster j := rfl
@[simp] theorem State.pkg_of_setDie (s : State) (n : Nat) (x : Die) (j : Nat) : (s.setDie n x).pkg j = s.pkg j := rfl
@[simp] theorem State.core_of_setPkg (s : State) (n : Nat) (x : Package) (j : Nat) : (s.setPkg n x).core j = s.core j := rfl
@[simp] theorem State.cluster_of_setPkg (s : State) (n : Nat) (x : Package) (j : Nat) : (s.setPkg n x).cluster j = s.cluster j := rfl
@[simp] theorem State.die_of_setPkg (s : State) (n : Nat) (x : Package) (j : Nat) : (s.setPkg n x).die j = s.die j := rfl
@[simp] theorem State.cluster_of_modCore (s : State) (n : Nat) (f : Core → Core) (j : Nat) : (s.modCore n f).cluster j = s.cluster j := rfl
@[simp] theorem State.die_of_modCore (s : State) (n : Nat) (f : Core → Core) (j : Nat) : (s.modCore n f).die j = s.die j := rfl
@[simp] theorem State.pkg_of_modCore (s : State) (n : Nat) (f : Core → Core) (j : Nat) : (s.modCore n f).pkg j = s.pkg j := rfl
@[simp] theorem State.core_of_modCluster (s : State) (n : Nat) (f : Cluster → Cluster) (j : Nat) : (s.modCluster n f).core j = s.core j := rfl
@[simp] theorem State.die_of_modCluster (s : State) (n : Nat) (f : Cluster → Cluster) (j : Nat) : (s.modCluster n f).die j = s.die j := rfl
@[simp] theorem State.pkg_of_modCluster (s : State) (n : Nat) (f : Cluster → Cluster) (j : Nat) : (s.modCluster n f).pkg j = s.pkg j := rfl
@[simp] theorem State.core_of_modDie (s : State) (n : Nat) (f : Die → Die) (j : Nat) : (s.modDie n f).core j = s.core j := rfl
@[simp] theorem State.cluster_of_modDie (s : State) (n : Nat) (f : Die → Die) (j : Nat) : (s.modDie n f).cluster j = s.cluster j := rfl
@[simp] theorem State.pkg_of_modDie (s : State) (n : Nat) (f : Die → Die) (j : Nat) : (s.modDie n f).pkg j = s.pkg j := rfl
@[simp] theorem State.core_of_modPkg (s : State) (n : Nat) (f : Package → Package) (j : Nat) : (s.modPkg n f).core j = s.core j := rfl
@[simp] theorem State.cluster_of_modPkg (s : State) (n : Nat) (f : Package → Package) (j : Nat) : (s.modPkg n f).cluster j = s.cluster j := rfl
@[simp] theorem State.die_of_modPkg (s : State) (n : Nat) (f : Package → Package) (j : Nat) : (s.modPkg n f).die j = s.die j := rfl
@[simp] theorem State.cluster_of_setMe (s : State) (x : Core) (j : Nat) : (s.setMe x).cluster j = s.cluster j := rfl
@[simp] theorem State.die_of_setMe (s : State) (x : Core) (j : Nat) : (s.setMe x).die j = s.die j := rfl
@[simp] theorem State.pkg_of_setMe (s : State) (x : Core) (j : Nat) : (s.setMe x).pkg j = s.pkg j := rfl

theorem State.core_setCore (s : State) (n j : Nat) (x : Core) : (s.setCore n x).core j = if j = n then x else s.core j := by
  unfold State.core State.setCore
  simp only [find?_insert]
  split <;> simp

@[simp] theorem State.core_setCore_same (s : State) (n : Nat) (x : Core) : (s.setCore n x).core n = x := by
  rw [State.core_setCore, if_pos rfl]

theorem State.core_setCore_ne (s : State) {n j : Nat} (x : Core) (h : j ≠ n) : (s.setCore n x).core j = s.core j := by
  rw [State.core_setCore, if_neg h]

@[simp] theorem State.core_modCore_same (s : State) (n : Nat) (f : Core → Core) : (s.modCore n f).core n = f (s.core n) :=
  s.core_setCore_same n _

theorem State.core_modCore_ne (s : State) {n j : Nat} (f : Core → Core) (h : j ≠ n) : (s.modCore n f).core j = s.core j :=
  s.core_setCore_ne _ h

theorem State.cluster_setCluster (s : State) (n j : Nat) (x : Cluster) : (s.setCluster n x).cluster j = if j = n then x else s.cluster j := by
  unfold State.cluster State.setCluster
  simp only [find?_insert]
  split <;> simp

@[simp] theorem State.cluster_setCluster_same (s : State) (n : Nat) (x : Cluster) : (s.setCluster n x).cluster n = x := by
  rw [State.cluster_setCluster, if_pos rfl]

theorem State.cluster_setCluster_ne (s : State) {n j : Nat} (x : Cluster) (h : j ≠ n) : (s.setCluster n x).cluster j = s.cluster j := by
  rw [State.cluster_setCluster, if_neg h]

@[simp] theorem State.cluster_modCluster_same (s : State) (n : Nat) (f : Cluster → Cluster) : (s.modCluster n f).cluster n = f (s.cluster n) :=
  s.cluster_setCluster_same n _

theorem State.cluster_modCluster_ne (s : State) {n j : Nat} (f : Cluster → Cluster) (h : j ≠ n) : (s.modCluster n f).cluster j = s.cluster j :=
  s.cluster_setCluster_ne _ h

theorem State.die_setDie (s : State) (n j : Nat) (x : Die) : (s.setDie n x).die j = if j = n then x else s.die j := by
  unfold State.die State.setDie
  simp only [find?_insert]
  split <;> simp

@[simp] theorem State.die_setDie_same (s : State) (n : Nat) (x : Die) : (s.setDie n x).die n = x := by
  rw [State.die_setDie, if_pos rfl]

theorem State.die_setDie_ne (s : State) {n j : Nat} (x : Die) (h : j ≠ n) : (s.setDie n x).die j = s.die j := by
  rw [State.die_setDie, if_neg h]

@[simp] theorem State.die_modDie_same (s : State) (n : Nat) (f : Die → Die) : (s.modDie n f).die n = f (s.die n) :=
  s.die_setDie_same n _

theorem State.die_modDie_ne (s : State) {n j : Nat} (f : Die → Die) (h : j ≠ n) : (s.modDie n f).die j = s.die j :=
  s.die_setDie_ne _ h

theorem State.pkg_setPkg (s : State) (n j : Nat) (x : Package) : (s.setPkg n x).pkg j = if j = n then x else s.pkg j := by
  unfold State.pkg State.setPkg
  simp only [find?_insert]
  split <;> simp

@[simp] theorem State.pkg_setPkg_same (s : State) (n : Nat) (x : Package) : (s.setPkg n x).pkg n = x := by
  rw [State.pkg_setPkg, if_pos rfl]

theorem State.pkg_setPkg_ne (s : State) {n j : Nat} (x : Package) (h : j ≠ n) : (s.setPkg n x).pkg j = s.pkg j := by
  rw [State.pkg_setPkg, if_neg h]

@[simp] theorem State.pkg_modPkg_same (s : State) (n : Nat) (f : Package → Package) : (s.modPkg n f).pkg n = f (s.pkg n) :=
  s.pkg_setPkg_same n _

theorem State.pkg_modPkg_ne (s : State) {n j : Nat} (f : Package → Package) (h : j ≠ n) : (s.modPkg n f).pkg j = s.pkg j :=
  s.pkg_setPkg_ne _ h

/-! The current core -/

@[simp] theorem State.me_setMe (s : State) (c : Core) : (s.setMe c).me = c := s.core_setCore_same s.cur c

@[simp] theorem State.core_setMe_cur (s : State) (c : Core) : (s.setMe c).core s.cur = c := s.core_setCore_same s.cur c

theorem State.core_setMe_ne (s : State) (c : Core) {j : Nat} (h : j ≠ s.cur) : (s.setMe c).core j = s.core j :=
  s.core_setCore_ne c h

@[simp] theorem State.setCore_setCore (s : State) (n : Nat) (x y : Core) :
    (s.setCore n x).setCore n y = s.setCore n y := by simp [State.setCore, insert_insert]

@[simp] theorem State.setMe_setMe (s : State) (x y : Core) : (s.setMe x).setMe y = s.setMe y :=
  s.setCore_setCore s.cur x y

@[simp] theorem State.modCore_cur (s : State) (f : Core → Core) : s.modCore s.cur f = s.setMe (f s.me) := rfl

theorem State.core_cur (s : State) : s.core s.cur = s.me := rfl

@[simp] theorem State.me_setCluster (s : State) (n : Nat) (x : Cluster) : (s.setCluster n x).me = s.me := rfl
@[simp] theorem State.me_setDie (s : State) (n : Nat) (x : Die) : (s.setDie n x).me = s.me := rfl
@[simp] theorem State.me_setPkg (s : State) (n : Nat) (x : Package) : (s.setPkg n x).me = s.me := rfl
@[simp] theorem State.me_modCluster (s : State) (n : Nat) (f : Cluster → Cluster) : (s.modCluster n f).me = s.me := rfl
@[simp] theorem State.me_modDie (s : State) (n : Nat) (f : Die → Die) : (s.modDie n f).me = s.me := rfl
@[simp] theorem State.me_modPkg (s : State) (n : Nat) (f : Package → Package) : (s.modPkg n f).me = s.me := rfl

/-! A core -/

@[simp] theorem Core.run_advance (c : Core) : c.advance.run = c.run := rfl
@[simp] theorem Core.service_advance (c : Core) : c.advance.service = c.service := rfl
@[simp] theorem Core.mode_advance (c : Core) : c.advance.mode = c.mode := rfl
@[simp] theorem Core.regs_advance (c : Core) : c.advance.regs = c.regs := rfl
@[simp] theorem Core.spbanks_advance (c : Core) : c.advance.spbanks = c.spbanks := rfl
@[simp] theorem Core.vgrpFirst_advance (c : Core) : c.advance.vgrpFirst = c.vgrpFirst := rfl
@[simp] theorem Core.vgrpSize_advance (c : Core) : c.advance.vgrpSize = c.vgrpSize := rfl
@[simp] theorem Core.bfmt_advance (c : Core) : c.advance.bfmt = c.bfmt := rfl
@[simp] theorem Core.barbase_advance (c : Core) : c.advance.barbase = c.barbase := rfl
@[simp] theorem Core.domreg_advance (c : Core) : c.advance.domreg = c.domreg := rfl
@[simp] theorem Core.mthr_advance (c : Core) : c.advance.mthr = c.mthr := rfl
@[simp] theorem Core.rasbase_advance (c : Core) : c.advance.rasbase = c.rasbase := rfl
@[simp] theorem Core.trapCause_advance (c : Core) : c.advance.trapCause = c.trapCause := rfl
@[simp] theorem Core.trapPc_advance (c : Core) : c.advance.trapPc = c.trapPc := rfl
@[simp] theorem Core.trapInfo_advance (c : Core) : c.advance.trapInfo = c.trapInfo := rfl
@[simp] theorem Core.ptroot0_advance (c : Core) : c.advance.ptroot0 = c.ptroot0 := rfl
@[simp] theorem Core.ptroot1_advance (c : Core) : c.advance.ptroot1 = c.ptroot1 := rfl
@[simp] theorem Core.task_advance (c : Core) : c.advance.task = c.task := rfl
@[simp] theorem Core.rasD_advance (c : Core) : c.advance.rasD = c.rasD := rfl
@[simp] theorem Core.ras_advance (c : Core) : c.advance.ras = c.ras := rfl
@[simp] theorem Core.join_advance (c : Core) : c.advance.join = c.join := rfl
@[simp] theorem Core.eng_advance (c : Core) : c.advance.eng = c.eng := rfl
@[simp] theorem Core.sbuf_advance (c : Core) : c.advance.sbuf = c.sbuf := rfl
@[simp] theorem Core.sfly_advance (c : Core) : c.advance.sfly = c.sfly := rfl
@[simp] theorem Core.dcache_advance (c : Core) : c.advance.dcache = c.dcache := rfl
@[simp] theorem Core.icache_advance (c : Core) : c.advance.icache = c.icache := rfl
@[simp] theorem Core.tlb_advance (c : Core) : c.advance.tlb = c.tlb := rfl
@[simp] theorem Core.journal_advance (c : Core) : c.advance.journal = c.journal := rfl
@[simp] theorem Core.posts_advance (c : Core) : c.advance.posts = c.posts := rfl
@[simp] theorem Core.prot_advance (c : Core) : c.advance.prot = c.prot := rfl
@[simp] theorem Core.loads_advance (c : Core) : c.advance.loads = c.loads := rfl
@[simp] theorem Core.asyncTrap_advance (c : Core) : c.advance.asyncTrap = c.asyncTrap := rfl
@[simp] theorem Core.laterTraps_advance (c : Core) : c.advance.laterTraps = c.laterTraps := rfl
@[simp] theorem Core.trapped_advance (c : Core) : c.advance.trapped = c.trapped := rfl
@[simp] theorem Core.dropped_advance (c : Core) : c.advance.dropped = c.dropped := rfl
@[simp] theorem Core.svc_advance (c : Core) : c.advance.svc = c.svc := rfl
@[simp] theorem Core.preempt_advance (c : Core) : c.advance.preempt = c.preempt := rfl
@[simp] theorem Core.due_advance (c : Core) : c.advance.due = c.due := rfl
@[simp] theorem Core.stopped_advance (c : Core) : c.advance.stopped = c.stopped := rfl
@[simp] theorem Core.member_advance (c : Core) : c.advance.member = c.member := rfl
@[simp] theorem Core.fwd_advance (c : Core) : c.advance.fwd = c.fwd := rfl
@[simp] theorem Core.pc_advance (c : Core) : c.advance.pc = c.nextPc := rfl
@[simp] theorem Core.wait_advance (c : Core) : c.advance.wait = .none := rfl
@[simp] theorem Core.fline_advance (c : Core) : c.advance.fline = if c.more then c.fline else none := rfl
@[simp] theorem Core.run_goto (c : Core) (t : Word) : (c.goto t).run = c.run := rfl
@[simp] theorem Core.service_goto (c : Core) (t : Word) : (c.goto t).service = c.service := rfl
@[simp] theorem Core.mode_goto (c : Core) (t : Word) : (c.goto t).mode = c.mode := rfl
@[simp] theorem Core.regs_goto (c : Core) (t : Word) : (c.goto t).regs = c.regs := rfl
@[simp] theorem Core.spbanks_goto (c : Core) (t : Word) : (c.goto t).spbanks = c.spbanks := rfl
@[simp] theorem Core.vgrpFirst_goto (c : Core) (t : Word) : (c.goto t).vgrpFirst = c.vgrpFirst := rfl
@[simp] theorem Core.vgrpSize_goto (c : Core) (t : Word) : (c.goto t).vgrpSize = c.vgrpSize := rfl
@[simp] theorem Core.bfmt_goto (c : Core) (t : Word) : (c.goto t).bfmt = c.bfmt := rfl
@[simp] theorem Core.barbase_goto (c : Core) (t : Word) : (c.goto t).barbase = c.barbase := rfl
@[simp] theorem Core.domreg_goto (c : Core) (t : Word) : (c.goto t).domreg = c.domreg := rfl
@[simp] theorem Core.mthr_goto (c : Core) (t : Word) : (c.goto t).mthr = c.mthr := rfl
@[simp] theorem Core.rasbase_goto (c : Core) (t : Word) : (c.goto t).rasbase = c.rasbase := rfl
@[simp] theorem Core.trapCause_goto (c : Core) (t : Word) : (c.goto t).trapCause = c.trapCause := rfl
@[simp] theorem Core.trapPc_goto (c : Core) (t : Word) : (c.goto t).trapPc = c.trapPc := rfl
@[simp] theorem Core.trapInfo_goto (c : Core) (t : Word) : (c.goto t).trapInfo = c.trapInfo := rfl
@[simp] theorem Core.ptroot0_goto (c : Core) (t : Word) : (c.goto t).ptroot0 = c.ptroot0 := rfl
@[simp] theorem Core.ptroot1_goto (c : Core) (t : Word) : (c.goto t).ptroot1 = c.ptroot1 := rfl
@[simp] theorem Core.task_goto (c : Core) (t : Word) : (c.goto t).task = c.task := rfl
@[simp] theorem Core.rasD_goto (c : Core) (t : Word) : (c.goto t).rasD = c.rasD := rfl
@[simp] theorem Core.ras_goto (c : Core) (t : Word) : (c.goto t).ras = c.ras := rfl
@[simp] theorem Core.join_goto (c : Core) (t : Word) : (c.goto t).join = c.join := rfl
@[simp] theorem Core.eng_goto (c : Core) (t : Word) : (c.goto t).eng = c.eng := rfl
@[simp] theorem Core.sbuf_goto (c : Core) (t : Word) : (c.goto t).sbuf = c.sbuf := rfl
@[simp] theorem Core.sfly_goto (c : Core) (t : Word) : (c.goto t).sfly = c.sfly := rfl
@[simp] theorem Core.dcache_goto (c : Core) (t : Word) : (c.goto t).dcache = c.dcache := rfl
@[simp] theorem Core.icache_goto (c : Core) (t : Word) : (c.goto t).icache = c.icache := rfl
@[simp] theorem Core.tlb_goto (c : Core) (t : Word) : (c.goto t).tlb = c.tlb := rfl
@[simp] theorem Core.journal_goto (c : Core) (t : Word) : (c.goto t).journal = c.journal := rfl
@[simp] theorem Core.posts_goto (c : Core) (t : Word) : (c.goto t).posts = c.posts := rfl
@[simp] theorem Core.prot_goto (c : Core) (t : Word) : (c.goto t).prot = c.prot := rfl
@[simp] theorem Core.loads_goto (c : Core) (t : Word) : (c.goto t).loads = c.loads := rfl
@[simp] theorem Core.asyncTrap_goto (c : Core) (t : Word) : (c.goto t).asyncTrap = c.asyncTrap := rfl
@[simp] theorem Core.laterTraps_goto (c : Core) (t : Word) : (c.goto t).laterTraps = c.laterTraps := rfl
@[simp] theorem Core.trapped_goto (c : Core) (t : Word) : (c.goto t).trapped = c.trapped := rfl
@[simp] theorem Core.dropped_goto (c : Core) (t : Word) : (c.goto t).dropped = c.dropped := rfl
@[simp] theorem Core.svc_goto (c : Core) (t : Word) : (c.goto t).svc = c.svc := rfl
@[simp] theorem Core.preempt_goto (c : Core) (t : Word) : (c.goto t).preempt = c.preempt := rfl
@[simp] theorem Core.due_goto (c : Core) (t : Word) : (c.goto t).due = c.due := rfl
@[simp] theorem Core.stopped_goto (c : Core) (t : Word) : (c.goto t).stopped = c.stopped := rfl
@[simp] theorem Core.member_goto (c : Core) (t : Word) : (c.goto t).member = c.member := rfl
@[simp] theorem Core.fwd_goto (c : Core) (t : Word) : (c.goto t).fwd = c.fwd := rfl
@[simp] theorem Core.pc_goto (c : Core) (t : Word) : (c.goto t).pc = t := rfl
@[simp] theorem Core.wait_goto (c : Core) (t : Word) : (c.goto t).wait = .none := rfl
@[simp] theorem Core.fline_goto (c : Core) (t : Word) : (c.goto t).fline = none := rfl
@[simp] theorem Core.run_enter (c : Core) (t : Trap) (pc : Word) : (c.enter t pc).run = c.run := rfl
@[simp] theorem Core.service_enter (c : Core) (t : Trap) (pc : Word) : (c.enter t pc).service = c.service := rfl
@[simp] theorem Core.mode_enter (c : Core) (t : Trap) (pc : Word) : (c.enter t pc).mode = .handler := rfl
@[simp] theorem Core.pc_enter (c : Core) (t : Trap) (pc : Word) : (c.enter t pc).pc = Config.handlerEntry t.source := rfl
@[simp] theorem Core.fline_enter (c : Core) (t : Trap) (pc : Word) : (c.enter t pc).fline = none := rfl
@[simp] theorem Core.regs_enter (c : Core) (t : Trap) (pc : Word) : (c.enter t pc).regs = c.regs := rfl
@[simp] theorem Core.spbanks_enter (c : Core) (t : Trap) (pc : Word) : (c.enter t pc).spbanks = c.spbanks := rfl
@[simp] theorem Core.vgrpFirst_enter (c : Core) (t : Trap) (pc : Word) : (c.enter t pc).vgrpFirst = c.vgrpFirst := rfl
@[simp] theorem Core.vgrpSize_enter (c : Core) (t : Trap) (pc : Word) : (c.enter t pc).vgrpSize = c.vgrpSize := rfl
@[simp] theorem Core.bfmt_enter (c : Core) (t : Trap) (pc : Word) : (c.enter t pc).bfmt = c.bfmt := rfl
@[simp] theorem Core.barbase_enter (c : Core) (t : Trap) (pc : Word) : (c.enter t pc).barbase = c.barbase := rfl
@[simp] theorem Core.domreg_enter (c : Core) (t : Trap) (pc : Word) : (c.enter t pc).domreg = c.domreg := rfl
@[simp] theorem Core.mthr_enter (c : Core) (t : Trap) (pc : Word) : (c.enter t pc).mthr = c.mthr := rfl
@[simp] theorem Core.rasbase_enter (c : Core) (t : Trap) (pc : Word) : (c.enter t pc).rasbase = c.rasbase := rfl
@[simp] theorem Core.trapCause_enter (c : Core) (t : Trap) (pc : Word) : (c.enter t pc).trapCause = t.cause (c.mode = .handler) := rfl
@[simp] theorem Core.trapPc_enter (c : Core) (t : Trap) (pc : Word) : (c.enter t pc).trapPc = pc := rfl
@[simp] theorem Core.trapInfo_enter (c : Core) (t : Trap) (pc : Word) : (c.enter t pc).trapInfo = t.info := rfl
@[simp] theorem Core.ptroot0_enter (c : Core) (t : Trap) (pc : Word) : (c.enter t pc).ptroot0 = c.ptroot0 := rfl
@[simp] theorem Core.ptroot1_enter (c : Core) (t : Trap) (pc : Word) : (c.enter t pc).ptroot1 = c.ptroot1 := rfl
@[simp] theorem Core.task_enter (c : Core) (t : Trap) (pc : Word) : (c.enter t pc).task = c.task := rfl
@[simp] theorem Core.rasD_enter (c : Core) (t : Trap) (pc : Word) : (c.enter t pc).rasD = c.rasD := rfl
@[simp] theorem Core.ras_enter (c : Core) (t : Trap) (pc : Word) : (c.enter t pc).ras = c.ras := rfl
@[simp] theorem Core.join_enter (c : Core) (t : Trap) (pc : Word) : (c.enter t pc).join = c.join := rfl
@[simp] theorem Core.eng_enter (c : Core) (t : Trap) (pc : Word) : (c.enter t pc).eng = c.eng := rfl
@[simp] theorem Core.sbuf_enter (c : Core) (t : Trap) (pc : Word) : (c.enter t pc).sbuf = c.sbuf := rfl
@[simp] theorem Core.sfly_enter (c : Core) (t : Trap) (pc : Word) : (c.enter t pc).sfly = c.sfly := rfl
@[simp] theorem Core.dcache_enter (c : Core) (t : Trap) (pc : Word) : (c.enter t pc).dcache = c.dcache := rfl
@[simp] theorem Core.icache_enter (c : Core) (t : Trap) (pc : Word) : (c.enter t pc).icache = c.icache := rfl
@[simp] theorem Core.tlb_enter (c : Core) (t : Trap) (pc : Word) : (c.enter t pc).tlb = c.tlb := rfl
@[simp] theorem Core.journal_enter (c : Core) (t : Trap) (pc : Word) : (c.enter t pc).journal = c.journal := rfl
@[simp] theorem Core.posts_enter (c : Core) (t : Trap) (pc : Word) : (c.enter t pc).posts = c.posts := rfl
@[simp] theorem Core.prot_enter (c : Core) (t : Trap) (pc : Word) : (c.enter t pc).prot = c.prot := rfl
@[simp] theorem Core.wait_enter (c : Core) (t : Trap) (pc : Word) : (c.enter t pc).wait = .none := rfl
@[simp] theorem Core.loads_enter (c : Core) (t : Trap) (pc : Word) : (c.enter t pc).loads = c.loads := rfl
@[simp] theorem Core.asyncTrap_enter (c : Core) (t : Trap) (pc : Word) : (c.enter t pc).asyncTrap = c.asyncTrap := rfl
@[simp] theorem Core.laterTraps_enter (c : Core) (t : Trap) (pc : Word) : (c.enter t pc).laterTraps = c.laterTraps := rfl
@[simp] theorem Core.trapped_enter (c : Core) (t : Trap) (pc : Word) : (c.enter t pc).trapped = c.trapped := rfl
@[simp] theorem Core.dropped_enter (c : Core) (t : Trap) (pc : Word) : (c.enter t pc).dropped = c.dropped := rfl
@[simp] theorem Core.svc_enter (c : Core) (t : Trap) (pc : Word) : (c.enter t pc).svc = c.svc := rfl
@[simp] theorem Core.preempt_enter (c : Core) (t : Trap) (pc : Word) : (c.enter t pc).preempt = c.preempt := rfl
@[simp] theorem Core.due_enter (c : Core) (t : Trap) (pc : Word) : (c.enter t pc).due = c.due := rfl
@[simp] theorem Core.stopped_enter (c : Core) (t : Trap) (pc : Word) : (c.enter t pc).stopped = c.stopped := rfl
@[simp] theorem Core.member_enter (c : Core) (t : Trap) (pc : Word) : (c.enter t pc).member = c.member := rfl
@[simp] theorem Core.fwd_enter (c : Core) (t : Trap) (pc : Word) : (c.enter t pc).fwd = c.fwd := rfl
@[simp] theorem Core.run_eret (c : Core) : c.eret.run = c.run := rfl
@[simp] theorem Core.service_eret (c : Core) : c.eret.service = c.service := rfl
@[simp] theorem Core.mode_eret (c : Core) : c.eret.mode = .task := rfl
@[simp] theorem Core.pc_eret (c : Core) : c.eret.pc = c.trapPc := rfl
@[simp] theorem Core.fline_eret (c : Core) : c.eret.fline = none := rfl
@[simp] theorem Core.regs_eret (c : Core) : c.eret.regs = c.regs := rfl
@[simp] theorem Core.spbanks_eret (c : Core) : c.eret.spbanks = c.spbanks := rfl
@[simp] theorem Core.vgrpFirst_eret (c : Core) : c.eret.vgrpFirst = c.vgrpFirst := rfl
@[simp] theorem Core.vgrpSize_eret (c : Core) : c.eret.vgrpSize = c.vgrpSize := rfl
@[simp] theorem Core.bfmt_eret (c : Core) : c.eret.bfmt = c.bfmt := rfl
@[simp] theorem Core.barbase_eret (c : Core) : c.eret.barbase = c.barbase := rfl
@[simp] theorem Core.domreg_eret (c : Core) : c.eret.domreg = c.domreg := rfl
@[simp] theorem Core.mthr_eret (c : Core) : c.eret.mthr = c.mthr := rfl
@[simp] theorem Core.rasbase_eret (c : Core) : c.eret.rasbase = c.rasbase := rfl
@[simp] theorem Core.trapCause_eret (c : Core) : c.eret.trapCause = c.trapCause := rfl
@[simp] theorem Core.trapPc_eret (c : Core) : c.eret.trapPc = c.trapPc := rfl
@[simp] theorem Core.trapInfo_eret (c : Core) : c.eret.trapInfo = c.trapInfo := rfl
@[simp] theorem Core.ptroot0_eret (c : Core) : c.eret.ptroot0 = c.ptroot0 := rfl
@[simp] theorem Core.ptroot1_eret (c : Core) : c.eret.ptroot1 = c.ptroot1 := rfl
@[simp] theorem Core.task_eret (c : Core) : c.eret.task = c.task := rfl
@[simp] theorem Core.rasD_eret (c : Core) : c.eret.rasD = c.rasD := rfl
@[simp] theorem Core.ras_eret (c : Core) : c.eret.ras = c.ras := rfl
@[simp] theorem Core.join_eret (c : Core) : c.eret.join = c.join := rfl
@[simp] theorem Core.eng_eret (c : Core) : c.eret.eng = c.eng := rfl
@[simp] theorem Core.sbuf_eret (c : Core) : c.eret.sbuf = c.sbuf := rfl
@[simp] theorem Core.sfly_eret (c : Core) : c.eret.sfly = c.sfly := rfl
@[simp] theorem Core.dcache_eret (c : Core) : c.eret.dcache = c.dcache := rfl
@[simp] theorem Core.icache_eret (c : Core) : c.eret.icache = c.icache := rfl
@[simp] theorem Core.tlb_eret (c : Core) : c.eret.tlb = c.tlb := rfl
@[simp] theorem Core.journal_eret (c : Core) : c.eret.journal = c.journal := rfl
@[simp] theorem Core.posts_eret (c : Core) : c.eret.posts = c.posts := rfl
@[simp] theorem Core.prot_eret (c : Core) : c.eret.prot = c.prot := rfl
@[simp] theorem Core.wait_eret (c : Core) : c.eret.wait = .none := rfl
@[simp] theorem Core.loads_eret (c : Core) : c.eret.loads = c.loads := rfl
@[simp] theorem Core.asyncTrap_eret (c : Core) : c.eret.asyncTrap = c.asyncTrap := rfl
@[simp] theorem Core.laterTraps_eret (c : Core) : c.eret.laterTraps = c.laterTraps := rfl
@[simp] theorem Core.trapped_eret (c : Core) : c.eret.trapped = c.trapped := rfl
@[simp] theorem Core.dropped_eret (c : Core) : c.eret.dropped = c.dropped := rfl
@[simp] theorem Core.svc_eret (c : Core) : c.eret.svc = c.svc := rfl
@[simp] theorem Core.preempt_eret (c : Core) : c.eret.preempt = c.preempt := rfl
@[simp] theorem Core.due_eret (c : Core) : c.eret.due = c.due := rfl
@[simp] theorem Core.stopped_eret (c : Core) : c.eret.stopped = c.stopped := rfl
@[simp] theorem Core.member_eret (c : Core) : c.eret.member = c.member := rfl
@[simp] theorem Core.fwd_eret (c : Core) : c.eret.fwd = c.fwd := rfl

end Sys2Proof.Machine
end

