-- ==== Sys2Proof/Laws/Ops.lean ====
section
/-! SUPPORT. What the shared operations of instructions do: the monad, an instruction whose checks pass or fail, the
taking of an exception. -/

namespace Sys2Proof.Machine

/-! The monad -/

section
variable {α β : Type}

@[simp] theorem M.pure_run (a : α) (s : State) : (pure a : M α) s = .ok (a, s) := rfl

theorem M.bind_run (m : M α) (f : α → M β) (s : State) :
    (m >>= f) s = match m s with
      | .ok (a, t) => f a t
      | .error e => .error e := by
  show (StateT.bind m f) s = _
  unfold StateT.bind
  cases m s <;> rfl

theorem M.map_run (m : M α) (f : α → β) (s : State) :
    (f <$> m) s = match m s with
      | .ok (a, t) => .ok (f a, t)
      | .error e => .error e := by
  show (StateT.map f m) s = _
  unfold StateT.map
  cases m s <;> rfl

@[simp] theorem M.ite_run {p : Prop} [Decidable p] (m n : M α) (s : State) :
    (if p then m else n) s = if p then m s else n s := by split <;> rfl

theorem M.bind_ok {m : M α} {f : α → M β} {s t : State} {a : α} (h : m s = .ok (a, t)) : (m >>= f) s = f a t := by
  rw [M.bind_run, h]

theorem M.bind_error {m : M α} {f : α → M β} {s : State} {e : Exit} (h : m s = .error e) :
    (m >>= f) s = .error e := by rw [M.bind_run, h]

/-- A sequence that completes completes in both parts. -/
theorem M.bind_eq_ok {m : M α} {f : α → M β} {s t : State} {b : β} :
    (m >>= f) s = .ok (b, t) ↔ ∃ a u, m s = .ok (a, u) ∧ f a u = .ok (b, t) := by
  rw [M.bind_run]
  cases h : m s with
  | error e => simp
  | ok p => obtain ⟨a, u⟩ := p; simp
end

@[simp] theorem theState_run (s : State) : theState s = .ok (s, s) := rfl
@[simp] theorem theCore_run (s : State) : theCore s = .ok (s.me, s) := rfl
@[simp] theorem setState_run (t s : State) : setState t s = .ok ((), t) := rfl
@[simp] theorem modState_run (f : State → State) (s : State) : modState f s = .ok ((), f s) := rfl
@[simp] theorem modMe_run (f : Core → Core) (s : State) : modMe f s = .ok ((), s.setMe (f s.me)) := rfl
@[simp] theorem rdS_run (n : Reg) (s : State) : rdS n s = .ok (s.me.regs.rs n, s) := rfl
@[simp] theorem wrS_run (n : Reg) (x : Word) (s : State) :
    wrS n x s = .ok ((), s.setMe { s.me with regs := s.me.regs.ws n x }) := rfl
@[simp] theorem wrP_run (n : Nat) (x : Bool) (s : State) :
    wrP n x s = .ok ((), s.setMe { s.me with regs := s.me.regs.wp n x }) := rfl
@[simp] theorem fault_run {α : Type} (st : Nat) (i : Word) (s : State) :
    (fault st i : M α) s = .error (.fault { status := st, info := i } .none s) := rfl
@[simp] theorem faultAfter_run {α : Type} (st : Nat) (i : Word) (s : State) :
    (faultAfter st i : M α) s = .error (.faultKeep { status := st, info := i } .none s) := rfl
@[simp] theorem leave_run {α : Type} (s : State) : (leave : M α) s = .error (.leave s) := rfl
@[simp] theorem retry_run {α : Type} (s : State) : (retry : M α) s = .error (.retry s) := rfl
@[simp] theorem waitFor_run {α : Type} (w : Wait) (s : State) :
    (waitFor w : M α) s = .error (.leave (s.setMe { s.me with wait := w })) := rfl

theorem require_run (b : Bool) (st : Nat) (i : Word) (s : State) :
    require b st i s = if b then .ok ((), s) else .error (.fault { status := st, info := i } .none s) := by
  cases b <;> rfl

@[simp] theorem require_true (st : Nat) (i : Word) (s : State) : require true st i s = .ok ((), s) := rfl
@[simp] theorem require_false (st : Nat) (i : Word) (s : State) :
    require false st i s = .error (.fault { status := st, info := i } .none s) := rfl

/-! Instructions -/

theorem instr_ready {s : State} {g : Guard} {ss vs : List Reg} (h : s.Ready g ss vs) (m : M Unit) :
    instr g ss vs m s = finish s (m s) := by simp [instr, h.guard, h.declS, h.declV]

theorem instr_skip {s : State} {g : Guard} (h : s.me.regs.guard g = false) (ss vs : List Reg) (m : M Unit) :
    instr g ss vs m s = .next (s.setMe s.me.advance) := by simp [instr, h]

theorem instr_undeclared {s : State} {g : Guard} {ss vs : List Reg} (h : s.me.regs.guard g = true)
    (d : (s.me.declS ss && s.me.declV vs) = false) (m : M Unit) :
    instr g ss vs m s = .next (s.trap { status := 0x15 }) := by simp [instr, h, d]

theorem regInstr_ready {s : State} {g : Guard} {ss vs : List Reg} (h : s.Ready g ss vs) (f : Regs → Regs) :
    regInstr g ss vs f s = .next (s.retired (f s.me.regs)) := by
  simp [regInstr, h.guard, h.declS, h.declV, State.retired]

theorem regInstr_skip {s : State} {g : Guard} (h : s.me.regs.guard g = false) (ss vs : List Reg) (f : Regs → Regs) :
    regInstr g ss vs f s = .next (s.setMe s.me.advance) := by simp [regInstr, h]

theorem regInstr_undeclared {s : State} {g : Guard} {ss vs : List Reg} (h : s.me.regs.guard g = true)
    (d : (s.me.declS ss && s.me.declV vs) = false) (f : Regs → Regs) :
    regInstr g ss vs f s = .next (s.trap { status := 0x15 }) := by simp [regInstr, h, d]

/-- Everything an instruction of the register files can do. -/
theorem regInstr_cases {s t : State} {g : Guard} {ss vs : List Reg} {f : Regs → Regs}
    (h : regInstr g ss vs f s = .next t) :
    (s.me.regs.guard g = false ∧ t = s.setMe s.me.advance) ∨
    (s.me.regs.guard g = true ∧ (s.me.declS ss && s.me.declV vs) = false ∧ t = s.trap { status := 0x15 }) ∨
    (s.Ready g ss vs ∧ t = s.retired (f s.me.regs)) := by
  by_cases hg : s.me.regs.guard g = true
  · by_cases hd : (s.me.declS ss && s.me.declV vs) = true
    · rw [Bool.and_eq_true] at hd
      have r : s.Ready g ss vs := ⟨hg, hd.1, hd.2⟩
      rw [regInstr_ready r] at h
      exact .inr (.inr ⟨r, by injection h with h; exact h.symm⟩)
    · rw [Bool.not_eq_true] at hd
      rw [regInstr_undeclared hg hd] at h
      exact .inr (.inl ⟨hg, hd, by injection h with h; exact h.symm⟩)
  · rw [Bool.not_eq_true] at hg
    rw [regInstr_skip hg] at h
    exact .inl ⟨hg, by injection h with h; exact h.symm⟩

/-- An instruction always has an outcome. -/
theorem instr_next (g : Guard) (ss vs : List Reg) (m : M Unit) (s : State) : ∃ t, instr g ss vs m s = .next t := by
  unfold instr
  split
  · exact ⟨_, rfl⟩
  · split
    · exact ⟨_, rfl⟩
    · unfold finish
      split <;> exact ⟨_, rfl⟩

@[simp] theorem finish_ok (s0 s : State) : finish s0 (.ok ((), s)) = .next (s.setMe s.me.advance) := rfl
theorem finish_fault (s0 s : State) (t : Trap) (n : Note) :
    finish s0 (.error (.fault t n s)) = .next (((s0.keepTlbs s0.cur s).note n).trap t) := rfl
@[simp] theorem finish_faultKeep (s0 s : State) (t : Trap) (n : Note) :
    finish s0 (.error (.faultKeep t n s)) = .next ((s.note n).trapOn s.cur t s0.me.pc) := rfl
@[simp] theorem finish_leave (s0 s : State) : finish s0 (.error (.leave s)) = .next s := rfl
theorem finish_retry (s0 s : State) : finish s0 (.error (.retry s)) = .next (s0.keepTlbs s0.cur s) := rfl

/-- Nothing is kept of a state whose TLBs, walks and awaited walk, for the core, are the state's own. -/
theorem State.keepTlbs_of_eq {s u : State} {k : Nat} (c : (u.core k).tlb = (s.core k).tlb)
    (l : (u.cluster (coreCluster k)).tlb = (s.cluster (coreCluster k)).tlb)
    (d : (u.die (coreDie k)).tlb = (s.die (coreDie k)).tlb) (w : (u.die (coreDie k)).walks = (s.die (coreDie k)).walks)
    (e : (u.core k).due = (s.core k).due) : s.keepTlbs k u = s := by simp [State.keepTlbs, c, l, d, w, e]

@[simp] theorem State.keepTlbs_self (s : State) (k : Nat) : s.keepTlbs k s = s := State.keepTlbs_of_eq rfl rfl rfl rfl rfl

/-- A fault of an instruction that has looked up no translation leaves only its trap and its note. -/
@[simp] theorem finish_fault_self (s : State) (t : Trap) (n : Note) :
    finish s (.error (.fault t n s)) = .next ((s.note n).trap t) := by simp [finish_fault]

@[simp] theorem finish_retry_self (s : State) : finish s (.error (.retry s)) = .next s := by simp [finish_retry]
@[simp] theorem note_none (s : State) : s.note .none = s := rfl

/-! Retiring -/

@[simp] theorem State.me_retired (s : State) (r : Regs) : (s.retired r).me = { s.me with regs := r }.advance :=
  State.me_setMe s _

theorem State.core_retired_ne (s : State) (r : Regs) {j : Nat} (h : j ≠ s.cur) : (s.retired r).core j = s.core j :=
  State.core_setMe_ne s _ h

/-! Taking an exception -/

@[simp] theorem State.core_withdraw (s : State) (k j : Nat) : (s.withdraw k).core j = s.core j := rfl

@[simp] theorem State.core_report (s : State) (n : NodeKey) (st : Nat) (i : Word) (j : Nat) :
    (s.report n st i).core j = s.core j := by unfold State.report; split <;> [split <;> rfl; rfl]

@[simp] theorem State.core_reportTask (s : State) (c : Core) (st : Nat) (i : Word) (j : Nat) :
    (s.reportTask c st i).core j = s.core j := by unfold State.reportTask; split <;> simp

/-- The core that takes an exception in task mode (R450). -/
theorem State.core_trapOn_task (s : State) (n : Nat) (t : Trap) (pc : Word) (h : (s.core n).mode = .task)
    (hs : t.source < 3) :
    (s.trapOn n t pc).core n =
      { (s.core n).enter t pc with
        preempt := false
        asyncTrap := none
        trapped := true
        eng := { (s.core n).eng with matStop := true }
        journal := (s.core n).journal.filter fun e => !e.heldBy (s.core n).asyncTrap } := by
  unfold State.trapOn
  by_cases w : (s.core n).wait = .none <;> simp [w, h, hs]

/-- The core that takes an exception in handler mode takes no task any more (R452). -/
theorem State.core_trapOn_handler (s : State) (n : Nat) (t : Trap) (pc : Word) (h : (s.core n).mode = .handler) :
    (s.trapOn n t pc).core n = { (s.core n).enter { t with source := 0 } pc with service := false } := by
  unfold State.trapOn
  by_cases w : (s.core n).wait = .none <;> simp [w, h]

/-- An exception changes no other core. -/
theorem State.core_trapOn_ne (s : State) {n j : Nat} (t : Trap) (pc : Word) (h : j ≠ n) :
    (s.trapOn n t pc).core j = s.core j := by
  unfold State.trapOn
  by_cases w : (s.core n).wait = .none <;> by_cases m : (s.core n).mode = .handler <;> by_cases hs : t.source < 3 <;>
    simp [w, m, hs, State.core_setCore_ne _ _ h]

end Sys2Proof.Machine
end

