-- ==== Sys2Proof/Laws/Frames.lean ====
section
/-! SUPPORT. Fields of the state that the shared operations leave alone, one lemma per field. -/

namespace Sys2Proof.Machine

@[simp] theorem State.mem_report (s : State) (n : NodeKey) (st : Nat) (i : Word) : (s.report n st i).mem = s.mem := by
  unfold State.report; split <;> [split <;> rfl; rfl]
@[simp] theorem State.fe_report (s : State) (n : NodeKey) (st : Nat) (i : Word) : (s.report n st i).fe = s.fe := by
  unfold State.report; split <;> [split <;> rfl; rfl]
@[simp] theorem State.ue_report (s : State) (n : NodeKey) (st : Nat) (i : Word) : (s.report n st i).ue = s.ue := by
  unfold State.report; split <;> [split <;> rfl; rfl]
@[simp] theorem State.hostMem_report (s : State) (n : NodeKey) (st : Nat) (i : Word) : (s.report n st i).hostMem = s.hostMem := by
  unfold State.report; split <;> [split <;> rfl; rfl]
@[simp] theorem State.winMem_report (s : State) (n : NodeKey) (st : Nat) (i : Word) : (s.report n st i).winMem = s.winMem := by
  unfold State.report; split <;> [split <;> rfl; rfl]
@[simp] theorem State.cores_report (s : State) (n : NodeKey) (st : Nat) (i : Word) : (s.report n st i).cores = s.cores := by
  unfold State.report; split <;> [split <;> rfl; rfl]
@[simp] theorem State.clusters_report (s : State) (n : NodeKey) (st : Nat) (i : Word) : (s.report n st i).clusters = s.clusters := by
  unfold State.report; split <;> [split <;> rfl; rfl]
@[simp] theorem State.dies_report (s : State) (n : NodeKey) (st : Nat) (i : Word) : (s.report n st i).dies = s.dies := by
  unfold State.report; split <;> [split <;> rfl; rfl]
@[simp] theorem State.pkgs_report (s : State) (n : NodeKey) (st : Nat) (i : Word) : (s.report n st i).pkgs = s.pkgs := by
  unfold State.report; split <;> [split <;> rfl; rfl]
@[simp] theorem State.tasks_report (s : State) (n : NodeKey) (st : Nat) (i : Word) : (s.report n st i).tasks = s.tasks := by
  unfold State.report; split <;> [split <;> rfl; rfl]
@[simp] theorem State.harnesses_report (s : State) (n : NodeKey) (st : Nat) (i : Word) : (s.report n st i).harnesses = s.harnesses := by
  unfold State.report; split <;> [split <;> rfl; rfl]
@[simp] theorem State.rings_report (s : State) (n : NodeKey) (st : Nat) (i : Word) : (s.report n st i).rings = s.rings := by
  unfold State.report; split <;> [split <;> rfl; rfl]
@[simp] theorem State.steps_report (s : State) (n : NodeKey) (st : Nat) (i : Word) : (s.report n st i).steps = s.steps := by
  unfold State.report; split <;> [split <;> rfl; rfl]
@[simp] theorem State.feWait_report (s : State) (n : NodeKey) (st : Nat) (i : Word) : (s.report n st i).feWait = s.feWait := by
  unfold State.report; split <;> [split <;> rfl; rfl]
@[simp] theorem State.watch_report (s : State) (n : NodeKey) (st : Nat) (i : Word) : (s.report n st i).watch = s.watch := by
  unfold State.report; split <;> [split <;> rfl; rfl]
@[simp] theorem State.resv_report (s : State) (n : NodeKey) (st : Nat) (i : Word) : (s.report n st i).resv = s.resv := by
  unfold State.report; split <;> [split <;> rfl; rfl]
@[simp] theorem State.deltas_report (s : State) (n : NodeKey) (st : Nat) (i : Word) : (s.report n st i).deltas = s.deltas := by
  unfold State.report; split <;> [split <;> rfl; rfl]
@[simp] theorem State.fresh_report (s : State) (n : NodeKey) (st : Nat) (i : Word) : (s.report n st i).fresh = s.fresh := by
  unfold State.report; split <;> [split <;> rfl; rfl]
@[simp] theorem State.free_report (s : State) (n : NodeKey) (st : Nat) (i : Word) : (s.report n st i).free = s.free := by
  unfold State.report; split <;> [split <;> rfl; rfl]
@[simp] theorem State.sched_report (s : State) (n : NodeKey) (st : Nat) (i : Word) : (s.report n st i).sched = s.sched := by
  unfold State.report; split <;> [split <;> rfl; rfl]
@[simp] theorem State.cur_report (s : State) (n : NodeKey) (st : Nat) (i : Word) : (s.report n st i).cur = s.cur := by
  unfold State.report; split <;> [split <;> rfl; rfl]
@[simp] theorem State.tick_report (s : State) (n : NodeKey) (st : Nat) (i : Word) : (s.report n st i).tick = s.tick := by
  unfold State.report; split <;> [split <;> rfl; rfl]

@[simp] theorem State.mem_reportTask (s : State) (c : Core) (st : Nat) (i : Word) : (s.reportTask c st i).mem = s.mem := by
  unfold State.reportTask; split <;> simp
@[simp] theorem State.fe_reportTask (s : State) (c : Core) (st : Nat) (i : Word) : (s.reportTask c st i).fe = s.fe := by
  unfold State.reportTask; split <;> simp
@[simp] theorem State.ue_reportTask (s : State) (c : Core) (st : Nat) (i : Word) : (s.reportTask c st i).ue = s.ue := by
  unfold State.reportTask; split <;> simp
@[simp] theorem State.hostMem_reportTask (s : State) (c : Core) (st : Nat) (i : Word) : (s.reportTask c st i).hostMem = s.hostMem := by
  unfold State.reportTask; split <;> simp
@[simp] theorem State.winMem_reportTask (s : State) (c : Core) (st : Nat) (i : Word) : (s.reportTask c st i).winMem = s.winMem := by
  unfold State.reportTask; split <;> simp
@[simp] theorem State.cores_reportTask (s : State) (c : Core) (st : Nat) (i : Word) : (s.reportTask c st i).cores = s.cores := by
  unfold State.reportTask; split <;> simp
@[simp] theorem State.clusters_reportTask (s : State) (c : Core) (st : Nat) (i : Word) : (s.reportTask c st i).clusters = s.clusters := by
  unfold State.reportTask; split <;> simp
@[simp] theorem State.dies_reportTask (s : State) (c : Core) (st : Nat) (i : Word) : (s.reportTask c st i).dies = s.dies := by
  unfold State.reportTask; split <;> simp
@[simp] theorem State.pkgs_reportTask (s : State) (c : Core) (st : Nat) (i : Word) : (s.reportTask c st i).pkgs = s.pkgs := by
  unfold State.reportTask; split <;> simp
@[simp] theorem State.tasks_reportTask (s : State) (c : Core) (st : Nat) (i : Word) : (s.reportTask c st i).tasks = s.tasks := by
  unfold State.reportTask; split <;> simp
@[simp] theorem State.harnesses_reportTask (s : State) (c : Core) (st : Nat) (i : Word) : (s.reportTask c st i).harnesses = s.harnesses := by
  unfold State.reportTask; split <;> simp
@[simp] theorem State.rings_reportTask (s : State) (c : Core) (st : Nat) (i : Word) : (s.reportTask c st i).rings = s.rings := by
  unfold State.reportTask; split <;> simp
@[simp] theorem State.steps_reportTask (s : State) (c : Core) (st : Nat) (i : Word) : (s.reportTask c st i).steps = s.steps := by
  unfold State.reportTask; split <;> simp
@[simp] theorem State.feWait_reportTask (s : State) (c : Core) (st : Nat) (i : Word) : (s.reportTask c st i).feWait = s.feWait := by
  unfold State.reportTask; split <;> simp
@[simp] theorem State.watch_reportTask (s : State) (c : Core) (st : Nat) (i : Word) : (s.reportTask c st i).watch = s.watch := by
  unfold State.reportTask; split <;> simp
@[simp] theorem State.resv_reportTask (s : State) (c : Core) (st : Nat) (i : Word) : (s.reportTask c st i).resv = s.resv := by
  unfold State.reportTask; split <;> simp
@[simp] theorem State.deltas_reportTask (s : State) (c : Core) (st : Nat) (i : Word) : (s.reportTask c st i).deltas = s.deltas := by
  unfold State.reportTask; split <;> simp
@[simp] theorem State.fresh_reportTask (s : State) (c : Core) (st : Nat) (i : Word) : (s.reportTask c st i).fresh = s.fresh := by
  unfold State.reportTask; split <;> simp
@[simp] theorem State.free_reportTask (s : State) (c : Core) (st : Nat) (i : Word) : (s.reportTask c st i).free = s.free := by
  unfold State.reportTask; split <;> simp
@[simp] theorem State.sched_reportTask (s : State) (c : Core) (st : Nat) (i : Word) : (s.reportTask c st i).sched = s.sched := by
  unfold State.reportTask; split <;> simp
@[simp] theorem State.cur_reportTask (s : State) (c : Core) (st : Nat) (i : Word) : (s.reportTask c st i).cur = s.cur := by
  unfold State.reportTask; split <;> simp
@[simp] theorem State.tick_reportTask (s : State) (c : Core) (st : Nat) (i : Word) : (s.reportTask c st i).tick = s.tick := by
  unfold State.reportTask; split <;> simp

@[simp] theorem State.mem_withdraw (s : State) (k : Nat) : (s.withdraw k).mem = s.mem := rfl
@[simp] theorem State.fe_withdraw (s : State) (k : Nat) : (s.withdraw k).fe = s.fe := rfl
@[simp] theorem State.ue_withdraw (s : State) (k : Nat) : (s.withdraw k).ue = s.ue := rfl
@[simp] theorem State.hostMem_withdraw (s : State) (k : Nat) : (s.withdraw k).hostMem = s.hostMem := rfl
@[simp] theorem State.winMem_withdraw (s : State) (k : Nat) : (s.withdraw k).winMem = s.winMem := rfl
@[simp] theorem State.cores_withdraw (s : State) (k : Nat) : (s.withdraw k).cores = s.cores := rfl
@[simp] theorem State.pkgs_withdraw (s : State) (k : Nat) : (s.withdraw k).pkgs = s.pkgs := rfl
@[simp] theorem State.graphs_withdraw (s : State) (k : Nat) : (s.withdraw k).graphs = s.graphs := rfl
@[simp] theorem State.tasks_withdraw (s : State) (k : Nat) : (s.withdraw k).tasks = s.tasks := rfl
@[simp] theorem State.harnesses_withdraw (s : State) (k : Nat) : (s.withdraw k).harnesses = s.harnesses := rfl
@[simp] theorem State.rings_withdraw (s : State) (k : Nat) : (s.withdraw k).rings = s.rings := rfl
@[simp] theorem State.steps_withdraw (s : State) (k : Nat) : (s.withdraw k).steps = s.steps := rfl
@[simp] theorem State.resv_withdraw (s : State) (k : Nat) : (s.withdraw k).resv = s.resv := rfl
@[simp] theorem State.deltas_withdraw (s : State) (k : Nat) : (s.withdraw k).deltas = s.deltas := rfl
@[simp] theorem State.fresh_withdraw (s : State) (k : Nat) : (s.withdraw k).fresh = s.fresh := rfl
@[simp] theorem State.free_withdraw (s : State) (k : Nat) : (s.withdraw k).free = s.free := rfl
@[simp] theorem State.sched_withdraw (s : State) (k : Nat) : (s.withdraw k).sched = s.sched := rfl
@[simp] theorem State.cur_withdraw (s : State) (k : Nat) : (s.withdraw k).cur = s.cur := rfl
@[simp] theorem State.tick_withdraw (s : State) (k : Nat) : (s.withdraw k).tick = s.tick := rfl

@[simp] theorem State.mem_note (s : State) (n : Note) : (s.note n).mem = s.mem := by
  cases n <;> rfl
@[simp] theorem State.fe_note (s : State) (n : Note) : (s.note n).fe = s.fe := by
  cases n <;> rfl
@[simp] theorem State.ue_note (s : State) (n : Note) : (s.note n).ue = s.ue := by
  cases n <;> rfl
@[simp] theorem State.hostMem_note (s : State) (n : Note) : (s.note n).hostMem = s.hostMem := by
  cases n <;> rfl
@[simp] theorem State.winMem_note (s : State) (n : Note) : (s.note n).winMem = s.winMem := by
  cases n <;> rfl
@[simp] theorem State.cores_note (s : State) (n : Note) : (s.note n).cores = s.cores := by
  cases n <;> rfl
@[simp] theorem State.clusters_note (s : State) (n : Note) : (s.note n).clusters = s.clusters := by
  cases n <;> rfl
@[simp] theorem State.graphs_note (s : State) (n : Note) : (s.note n).graphs = s.graphs := by
  cases n <;> rfl
@[simp] theorem State.tasks_note (s : State) (n : Note) : (s.note n).tasks = s.tasks := by
  cases n <;> rfl
@[simp] theorem State.harnesses_note (s : State) (n : Note) : (s.note n).harnesses = s.harnesses := by
  cases n <;> rfl
@[simp] theorem State.rings_note (s : State) (n : Note) : (s.note n).rings = s.rings := by
  cases n <;> rfl
@[simp] theorem State.steps_note (s : State) (n : Note) : (s.note n).steps = s.steps := by
  cases n <;> rfl
@[simp] theorem State.feWait_note (s : State) (n : Note) : (s.note n).feWait = s.feWait := by
  cases n <;> rfl
@[simp] theorem State.watch_note (s : State) (n : Note) : (s.note n).watch = s.watch := by
  cases n <;> rfl
@[simp] theorem State.resv_note (s : State) (n : Note) : (s.note n).resv = s.resv := by
  cases n <;> rfl
@[simp] theorem State.deltas_note (s : State) (n : Note) : (s.note n).deltas = s.deltas := by
  cases n <;> rfl
@[simp] theorem State.fresh_note (s : State) (n : Note) : (s.note n).fresh = s.fresh := by
  cases n <;> rfl
@[simp] theorem State.free_note (s : State) (n : Note) : (s.note n).free = s.free := by
  cases n <;> rfl
@[simp] theorem State.sched_note (s : State) (n : Note) : (s.note n).sched = s.sched := by
  cases n <;> rfl
@[simp] theorem State.cur_note (s : State) (n : Note) : (s.note n).cur = s.cur := by
  cases n <;> rfl
@[simp] theorem State.tick_note (s : State) (n : Note) : (s.note n).tick = s.tick := by
  cases n <;> rfl

@[simp] theorem State.mem_asyncCause (s : State) (n : Nat) (t : Trap) : (s.asyncCause n t).mem = s.mem := by
  unfold State.asyncCause; dsimp only; split <;> simp
@[simp] theorem State.fe_asyncCause (s : State) (n : Nat) (t : Trap) : (s.asyncCause n t).fe = s.fe := by
  unfold State.asyncCause; dsimp only; split <;> simp
@[simp] theorem State.ue_asyncCause (s : State) (n : Nat) (t : Trap) : (s.asyncCause n t).ue = s.ue := by
  unfold State.asyncCause; dsimp only; split <;> simp
@[simp] theorem State.hostMem_asyncCause (s : State) (n : Nat) (t : Trap) : (s.asyncCause n t).hostMem = s.hostMem := by
  unfold State.asyncCause; dsimp only; split <;> simp
@[simp] theorem State.winMem_asyncCause (s : State) (n : Nat) (t : Trap) : (s.asyncCause n t).winMem = s.winMem := by
  unfold State.asyncCause; dsimp only; split <;> simp
@[simp] theorem State.clusters_asyncCause (s : State) (n : Nat) (t : Trap) : (s.asyncCause n t).clusters = s.clusters := by
  unfold State.asyncCause; dsimp only; split <;> simp
@[simp] theorem State.dies_asyncCause (s : State) (n : Nat) (t : Trap) : (s.asyncCause n t).dies = s.dies := by
  unfold State.asyncCause; dsimp only; split <;> simp
@[simp] theorem State.graphs_asyncCause (s : State) (n : Nat) (t : Trap) : (s.asyncCause n t).graphs = s.graphs := by
  unfold State.asyncCause; dsimp only; split <;> simp
@[simp] theorem State.tasks_asyncCause (s : State) (n : Nat) (t : Trap) : (s.asyncCause n t).tasks = s.tasks := by
  unfold State.asyncCause; dsimp only; split <;> simp
@[simp] theorem State.harnesses_asyncCause (s : State) (n : Nat) (t : Trap) : (s.asyncCause n t).harnesses = s.harnesses := by
  unfold State.asyncCause; dsimp only; split <;> simp
@[simp] theorem State.rings_asyncCause (s : State) (n : Nat) (t : Trap) : (s.asyncCause n t).rings = s.rings := by
  unfold State.asyncCause; dsimp only; split <;> simp
@[simp] theorem State.steps_asyncCause (s : State) (n : Nat) (t : Trap) : (s.asyncCause n t).steps = s.steps := by
  unfold State.asyncCause; dsimp only; split <;> simp
@[simp] theorem State.feWait_asyncCause (s : State) (n : Nat) (t : Trap) : (s.asyncCause n t).feWait = s.feWait := by
  unfold State.asyncCause; dsimp only; split <;> simp
@[simp] theorem State.watch_asyncCause (s : State) (n : Nat) (t : Trap) : (s.asyncCause n t).watch = s.watch := by
  unfold State.asyncCause; dsimp only; split <;> simp
@[simp] theorem State.resv_asyncCause (s : State) (n : Nat) (t : Trap) : (s.asyncCause n t).resv = s.resv := by
  unfold State.asyncCause; dsimp only; split <;> simp
@[simp] theorem State.deltas_asyncCause (s : State) (n : Nat) (t : Trap) : (s.asyncCause n t).deltas = s.deltas := by
  unfold State.asyncCause; dsimp only; split <;> simp
@[simp] theorem State.fresh_asyncCause (s : State) (n : Nat) (t : Trap) : (s.asyncCause n t).fresh = s.fresh := by
  unfold State.asyncCause; dsimp only; split <;> simp
@[simp] theorem State.free_asyncCause (s : State) (n : Nat) (t : Trap) : (s.asyncCause n t).free = s.free := by
  unfold State.asyncCause; dsimp only; split <;> simp
@[simp] theorem State.sched_asyncCause (s : State) (n : Nat) (t : Trap) : (s.asyncCause n t).sched = s.sched := by
  unfold State.asyncCause; dsimp only; split <;> simp
@[simp] theorem State.cur_asyncCause (s : State) (n : Nat) (t : Trap) : (s.asyncCause n t).cur = s.cur := by
  unfold State.asyncCause; dsimp only; split <;> simp
@[simp] theorem State.tick_asyncCause (s : State) (n : Nat) (t : Trap) : (s.asyncCause n t).tick = s.tick := by
  unfold State.asyncCause; dsimp only; split <;> simp

@[simp] theorem State.mem_trapOn (s : State) (n : Nat) (t : Trap) (pc : Word) : (s.trapOn n t pc).mem = s.mem := by
  unfold State.trapOn; dsimp only; split <;> split <;> [skip; split; skip; split] <;> simp
@[simp] theorem State.fe_trapOn (s : State) (n : Nat) (t : Trap) (pc : Word) : (s.trapOn n t pc).fe = s.fe := by
  unfold State.trapOn; dsimp only; split <;> split <;> [skip; split; skip; split] <;> simp
@[simp] theorem State.ue_trapOn (s : State) (n : Nat) (t : Trap) (pc : Word) : (s.trapOn n t pc).ue = s.ue := by
  unfold State.trapOn; dsimp only; split <;> split <;> [skip; split; skip; split] <;> simp
@[simp] theorem State.hostMem_trapOn (s : State) (n : Nat) (t : Trap) (pc : Word) : (s.trapOn n t pc).hostMem = s.hostMem := by
  unfold State.trapOn; dsimp only; split <;> split <;> [skip; split; skip; split] <;> simp
@[simp] theorem State.winMem_trapOn (s : State) (n : Nat) (t : Trap) (pc : Word) : (s.trapOn n t pc).winMem = s.winMem := by
  unfold State.trapOn; dsimp only; split <;> split <;> [skip; split; skip; split] <;> simp
@[simp] theorem State.tasks_trapOn (s : State) (n : Nat) (t : Trap) (pc : Word) : (s.trapOn n t pc).tasks = s.tasks := by
  unfold State.trapOn; dsimp only; split <;> split <;> [skip; split; skip; split] <;> simp
@[simp] theorem State.harnesses_trapOn (s : State) (n : Nat) (t : Trap) (pc : Word) : (s.trapOn n t pc).harnesses = s.harnesses := by
  unfold State.trapOn; dsimp only; split <;> split <;> [skip; split; skip; split] <;> simp
@[simp] theorem State.rings_trapOn (s : State) (n : Nat) (t : Trap) (pc : Word) : (s.trapOn n t pc).rings = s.rings := by
  unfold State.trapOn; dsimp only; split <;> split <;> [skip; split; skip; split] <;> simp
@[simp] theorem State.steps_trapOn (s : State) (n : Nat) (t : Trap) (pc : Word) : (s.trapOn n t pc).steps = s.steps := by
  unfold State.trapOn; dsimp only; split <;> split <;> [skip; split; skip; split] <;> simp
@[simp] theorem State.resv_trapOn (s : State) (n : Nat) (t : Trap) (pc : Word) : (s.trapOn n t pc).resv = s.resv := by
  unfold State.trapOn; dsimp only; split <;> split <;> [skip; split; skip; split] <;> simp
@[simp] theorem State.deltas_trapOn (s : State) (n : Nat) (t : Trap) (pc : Word) : (s.trapOn n t pc).deltas = s.deltas := by
  unfold State.trapOn; dsimp only; split <;> split <;> [skip; split; skip; split] <;> simp
@[simp] theorem State.fresh_trapOn (s : State) (n : Nat) (t : Trap) (pc : Word) : (s.trapOn n t pc).fresh = s.fresh := by
  unfold State.trapOn; dsimp only; split <;> split <;> [skip; split; skip; split] <;> simp
@[simp] theorem State.free_trapOn (s : State) (n : Nat) (t : Trap) (pc : Word) : (s.trapOn n t pc).free = s.free := by
  unfold State.trapOn; dsimp only; split <;> split <;> [skip; split; skip; split] <;> simp
@[simp] theorem State.sched_trapOn (s : State) (n : Nat) (t : Trap) (pc : Word) : (s.trapOn n t pc).sched = s.sched := by
  unfold State.trapOn; dsimp only; split <;> split <;> [skip; split; skip; split] <;> simp
@[simp] theorem State.cur_trapOn (s : State) (n : Nat) (t : Trap) (pc : Word) : (s.trapOn n t pc).cur = s.cur := by
  unfold State.trapOn; dsimp only; split <;> split <;> [skip; split; skip; split] <;> simp
@[simp] theorem State.tick_trapOn (s : State) (n : Nat) (t : Trap) (pc : Word) : (s.trapOn n t pc).tick = s.tick := by
  unfold State.trapOn; dsimp only; split <;> split <;> [skip; split; skip; split] <;> simp

@[simp] theorem State.mem_trap (s : State) (t : Trap) : (s.trap t).mem = s.mem := by
  simp [State.trap]
@[simp] theorem State.fe_trap (s : State) (t : Trap) : (s.trap t).fe = s.fe := by
  simp [State.trap]
@[simp] theorem State.ue_trap (s : State) (t : Trap) : (s.trap t).ue = s.ue := by
  simp [State.trap]
@[simp] theorem State.hostMem_trap (s : State) (t : Trap) : (s.trap t).hostMem = s.hostMem := by
  simp [State.trap]
@[simp] theorem State.winMem_trap (s : State) (t : Trap) : (s.trap t).winMem = s.winMem := by
  simp [State.trap]
@[simp] theorem State.tasks_trap (s : State) (t : Trap) : (s.trap t).tasks = s.tasks := by
  simp [State.trap]
@[simp] theorem State.harnesses_trap (s : State) (t : Trap) : (s.trap t).harnesses = s.harnesses := by
  simp [State.trap]
@[simp] theorem State.rings_trap (s : State) (t : Trap) : (s.trap t).rings = s.rings := by
  simp [State.trap]
@[simp] theorem State.steps_trap (s : State) (t : Trap) : (s.trap t).steps = s.steps := by
  simp [State.trap]
@[simp] theorem State.resv_trap (s : State) (t : Trap) : (s.trap t).resv = s.resv := by
  simp [State.trap]
@[simp] theorem State.deltas_trap (s : State) (t : Trap) : (s.trap t).deltas = s.deltas := by
  simp [State.trap]
@[simp] theorem State.fresh_trap (s : State) (t : Trap) : (s.trap t).fresh = s.fresh := by
  simp [State.trap]
@[simp] theorem State.free_trap (s : State) (t : Trap) : (s.trap t).free = s.free := by
  simp [State.trap]
@[simp] theorem State.sched_trap (s : State) (t : Trap) : (s.trap t).sched = s.sched := by
  simp [State.trap]
@[simp] theorem State.cur_trap (s : State) (t : Trap) : (s.trap t).cur = s.cur := by
  simp [State.trap]
@[simp] theorem State.tick_trap (s : State) (t : Trap) : (s.trap t).tick = s.tick := by
  simp [State.trap]

end Sys2Proof.Machine
end

