-- ==== Sys2Proof/Laws/Memory.lean ====
section
/-! SUPPORT. Memory: a read after a write, and the canonical form that every memory operation keeps. -/

namespace Sys2Proof.Machine

/-! Bytes -/

theorem State.byte_setByte (s : State) (a b : Nat) (x : Byte) :
    (s.setByte a x).byte b = if b = a then x else s.byte b := look_put _ _ _ _ _

theorem State.byte_setByte_same (s : State) (a : Nat) (x : Byte) : (s.setByte a x).byte a = x := by
  simp [State.byte_setByte]

theorem State.byte_setByte_ne (s : State) {a b : Nat} (x : Byte) (h : b ≠ a) : (s.setByte a x).byte b = s.byte b := by
  simp [State.byte_setByte, h]

/-- What a byte reads as after bytes have been written. -/
theorem State.byte_setBytes (l : List Byte) : ∀ (s : State) (a b : Nat),
    (s.setBytes a l).byte b = if a ≤ b ∧ b < a + l.length then l.getD (b - a) 0 else s.byte b := by
  induction l with
  | nil => intro s a b; simp only [State.setBytes, List.length_nil]; rw [if_neg (by omega)]
  | cons x r ih =>
    intro s a b
    simp only [State.setBytes, ih, State.byte_setByte, List.length_cons]
    by_cases h : b = a
    · subst h; rw [if_neg (by omega), if_pos (by omega)]; simp
    · by_cases h2 : a + 1 ≤ b ∧ b < a + 1 + r.length
      · rw [if_pos h2, if_pos (by omega), show b - a = (b - (a + 1)) + 1 by omega]; rfl
      · rw [if_neg h2, if_neg h, if_neg (by omega)]

theorem State.bytes_length (s : State) (a n : Nat) : (s.bytes a n).length = n := by
  induction n generalizing a with
  | zero => rfl
  | succ n ih => simp [State.bytes, ih]

theorem State.bytes_congr {s t : State} {n : Nat} : ∀ {a : Nat}, (∀ i, i < n → s.byte (a + i) = t.byte (a + i)) →
    s.bytes a n = t.bytes a n := by
  induction n with
  | zero => intros; rfl
  | succ n ih =>
    intro a h
    simp only [State.bytes]
    rw [show s.byte a = t.byte a from h 0 (by omega)]
    rw [ih fun i hi => by rw [show a + 1 + i = a + (i + 1) by omega]; exact h (i + 1) (by omega)]

/-- Bytes that are read where they were written. -/
theorem State.bytes_setBytes (l : List Byte) : ∀ (s : State) (a : Nat), (s.setBytes a l).bytes a l.length = l := by
  induction l with
  | nil => intros; rfl
  | cons x r ih =>
    intro s a
    simp only [List.length_cons, State.bytes, State.setBytes, ih]
    rw [State.byte_setBytes, if_neg (by omega), State.byte_setByte_same]

theorem State.num_setBytes (s : State) (a n x : Nat) : (s.setBytes a (toBytes n x)).num a n = x % 256 ^ n := by
  unfold State.num
  have := (s.setBytes a (toBytes n x)).bytes_setBytes (toBytes n x)
  have h := State.bytes_setBytes (toBytes n x) s a
  rw [length_toBytes] at h
  rw [h, ofBytes_toBytes]

theorem State.byte_congr {s t : State} (h : s.mem = t.mem) (a : Nat) : s.byte a = t.byte a := by simp [State.byte, h]

theorem State.num_congr {s t : State} (h : s.mem = t.mem) (a n : Nat) : s.num a n = t.num a n := by
  unfold State.num; rw [State.bytes_congr fun i _ => State.byte_congr h _]

/-! What a write at the homes leaves alone -/

theorem State.wake_eq (s : State) (line : Nat) :
    ∃ cs ws, s.wake line = { s with cores := cs, watch := ws } := by
  have : ∀ (l : List (Nat × Nat)) (u : State), ∃ cs, l.foldl
      (fun (s : State) w => if w.1 = line then s.modCore w.2 fun c => { c with wait := .watch true } else s) u =
        { u with cores := cs } := by
    intro l
    induction l with
    | nil => exact fun u => ⟨u.cores, rfl⟩
    | cons w r ih =>
      intro u
      simp only [List.foldl]
      split
      · obtain ⟨cs, h⟩ := ih (u.modCore w.2 fun c => { c with wait := .watch true })
        exact ⟨cs, by rw [h]; rfl⟩
      · exact ih u
  obtain ⟨cs, h⟩ := this s.watch s
  exact ⟨cs, _, by unfold State.wake; rw [h]⟩

@[simp] theorem State.mem_wake (s : State) (line : Nat) : (s.wake line).mem = s.mem := by
  obtain ⟨_, _, h⟩ := s.wake_eq line; rw [h]
@[simp] theorem State.hostMem_wake (s : State) (line : Nat) : (s.wake line).hostMem = s.hostMem := by
  obtain ⟨_, _, h⟩ := s.wake_eq line; rw [h]
@[simp] theorem State.winMem_wake (s : State) (line : Nat) : (s.wake line).winMem = s.winMem := by
  obtain ⟨_, _, h⟩ := s.wake_eq line; rw [h]
@[simp] theorem State.fe_wake (s : State) (line : Nat) : (s.wake line).fe = s.fe := by
  obtain ⟨_, _, h⟩ := s.wake_eq line; rw [h]
@[simp] theorem State.pkgs_wake (s : State) (line : Nat) : (s.wake line).pkgs = s.pkgs := by
  obtain ⟨_, _, h⟩ := s.wake_eq line; rw [h]
@[simp] theorem State.graphs_wake (s : State) (line : Nat) : (s.wake line).graphs = s.graphs := by
  obtain ⟨_, _, h⟩ := s.wake_eq line; rw [h]
@[simp] theorem State.tasks_wake (s : State) (line : Nat) : (s.wake line).tasks = s.tasks := by
  obtain ⟨_, _, h⟩ := s.wake_eq line; rw [h]
@[simp] theorem State.clusters_wake (s : State) (line : Nat) : (s.wake line).clusters = s.clusters := by
  obtain ⟨_, _, h⟩ := s.wake_eq line; rw [h]
@[simp] theorem State.cur_wake (s : State) (line : Nat) : (s.wake line).cur = s.cur := by
  obtain ⟨_, _, h⟩ := s.wake_eq line; rw [h]
@[simp] theorem State.fresh_wake (s : State) (line : Nat) : (s.wake line).fresh = s.fresh := by
  obtain ⟨_, _, h⟩ := s.wake_eq line; rw [h]

/-- Below the control regions every bit of a byte is written. -/
theorem writable_plain {a : Nat} (h : a % 2 ^ 44 < 0x300_0000_0000) : writable a = 0xFF := by
  unfold writable; rw [if_pos (Or.inl h)]

theorem byte_and_writable {a : Nat} (h : a % 2 ^ 44 < 0x300_0000_0000) (x : Byte) : x &&& writable a = x := by
  rw [writable_plain h, show (0xFF : Byte) = BitVec.allOnes 8 from rfl, BitVec.and_allOnes]

/-! A write at the homes as a whole -/

/-- The bytes of a write with their addresses. -/
def placed (pa : Nat) (data : List Byte) : List (Nat × Byte) := (upFrom pa data.length).zip data

theorem placed_byLine (data : List Byte) : ∀ pa : Nat,
    (byLine pa data).flatMap (fun l => l.2.map fun d => (64 * l.1 + d.1, d.2)) = placed pa data := by
  induction data with
  | nil => intro pa; rfl
  | cons x r ih =>
    intro pa
    have hp : 64 * (pa / 64) + pa % 64 = pa := by omega
    have h := ih (pa + 1)
    simp only [byLine, placed, List.length_cons, upFrom, List.zip_cons_cons]
    rw [← placed, ← h]
    split
    · rename_i l ds rest e
      split
      · rename_i hl; subst hl; simp [e, hp]
      · simp [e, hp]
    · rename_i e; simp [e, hp]

theorem State.mem_land (s : State) (line : Nat) (data : List (Nat × Byte)) :
    (s.land line data).mem =
      (data.map fun d => (64 * line + d.1, d.2)).foldl (fun m c => put m 0 c.1 (c.2 &&& writable c.1)) s.mem := by
  unfold State.land
  rw [State.mem_wake]
  induction data generalizing s with
  | nil => rfl
  | cons x r ih => exact ih (s.setByte (64 * line + x.1) (x.2 &&& writable (64 * line + x.1)))

theorem State.mem_homeBytes (s : State) (core : Option Nat) (pa : Nat) (data : List Byte) :
    (s.homeBytes core false pa data).mem =
      (placed pa data).foldl (fun m c => put m 0 c.1 (c.2 &&& writable c.1)) s.mem := by
  rw [← placed_byLine]
  unfold State.homeBytes
  generalize byLine pa data = ls
  induction ls generalizing s with
  | nil => rfl
  | cons l r ih =>
    simp only [List.foldl_cons, List.flatMap_cons, List.foldl_append]
    rw [ih, State.homeWrite]
    simp only [Bool.false_eq_true, if_false]
    rw [State.mem_land]

theorem look_foldl_placed (f : Nat × Byte → Byte) (data : List Byte) : ∀ (pa b : Nat) (m : List Host.Cell),
    look ((placed pa data).foldl (fun m c => put m 0 c.1 (f c)) m) 0 b =
      if pa ≤ b ∧ b < pa + data.length then f (b, data.getD (b - pa) 0) else look m 0 b := by
  induction data with
  | nil => intro pa b m; simp only [placed, List.length_nil, upFrom, List.zip_nil_left, List.foldl_nil]; rw [if_neg (by omega)]
  | cons x r ih =>
    intro pa b m
    have e : placed pa (x :: r) = (pa, x) :: placed (pa + 1) r := rfl
    simp only [e, List.foldl_cons, ih, look_put, List.length_cons]
    by_cases h : b = pa
    · subst h; rw [if_neg (by omega), if_pos rfl, if_pos (by omega)]; simp
    · by_cases h2 : pa + 1 ≤ b ∧ b < pa + 1 + r.length
      · rw [if_pos h2, if_pos (by omega), show b - pa = (b - (pa + 1)) + 1 by omega]; rfl
      · rw [if_neg h2, if_neg h, if_neg (by omega)]

/-- What a byte reads as after an unprotected write at the homes. -/
theorem State.byte_homeBytes (s : State) (core : Option Nat) (pa b : Nat) (data : List Byte) :
    (s.homeBytes core false pa data).byte b =
      if pa ≤ b ∧ b < pa + data.length then data.getD (b - pa) 0 &&& writable b else s.byte b := by
  unfold State.byte
  rw [State.mem_homeBytes]
  exact look_foldl_placed (fun c => c.2 &&& writable c.1) data pa b s.mem

/-- An unprotected write at the homes changes memory, the error marks, and the waits of parked cores only. -/
theorem State.homeBytes_eq (s : State) (core : Option Nat) (pa : Nat) (data : List Byte) :
    ∃ m u cs ws, s.homeBytes core false pa data = { s with mem := m, ue := u, cores := cs, watch := ws } := by
  unfold State.homeBytes
  generalize byLine pa data = ls
  induction ls generalizing s with
  | nil => exact ⟨s.mem, s.ue, s.cores, s.watch, rfl⟩
  | cons l r ih =>
    simp only [List.foldl_cons]
    have hl : ∃ m u cs ws, s.homeWrite core false l.1 l.2 = { s with mem := m, ue := u, cores := cs, watch := ws } := by
      have hb : ∀ (ds : List (Nat × Byte)) (t : State), ∃ m u,
          ds.foldl (fun s d => s.setByte (64 * l.1 + d.1) (d.2 &&& writable (64 * l.1 + d.1))) t =
            { t with mem := m, ue := u } := by
        intro ds
        induction ds with
        | nil => exact fun t => ⟨t.mem, t.ue, rfl⟩
        | cons d ds ih2 =>
          intro t
          obtain ⟨m, u, h⟩ := ih2 (t.setByte (64 * l.1 + d.1) (d.2 &&& writable (64 * l.1 + d.1)))
          exact ⟨m, u, by rw [List.foldl_cons, h]; rfl⟩
      obtain ⟨m, u, h⟩ := hb l.2 s
      obtain ⟨cs, ws, h2⟩ := State.wake_eq { s with mem := m, ue := u } l.1
      exact ⟨m, u, cs, ws, by
        simp only [State.homeWrite, State.land, Bool.false_eq_true, if_false]; rw [h, h2]⟩
    obtain ⟨m, u, cs, ws, h⟩ := hl
    obtain ⟨m2, u2, cs2, ws2, h2⟩ := ih { s with mem := m, ue := u, cores := cs, watch := ws }
    exact ⟨m2, u2, cs2, ws2, by rw [h, h2]⟩

/-! The canonical form -/

/-- A change that leaves the three memories alone keeps their form. -/
theorem State.MemWf.congr {s t : State} (h : s.MemWf) (hm : t.mem = s.mem) (hh : t.hostMem = s.hostMem)
    (hw : t.winMem = s.winMem) : t.MemWf := ⟨by rw [hm]; exact h.mem, by rw [hh]; exact h.host, by rw [hw]; exact h.win⟩

theorem memWf_reset : Memory.wf State.reset.mem := rfl

theorem State.MemWf.setByte {s : State} (h : s.MemWf) (a : Nat) (x : Byte) : (s.setByte a x).MemWf :=
  ⟨wf_put h.mem a x, h.host, h.win⟩

theorem State.MemWf.setBytes (l : List Byte) : ∀ {s : State}, s.MemWf → ∀ a : Nat, (s.setBytes a l).MemWf := by
  induction l with
  | nil => exact fun h _ => h
  | cons x r ih => exact fun h a => ih (h.setByte a x) (a + 1)

theorem State.MemWf.wake {s : State} (h : s.MemWf) (line : Nat) : (s.wake line).MemWf :=
  h.congr (s.mem_wake line) (s.hostMem_wake line) (s.winMem_wake line)

theorem State.MemWf.foldl {α : Type} (f : State → α → State) (hf : ∀ s x, s.MemWf → (f s x).MemWf) (l : List α) :
    ∀ {s : State}, s.MemWf → (l.foldl f s).MemWf := by
  induction l with
  | nil => exact id
  | cons x r ih => exact fun h => ih (hf _ x h)

theorem State.MemWf.land {s : State} (h : s.MemWf) (line : Nat) (data : List (Nat × Byte)) : (s.land line data).MemWf :=
  State.MemWf.wake (State.MemWf.foldl _ (fun _ _ h => h.setByte _ _) data h) line

theorem State.MemWf.modCore {s : State} (h : s.MemWf) (n : Nat) (f : Core → Core) : (s.modCore n f).MemWf :=
  h.congr rfl rfl rfl

theorem State.MemWf.modPkg {s : State} (h : s.MemWf) (n : Nat) (f : Package → Package) : (s.modPkg n f).MemWf :=
  h.congr rfl rfl rfl

theorem State.MemWf.ite {s t : State} (hs : s.MemWf) (ht : t.MemWf) (c : Prop) [Decidable c] : (if c then s else t).MemWf := by
  split <;> assumption

theorem State.MemWf.countProt {s : State} (h : s.MemWf) (core : Option Nat) : (s.countProt core).MemWf := by
  cases core
  · exact h
  · exact State.MemWf.modCore h _ fun c => { c with prot := c.prot + 1 }

theorem State.MemWf.noteDrop {s : State} (h : s.MemWf) (group : Nat) (core : Option Nat) : (s.noteDrop group core).MemWf := by
  cases core
  · exact h
  · exact State.MemWf.modCore h _ fun c => { c with dropped := addNat c.dropped group }

theorem State.MemWf.protectedWrite {s : State} (h : s.MemWf) (core : Option Nat) (line : Nat) (data : List (Nat × Byte)) :
    (s.protectedWrite core line data).MemWf := by
  unfold State.protectedWrite
  split
  · exact h.land line data
  · have hd := fun (ds : List Delta) => (h.land line data).congr (t := { s.land line data with
      fresh := (s.land line data).fresh + 1, deltas := (s.land line data).deltas ++ ds }) rfl rfl rfl
    have hn := fun (ds : List Delta) (g : Nat) (c : Prop) [Decidable c] => ((hd ds).noteDrop g core).ite (hd ds) c
    exact (hn _ _ _).ite ((hn _ _ _).countProt core) _

theorem State.MemWf.homeWrite {s : State} (h : s.MemWf) (core : Option Nat) (prot : Bool) (line : Nat)
    (data : List (Nat × Byte)) : (s.homeWrite core prot line data).MemWf := by
  unfold State.homeWrite; split
  · exact h.protectedWrite core line data
  · exact h.land line data

theorem State.MemWf.homeBytes {s : State} (h : s.MemWf) (core : Option Nat) (prot : Bool) (pa : Nat) (data : List Byte) :
    (s.homeBytes core prot pa data).MemWf :=
  State.MemWf.foldl _ (fun _ _ h => h.homeWrite core prot _ _) _ h

theorem State.MemWf.ackDelta {s : State} (h : s.MemWf) (i : Nat) (d : Delta) : (s.ackDelta i d).MemWf := by
  have hd := h.congr (t := { s with deltas := modifyAt s.deltas i fun d => { d with applied := true } }) rfl rfl rfl
  unfold State.ackDelta
  refine State.MemWf.ite hd ?_ _
  split
  · exact hd.modCore _ _
  · exact hd

theorem State.MemWf.applyDelta {s : State} (h : s.MemWf) (i : Nat) : (s.applyDelta i).MemWf := by
  unfold State.applyDelta
  split
  · exact h.ite ((State.MemWf.setBytes _ h _).ackDelta i _) _
  · exact h

theorem State.MemWf.setWin {s : State} (h : s.MemWf) (pkg win off : Nat) (data : List Byte) :
    (s.setWin pkg win off data).MemWf := ⟨h.mem, h.host, wf_foldl_put _ h.win⟩

theorem wf_foldl_puts {α β : Type} [DecidableEq α] {d : α} (k : β → Nat) (v : β → α) (l : List β) :
    ∀ {m : List (Nat × α)}, wf d m = true → wf d (l.foldl (fun m c => put m d (k c) (v c)) m) = true := by
  induction l with
  | nil => exact id
  | cons x r ih => exact fun h => ih (wf_put h _ _)

theorem State.MemWf.hostWrite {s : State} (h : s.MemWf) (a : Nat) (data : List Byte) : (s.hostWrite a data).MemWf :=
  ⟨h.mem, wf_foldl_puts (fun c : Byte × Nat => (a + c.2) % 2 ^ 64) (·.1) _ h.host, h.win⟩

theorem State.MemWf.clearSpad {s : State} (h : s.MemWf) (k lo hi : Nat) : (s.clearSpad k lo hi).MemWf :=
  ⟨wf_filter _ h.mem, h.host, h.win⟩

theorem State.MemWf.writePieces (l : List (Nat × List Byte)) :
    ∀ {s : State}, s.MemWf → ∀ a : Nat, (s.writePieces a l).MemWf := by
  induction l with
  | nil => exact fun h _ => h
  | cons x r ih => exact fun h a => ih (h.homeBytes none false _ _) a

theorem State.MemWf.harnessRecord {s : State} (h : s.MemWf) (m : Option Member) : (s.harnessRecord m).1.MemWf := by
  cases m
  · exact h
  · exact h.congr rfl rfl rfl

theorem State.MemWf.saveImage {s : State} (h : s.MemWf) (k i : Nat) (t : TaskCtx) (stamp : Nat) :
    (s.saveImage k i t stamp).MemWf := by
  unfold State.saveImage
  apply State.MemWf.writePieces
  apply State.MemWf.harnessRecord
  constructor
  · exact wf_filter _ h.mem
  · exact h.host
  · exact h.win

/-! Posted stores and links hold no memory -/

theorem State.MemWf.asyncCause {s : State} (h : s.MemWf) (k : Nat) (t : Trap) : (s.asyncCause k t).MemWf := by
  unfold State.asyncCause
  simp only
  split
  · exact h.congr rfl rfl rfl
  · refine State.MemWf.modPkg (s := s.setCore k _) ?_ _ _
    exact h.congr rfl rfl rfl

theorem State.MemWf.refused {s : State} (h : s.MemWf) (k i st : Nat) (info : Word) : (s.refused k i st info).MemWf :=
  (h.congr (t := s.setCore k _) rfl rfl rfl).asyncCause _ _

theorem State.MemWf.settlePost {s : State} (h : s.MemWf) (k i : Nat) : (s.settlePost k i).MemWf := by
  unfold State.settlePost
  split
  · exact h
  · refine h.ite ?_ _
    split
    · exact h.refused _ _ _ _
    · exact (h.modCore _ _).ite (h.modCore _ _) _

theorem State.MemWf.refusePacket {s : State} (h : s.MemWf) (p : Packet) : (s.refusePacket p).MemWf := by
  have hl : (s.landed p).MemWf := h.modCore _ _
  unfold State.refusePacket
  simp only
  split
  · exact hl
  · split
    · exact hl
    · exact hl
    · exact hl.ite ((hl.modCore _ _).settlePost _ _) _
    · exact hl.ite ((hl.modCore _ _).settlePost _ _) _
    · exact hl.refused _ _ _ _
    · exact hl.refused _ _ _ _
    · exact hl.refused _ _ _ _
    · exact hl

theorem State.MemWf.sendFlit {s : State} (h : s.MemWf) (pkg i : Nat) (f : Flit) : (s.sendFlit pkg i f).MemWf := by
  unfold State.sendFlit State.travel
  simp only
  split
  · exact (h.modPkg _ _).modPkg _ _
  · exact h.modPkg _ _

theorem State.MemWf.resteer (l : List Flit) : ∀ {s : State}, s.MemWf → ∀ pkg link : Nat, (s.resteer pkg link l).MemWf := by
  induction l with
  | nil => exact fun h _ _ => h
  | cons f r ih =>
    intro s h pkg link
    refine ih ?_ pkg link
    split
    · exact State.MemWf.sendFlit (State.MemWf.ite (h.modCore _ _) h _) _ _ _
    · exact h.sendFlit _ _ _
    · exact h.refusePacket _
    · exact h

theorem State.MemWf.partnersDown {s : State} (h : s.MemWf) (pkg : Nat) : (s.partnersDown pkg).MemWf := by
  exact State.MemWf.foldl _ (fun _ _ h => State.MemWf.resteer _ (h.modPkg _ _) _ _) _ h

theorem State.MemWf.resetPackage {s : State} (h : s.MemWf) (pkg : Nat) : (s.resetPackage pkg).MemWf :=
  have hp := h.partnersDown pkg
  ⟨wf_filter _ hp.mem, hp.host, hp.win⟩

theorem wf_insert {α : Type} [DecidableEq α] {d x : α} {m : List (Nat × α)} (h : wf d m = true) (k : Nat) (hx : x ≠ d) :
    wf d (insert m k x) = true := by
  have := wf_put h k x
  rwa [put, if_neg hx] at this

theorem mem_wfFrom {α : Type} [DecidableEq α] {d : α} {c : Nat × α} :
    ∀ {lo : Nat} {m : List (Nat × α)}, wfFrom d lo m = true → c ∈ m → c.2 ≠ d
  | _, [], _, h => by simp at h
  | lo, (k, v) :: r, h, hc => by
    simp only [wfFrom, Bool.and_eq_true, decide_eq_true_eq] at h
    rcases List.mem_cons.1 hc with e | e
    · subst e; simpa using h.1.2
    · exact mem_wfFrom h.2 e

theorem wf_foldl_insert {α : Type} [DecidableEq α] {d : α} (k : Nat × α → Nat) (l : List (Nat × α)) :
    ∀ {m : List (Nat × α)}, wf d m = true → (∀ c ∈ l, c.2 ≠ d) →
      wf d (l.foldl (fun m c => insert m (k c) c.2) m) = true := by
  induction l with
  | nil => exact fun h _ => h
  | cons x r ih =>
    exact fun h hx => ih (wf_insert h _ (hx x (List.mem_cons_self ..))) fun c hc => hx c (List.mem_cons_of_mem _ hc)

theorem State.MemWf.setDomregs {s : State} (h : s.MemWf) (pkg id : Nat) : (s.setDomregs pkg id).MemWf :=
  State.MemWf.foldl _ (fun _ _ h => h.modCore _ _) _ h

theorem State.MemWf.pointRoutes {s : State} (h : s.MemWf) (spare lost : Nat) : (s.pointRoutes spare lost).MemWf :=
  State.MemWf.foldl _ (fun _ _ h => State.MemWf.foldl _ (fun _ _ h => h.homeBytes none false _ _) _ h) _ h

theorem State.MemWf.adopt {s : State} (h : s.MemWf) (g : ParityGroup) (lost : Nat) : (s.adopt g lost).MemWf := by
  unfold State.adopt
  apply State.MemWf.setDomregs
  apply State.MemWf.modPkg
  refine State.MemWf.congr (State.MemWf.pointRoutes (State.MemWf.modPkg ?_ _ _) g.spare lost) rfl rfl rfl
  constructor
  · apply wf_foldl_insert
    · exact wf_filter _ (wf_filter _ h.mem)
    · intro c hc
      exact mem_wfFrom h.mem (List.mem_of_mem_filter (List.mem_of_mem_filter hc))
  · exact h.host
  · exact h.win

end Sys2Proof.Machine
end

