-- ==== Sys2Proof/Laws/Tasks.lean ====
section
/-! SUPPORT. The list of tasks stays in rising order, and what the shared operations do when nothing is under way. -/

namespace Sys2Proof.Machine

/-! Rising keys -/

section
variable {α : Type}

/-- The keys of a list rise strictly. -/
def Rises (m : List (Nat × α)) : Prop := (m.map (·.1)).Pairwise (· < ·)

theorem key_insert {m : List (Nat × α)} {k : Nat} {x : α} {j : Nat} (h : j ∈ (insert m k x).map (·.1)) :
    j = k ∨ j ∈ m.map (·.1) := by
  induction m with
  | nil => simpa [insert] using h
  | cons c r ih =>
    obtain ⟨a, v⟩ := c
    simp only [insert] at h
    split at h
    · simpa using h
    · split at h
      · simp only [List.map_cons, List.mem_cons] at h ⊢
        rcases h with h | h
        · exact .inl h
        · exact .inr (.inr h)
      · simp only [List.map_cons, List.mem_cons] at h ⊢
        rcases h with h | h
        · exact .inr (.inl h)
        · rcases ih h with h | h
          · exact .inl h
          · exact .inr (.inr h)

theorem Rises.insert {m : List (Nat × α)} (h : Rises m) (k : Nat) (x : α) : Rises (insert m k x) := by
  induction m with
  | nil => simp [Rises, Machine.insert]
  | cons c r ih =>
    obtain ⟨a, v⟩ := c
    have hc := List.pairwise_cons.1 h
    simp only [Machine.insert]
    split
    · rename_i hk
      refine List.pairwise_cons.2 ⟨fun j hj => ?_, h⟩
      rcases List.mem_cons.1 hj with e | e
      · subst e; exact hk
      · exact Nat.lt_trans hk (hc.1 j e)
    · split
      · rename_i hk; subst hk; exact h
      · refine List.pairwise_cons.2 ⟨fun j hj => ?_, ih hc.2⟩
        rcases key_insert hj with e | e
        · subst e; show a < j; omega
        · exact hc.1 j e

theorem Rises.sublist {m n : List (Nat × α)} (h : Rises m) (hs : n.Sublist m) : Rises n :=
  List.Pairwise.sublist (hs.map _) h

theorem erase_sublist (m : List (Nat × α)) (k : Nat) : (erase m k).Sublist m := by
  induction m with
  | nil => exact .slnil
  | cons c r ih =>
    obtain ⟨a, v⟩ := c
    simp only [erase]
    split
    · exact ih.cons _
    · exact ih.cons_cons _

theorem Rises.erase {m : List (Nat × α)} (h : Rises m) (k : Nat) : Rises (erase m k) := h.sublist (erase_sublist m k)

theorem Rises.filter {m : List (Nat × α)} (h : Rises m) (p : Nat × α → Bool) : Rises (m.filter p) :=
  h.sublist List.filter_sublist

theorem Rises.map {β : Type} {m : List (Nat × α)} (h : Rises m) (f : Nat × α → Nat × β) (hf : ∀ c, (f c).1 = c.1) :
    Rises (m.map f) := by
  unfold Rises at *
  rwa [List.map_map, show ((·.1) ∘ f : Nat × α → Nat) = (·.1) from funext hf]

/-- In a rising list an entry is what its key finds. -/
theorem Rises.find? {m : List (Nat × α)} (h : Rises m) {k : Nat} {x : α} (hm : (k, x) ∈ m) : find? m k = some x := by
  induction m with
  | nil => simp at hm
  | cons c r ih =>
    obtain ⟨a, v⟩ := c
    have hc := List.pairwise_cons.1 h
    simp only [Machine.find?]
    rcases List.mem_cons.1 hm with e | e
    · injection e with e1 e2; subst e1; subst e2; simp
    · have : a < k := hc.1 k (List.mem_map_of_mem (f := (·.1)) e)
      rw [if_neg (by omega)]
      exact ih hc.2 e
end

theorem mem_of_find? {α : Type} {m : List (Nat × α)} {k : Nat} {x : α} (h : find? m k = some x) : (k, x) ∈ m := by
  induction m with
  | nil => simp [find?] at h
  | cons c r ih =>
    obtain ⟨a, v⟩ := c
    simp only [find?] at h
    split at h
    · rename_i e; subst e; simp_all
    · exact List.mem_cons_of_mem _ (ih h)

theorem State.TasksRise.congr {s t : State} (h : s.TasksRise) (e : t.tasks = s.tasks) : t.TasksRise := by
  unfold State.TasksRise; rw [e]; exact h

theorem State.TasksRise.insert {s : State} (h : s.TasksRise) (id : Nat) (t : Task) :
    State.TasksRise { s with tasks := Machine.insert s.tasks id t } := Rises.insert h id t

theorem State.TasksRise.addTask {s : State} (h : s.TasksRise) (k : NodeKey) (hd : Header) (role : Nat) (elem : Option Nat)
    (taskid stamp cl : Nat) (ovr : Bool) : (s.addTask k hd role elem taskid stamp cl ovr).TasksRise :=
  Rises.insert h _ _

/-- A tidy state stays tidy under a change that leaves its memories and its tasks alone. -/
theorem State.Tidy.congr {s t : State} (h : s.Tidy) (hm : t.mem = s.mem) (hh : t.hostMem = s.hostMem)
    (hw : t.winMem = s.winMem) (ht : t.tasks = s.tasks) : t.Tidy :=
  ⟨h.memories.congr hm hh hw, h.tasks.congr ht⟩

/-! Nothing under way -/

theorem State.leaveMany_quiet (s : State) (k n : Nat) (h : (s.core k).sbuf = []) : s.leaveMany k n = s := by
  induction n with
  | zero => rfl
  | succ n ih => simp [State.leaveMany, State.leaveOne, h, ih]

theorem State.performAll_quiet (s : State) (k n : Nat) (h : (s.core k).sfly = []) : s.performAll k n = s := by
  cases n with
  | zero => rfl
  | succ n => simp [State.performAll, h]

/-- A core without a buffered line drains at once. -/
theorem State.drain_quiet (s : State) (k : Nat) (h : (s.core k).sbuf = []) (hf : (s.core k).sfly = []) : s.drain k = s := by
  unfold State.drain
  rw [State.leaveMany_quiet s k _ h, State.performAll_quiet s k _ hf]

theorem State.forceHome_quiet {s : State} (lines : List Nat) (h : s.me.sbuf = []) (hf : s.me.sfly = [])
    (hj : s.me.journal = []) : forceHome lines s = .ok ((), s) := by
  have h1 : s.leaveMany s.cur (s.me.upTo lines) = s := State.leaveMany_quiet s _ _ h
  have h2 : s.performAll s.cur 0 = s := State.performAll_quiet s _ _ hf
  simp [forceHome, M.bind_run, h1, h2, h, hf, Core.posting, hj]

end Sys2Proof.Machine
end

