-- ==== Sys2Proof/Tests/Slice0.lean ====
section
/-! SUPPORT. Own tests: the checks of WellFormed, words written out from the encodings of the spec, values that the spec
gives, and for every statement states and operands that meet its hypotheses. -/

namespace Sys2Proof.Tests

open Sys2Proof Sys2Proof.Machine

/- One theorem after another: many kernel evaluations at once would want a thread each. -/
set_option Elab.async false

/-! Small terms and states -/

/-- A guard that is true (R263). -/
def g0 : Guard := ⟨false, 0⟩

/-- A guard that is never true (R263). -/
def g1 : Guard := ⟨true, 0⟩

/-- A vector operation on v0 with element type .f32. -/
def vop : VOp := ⟨0, false, 0, .near, 0, .f32, 0, 0, 0, 0⟩

/-- One with another type. -/
def vopT (t : Ty) : VOp := { vop with ty := t }

/-- A scalar access of eight bytes at s1 in space V. -/
def mop : MemOp := ⟨0, .s64, .none, .core, .v, 1, 2⟩

/-- An atomic of eight bytes at s1 in space V. -/
def aop : AtomOp := ⟨0, .s64, .none, .core, .v, 2, 1, 3, 0⟩

/-- A strided or indexed access at s1 in space V. -/
def vmop : VMemOp := ⟨.v, .core, 0, .none, 0, .f32, 2, 1, 3⟩

/-! What is not well formed: one term for each check -/

theorem illformed_scalar : ∀ i ∈ [Instr.sext g0 .z8 1 2, .sext g0 .s64 1 2, .zext g0 .s8 1 2, .zext g0 .raw 1 2,
    .cmp g0 .un .s64 1 2 3, .cmp g0 .eq .f32 1 2 3, .cmp g0 .eq .s64 8 2 3, .plog g0 8 8 1 1, .plog g0 8 1 8 1,
    .plog g0 8 1 1 8, .shli g0 1 2 64, .shri g0 1 2 64, .srai g0 1 2 64, .cmpi g0 .gtz 1 2 3, .cmpiHi g0 .eq 1 2 3,
    .cmpiHi g0 .un 1 2 3], i.wellFormed = false := by decide

theorem illformed_float : ∀ i ∈ [Instr.fadd g0 .bf16 .near 1 2 3, .fsub g0 .s32 .near 1 2 3, .fmul g0 .raw .near 1 2 3,
    .fdiv g0 .f16 .near 1 2 3, .fma g0 .e4m3 .near 1 2 3 4, .fmin g0 .z64 1 2 3, .fmax g0 .bf16 1 2 3,
    .fcmp g0 .eq .s64 1 2 3, .fcmp g0 .ltz .f32 1 2 3, .fcmp g0 .gez .f64 1 2 3, .fcmp g0 .eq .f32 8 2 3,
    .fcvt g0 .raw .f32 .near 1 2, .fcvt g0 .f32 .ec8 .near 1 2], i.wellFormed = false := by decide

theorem illformed_memory : ∀ i ∈ [Instr.ld g0 { mop with ty := .raw }, .ldNc g0 { mop with ty := .ec8 },
    .ldRo g0 { mop with scope := .surv }, .st g0 { mop with scope := .surv }, .rld g0 ⟨0, 6, .none, .core, 1, 2⟩,
    .rld g0 ⟨0, 1, .none, .core, 1, 32⟩, .rst g0 ⟨0, 0, .none, .surv, 1, 2⟩, .ldfeFf g0 { mop with ty := .s32 },
    .ldfeFe g0 { mop with scope := .surv }, .stfeEf g0 { mop with ty := .z8 }, .stfeSf g0 { mop with ty := .f32 },
    .stfeSe g0 { mop with ty := .raw }, .amo g0 .add { aop with ty := .f64 }, .amo g0 .add { aop with c := 1 },
    .amo g0 .swap { aop with ty := .s16 }, .amo g0 .fadd { aop with ty := .s64 }, .amo g0 .max { aop with scope := .surv },
    .cas g0 { aop with ty := .z16 }, .cas g0 { aop with scope := .surv }, .amaxrs g0 { aop with c := 1 },
    .amaxrs g0 { aop with ty := .bf16 }], i.wellFormed = false := by decide

theorem illformed_waits : ∀ i ∈ [Instr.sstep g0 0, .sstep g0 6, .waita g0 ⟨0, .f64, false, .g, 1, 2, 3⟩,
    .waita g0 ⟨0, .s64, false, .l, 1, 2, 3⟩, .send g0 ⟨0, false, 0, false, .l, 1, 2, 3⟩,
    .send g0 ⟨0, false, 1, false, .x, 1, 2, 3⟩, .send g0 ⟨0, false, 0, true, .x, 1, 32, 3⟩,
    .send g0 ⟨0, false, 0, false, .g, 1, 2, 16⟩, .sendp g0 false 1 2 32, .recvp g0 false 1 32 2],
    i.wellFormed = false := by decide

theorem illformed_vector : ∀ i ∈ [Instr.vadd g0 { vop with d := 32 }, .vadd g0 { vop with a := 32 },
    .vadd g0 { vop with b := 32 }, .vadd g0 { vop with c := 1 }, .vadd g0 { vop with imm8 := 1 },
    .vadd g0 { vop with aux := 1 }, .vadd g0 (vopT .e4m3), .vadd g0 { vop with flag := true },
    .vsub g0 { vopT .s32 with rm := .up }, .vmul g0 (vopT .raw), .vfma g0 { vop with c := 32 },
    .vfma g0 (vopT .ec8), .vmin g0 { vop with rm := .chop }, .vmax g0 { vopT .s8 with flag := true },
    .vabs g0 { vop with b := 1 },
    .vand g0 vop, .vor g0 { vopT .raw with rm := .up }, .vxor g0 { vopT .raw with aux := 1 },
    .vshl g0 { vopT .s32 with flag := true, imm8 := 32 }, .vshr g0 { vopT .s32 with imm8 := 1 }, .vsra g0 vop,
    .vcmp g0 { vop with d := 8 }, .vcmp g0 { vop with aux := 11 }, .vcmp g0 { vop with aux := 6 },
    .vcmp g0 { vopT .s32 with aux := 10 }, .vsel g0 (vopT .raw), .vcvt g0 (vopT .f32),
    .vcvt g0 { vop with aux := 4, imm8 := 2 }, .vcvt g0 { vopT .s32 with aux := 12, rm := .up }, .vrcp g0 (vopT .f64),
    .vrsq g0 { vop with b := 1 }, .vexp2 g0 { vop with flag := true }, .vlog2 g0 (vopT .s32), .vclmul g0 vop,
    .vpopc g0 { vopT .s8 with flag := true }], i.wellFormed = false := by decide

theorem illformed_across : ∀ i ∈ [Instr.vld g0 { mop with d := 32 }, .vst g0 { mop with ty := .raw },
    .vlds g0 { vmop with sc := 1 }, .vsts g0 { vmop with d := 32 }, .vldg g0 { vmop with b := 32 },
    .vstg g0 { vmop with scope := .surv }, .vbcast g0 { vop with d := 32 }, .vperm g0 (vopT .raw),
    .vslide g0 { vop with imm8 := 64 }, .vcomp g0 { vop with b := 1 }, .vexpd g0 { vop with c := 1 },
    .vred g0 { vop with aux := 3 }, .vred g0 { vopT .s32 with aux := 6 }, .vscan g0 { vop with d := 32 },
    .vtopk g0 vop, .vtopk g0 { vop with imm8 := 65 }, .vmovs g0 { vop with mask := 1 },
    .vmovs g0 { vop with flag := true, d := 32 },
    .mlog g0 vop, .mlog g0 { vopT .raw with d := 8 }, .mget g0 { vopT .raw with imm8 := 4 }, .mget g0 { vopT .raw with a := 8 },
    .mset g0 { vopT .raw with imm8 := 4 }, .mset g0 { vopT .raw with d := 8 }], i.wellFormed = false := by decide

theorem illformed_engine : ∀ i ∈ [Instr.enq g0 false 0 ⟨0, .x, .mat, 1⟩, .enq g0 false 1 ⟨0, .g, .mat, 1⟩,
    .enqm g0 2 ⟨0, .v, .mat, 1⟩, .deq g0 false 1 2 3, .qmov g0 false 16 1, .qmov g0 true 1 16, .mstat g0 false 1 16,
    .mstat g0 true 1 8], i.wellFormed = false := by decide

/-! Words written out from the encodings of the spec. A head is TL, then OPC, NEG and PRED; a tail is written with its
halfwords in rising order of address (R260). -/

/-- The heads and tails of R288, R292, R302, R304 (K format) and R411. -/
theorem words_scalar :
    decode 0x4000 0x0000_2046 = .ok (.add g0 6 1 2) ∧
    decode 0xA4A0 0x0000_0000_0000_0001_0001 = .ok (.movi g0 1 1) ∧
    decode 0x4280 0x0358_5083 = .ok (.cmp g0 .ltz .z32 3 2 5) ∧
    decode 0x4500 0x0C80_2043 = .ok (.fadd g0 .f32 .chop 3 1 2) := by decide

/-- The BR of R411 to head 1 of the line before, and that of R279 with the guard (!p0). -/
theorem words_control :
    decode 0x4810 0x0FFF_FFFF = .ok (.br g0 1 0x7FF_FFFF) ∧ decode 0x4818 0x3000_0000 = .ok (.br g1 6 0) ∧
    decode 0x0800 0 = .ok (.nop g0) ∧ decode 0x4890 0x12345_000 = .ok (.trap g0 0x12345) := by decide

/-- The table of R342. -/
theorem words_memory_and_waits :
    decode 0x6C10 0x0000_08E0_0045 = .ok (.ldNc g0 ⟨8, .s64, .none, .core, .g, 1, 5⟩) ∧
    decode 0x6C90 0x0000_00E4_0189 = .ok (.ldfeFe g0 ⟨0, .s64, .acq, .core, .g, 6, 9⟩) ∧
    decode 0x6D00 0x000E_0000_2044 = .ok (.amo g0 .add ⟨0, .s64, .none, .core, .g, 4, 1, 2, 0⟩) ∧
    decode 0x7080 0x080E_0000_5042 = .ok (.waita g0 ⟨8, .s64, false, .g, 2, 1, 5⟩) ∧
    decode 0x2D80 0x2000 = .ok (.fenceAcq g0 .die) ∧
    decode 0x7100 0x0001_FA0C_5500 = .ok (.send g0 ⟨0, false, 31, true, .x, 20, 5, 3⟩) ∧
    decode 0x5090 0x0000_1003 = .ok (.waitc g0 false 3 0 1) ∧
    decode 0x5130 0x0000_0140 = .ok (.post g0 0 false 5) := by decide

/-- The table of R366. -/
theorem words_vector :
    decode 0x7800 0x0000_0020_1041 = .ok (.vld g0 ⟨0, .f32, .none, .core, .l, 1, 1⟩) ∧
    decode 0x7880 0x0000_0200_00C3 = .ok (.vbcast g0 { vop with d := 3, a := 3 }) ∧
    decode 0x74A0 0x0000_0000_4104 = .ok (.vxor g0 { vopT .raw with d := 4, a := 4, b := 4 }) ∧
    decode 0x7500 0x0010_0200_4041 = .ok (.vcmp g0 { vop with aux := 4, d := 1, a := 1, b := 4 }) ∧
    decode 0x7430 0x0000_1208_10C2 = .ok (.vfma g0 { vop with mask := 1, d := 2, a := 3, b := 1, c := 2 }) ∧
    decode 0x7920 0x0400_1200_0047 = .ok (.vtopk g0 { vop with imm8 := 8, mask := 1, d := 7, a := 1 }) ∧
    decode 0x7900 0x0000_0200_00C4 = .ok (.vred g0 { vop with d := 4, a := 3 }) ∧
    decode 0x7990 0x0000_0000_004C = .ok (.mget g0 { vopT .raw with d := 12, a := 1 }) := by decide

/-- The table of R395. -/
theorem words_engine :
    decode 0x9C00 0x0000_0000_0020_0040 = .ok (.enq g0 false 0 ⟨0, .l, .mat, 1⟩) ∧
    decode 0x9C00 0x0000_0000_0024_0380 = .ok (.enq g0 false 0 ⟨0, .l, .cpy, 14⟩) ∧
    decode 0x9C00 0x0000_0000_0124_0381 = .ok (.enq g0 true 1 ⟨0, .l, .cpy, 14⟩) ∧
    decode 0x5C20 0x0000_B00A = .ok (.deq g0 false 0 10 11) ∧ decode 0x3C30 0x1003 = .ok (.eqstat g0 .cpy 3) ∧
    decode 0x1C40 0 = .ok (.rfence g0) ∧ decode 0x3C50 0x0180 = .ok (.qmov g0 false 0 6) ∧
    decode 0x5C60 0x0000_0085 = .ok (.mstat g0 false 5 2) := by decide

/-- A head that reads 0x0000 carries ADD's opcode with TL 0, which is no assigned length (R279); codes an instruction
does not accept are refused by name. -/
theorem words_refused :
    decode 0x0000 0 = .ok (.unassignedOpcode g0 0 0) ∧ (decode 0x4280 0x0028_0000).toOption = none ∧
    decode 0xC000 0 = .ok (.unassignedOpcode g0 0 6) := by decide

/-! States -/

/-- The state after reset with core 0 changed. -/
def core0 (f : Core → Core) : State := State.reset.setCore 0 (f (.reset 0))

/-- A kernel header: 64 scalar and 32 vector registers, 16 accumulators, 512 barriers, the whole 896 KiB scratchpad. -/
def hdr : Header := ⟨0x1_0002, 64, 32, 16, 512, 0xE_0000, 0, 1, none, 3, 2⟩

/-- A task on core 0, of node 0 of graph 0. -/
def ctx : TaskCtx := ⟨0, 7, 5, 0, 0, 0, 1, hdr⟩

/-- A core runs the task. -/
def running (c : Core) : Core := { c with run := .running, mode := .task, task := some ctx, pc := 0x1_0002 }

/-- The state after reset with core 0 running the task, changed further. -/
def inTask (f : Core → Core) : State := core0 fun c => f (running c)

/-- The plain one. -/
abbrev st : State := inTask id

/-- Core 0 in handler mode with no task, changed further. -/
abbrev inHandler (f : Core → Core) : State := core0 fun c => f { c with run := .running, pc := 0x1_0002 }

/-- Scalar registers of a core set. -/
def withS (l : List (Nat × Word)) (c : Core) : Core := { c with regs := { c.regs with s := l } }

/-- The line that holds one NOP. -/
def nopLine : LineBits := oneHeadLine 0x0800

/-- A successful answer. -/
theorem ok_of {ε α : Type} {x : Except ε α} (h : x.toBool = true) : ∃ v, x = .ok v := by
  cases x with
  | ok v => exact ⟨v, rfl⟩
  | error e => cases h

/-- An error answer. -/
theorem error_of {ε α : Type} {x : Except ε α} (h : x.toBool = false) : ∃ v, x = .error v := by
  cases x with
  | ok v => cases h
  | error e => exact ⟨e, rfl⟩

/-- What an operation gives beside its state. -/
theorem state_of {α : Type} [DecidableEq α] {x : State × α} {a : α} (h : decide (x.2 = a) = true) : ∃ u, x = (u, a) :=
  ⟨x.1, by rw [← of_decide_eq_true h]⟩

theorem ready_st : st.Ready g0 [1, 2, 3, 63] [0, 31] := ⟨rfl, rfl, rfl⟩

theorem quiet_st : Quiet st := ⟨rfl, rfl, rfl, rfl⟩

/-! Encoding and decoding: what meets the hypotheses -/

theorem witness_DecodeOfEncode :
    encode (.add g0 63 1 2) = some (0x4000, 0x0000_207F) ∧ (Instr.add g0 63 1 2).wellFormed = true ∧
    encodable (.add g0 63 1 2) ∧
    encode (.unassignedOpcode g1 0 7) = some (0xE008, 0) ∧ encodable (.unassignedOpcode g1 0 7) :=
  ⟨by decide, by decide, trivial, by decide, by unfold encodable; decide⟩

theorem witness_EncodeOfDecode :
    0x4000 < 2 ^ 16 ∧ 0x207F < 2 ^ (16 * headTl 0x4000) ∧ tailLen (headOpc 0x4000) = some (headTl 0x4000) ∧
    decode 0x4000 0x207F = .ok (.add g0 63 1 2) := by decide

theorem witness_UnassignedHeadTraps : tailLen (headOpc 0) ≠ some (headTl 0) ∧
    tailLen (headOpc 0xFFFF) ≠ some (headTl 0xFFFF) := by
  decide

theorem witness_FalseGuardOnlyAdvances :
    checksOf (.exit g1) = some (g1, [], []) ∧ st.me.regs.guard g1 = false := by decide

/-- A header that declares four scalar and two vector registers: s4 and v2 are the first undeclared ones. -/
def small : State := inTask fun c => { c with task := some { ctx with hdr := { hdr with sregs := 4, vregs := 2 } } }

theorem witness_UndeclaredRegisterTraps :
    checksOf (.add g0 1 2 4) = some (g0, [1, 2, 4], []) ∧ small.me.regs.guard g0 = true ∧
    (small.me.declS [1, 2, 4] && small.me.declV []) = false ∧
    checksOf (.vbcast g0 { vop with d := 2, a := 3 }) = some (g0, [3], [2]) ∧
    (small.me.declS [3] && small.me.declV [2]) = false := by decide

/-! Scalar instructions -/

theorem witness_IntegerResults : st.Ready g0 [0, 63, 1] [] ∧ small.Ready g0 [3, 0, 2] [] := ⟨⟨rfl, rfl, rfl⟩, ⟨rfl, rfl, rfl⟩⟩

theorem witness_DivisionResults :
    ∃ s : State, s.Ready g0 [3, 1, 2] [] ∧ s.me.regs.rs 1 = BitVec.ofInt 64 (-2 ^ 63) ∧ s.me.regs.rs 2 = -1 :=
  ⟨inTask (withS [(1, BitVec.ofInt 64 (-2 ^ 63)), (2, -1)]), ⟨rfl, rfl, rfl⟩, by decide, by decide⟩

theorem witness_ImmediateAndExtensionResults :
    st.Ready g0 [3, 1, 2] [] ∧ st.Ready g0 [3, 1] [] ∧ (Instr.sext g0 .s32 3 1).wellFormed = true ∧
    (Instr.zext g0 .z8 3 1).wellFormed = true ∧ (Instr.shli g0 3 1 63).wellFormed = true :=
  ⟨⟨rfl, rfl, rfl⟩, ⟨rfl, rfl, rfl⟩, by decide, by decide, by decide⟩

theorem witness_ComparisonResults :
    st.Ready g0 [1, 2] [] ∧ (Instr.cmp g0 .gez .raw 7 1 2).wellFormed = true ∧
    (Instr.cmpi g0 .lez 7 1 0x80000).wellFormed = true ∧ (Instr.cmpiHi g0 .gez 0 1 2).wellFormed = true ∧
    st.Ready g0 [] [] ∧ st.Ready g0 [1] [] ∧ st.me.regs.guard ⟨false, 1⟩ = false ∧ st.me.regs.guard ⟨true, 1⟩ = true :=
  ⟨⟨rfl, rfl, rfl⟩, by decide, by decide, by decide, ⟨rfl, rfl, rfl⟩, ⟨rfl, rfl, rfl⟩, by decide, by decide⟩

theorem witness_FloatingResults : st.Ready g0 [3, 1, 2, 4] [] ∧ Ty.f32.isF32or64 = true ∧ Ty.f64.isF32or64 = true :=
  ⟨⟨rfl, rfl, rfl⟩, rfl, rfl⟩

/-- s1 holds an FP32 NaN, s2 and s3 the zeros. -/
def nans : State := inTask (withS [(1, 0x7FC0_0000), (2, 0x8000_0000)])

theorem witness_FloatingRules :
    nans.Ready g0 [4, 1, 2, 3] [] ∧ nans.Ready g0 [4, 2, 3] [] ∧ (val .f32 (nans.me.regs.rs 1).toNat).isNan = true ∧
    (val .f32 ((nans.me.regs.rs 2).toNat % 2 ^ 32)).isNan = false ∧
    (nans.me.regs.rs 2).toNat % 2 ^ 32 = 2 ^ 31 ∧ (nans.me.regs.rs 3).toNat % 2 ^ 32 = 0 :=
  ⟨⟨rfl, rfl, rfl⟩, ⟨rfl, rfl, rfl⟩, by decide, by decide, by decide, by decide⟩

theorem witness_ScalarFrame :
    st.Ready g0 [0, 1, 2, 3] [] ∧ (∃ t, exec (.add g0 0 1 2) st = .next t) ∧
    (Instr.cmp g0 .eq .s64 7 1 2).wellFormed = true ∧ (∃ t, exec (.cmp g0 .eq .s64 7 1 2) st = .next t) :=
  ⟨⟨rfl, rfl, rfl⟩, ⟨_, rfl⟩, by decide, ⟨_, rfl⟩⟩

/-! Exceptions -/

/-- Graph 0 with one kernel node running its task 0. -/
def grid (run : NodeRun) : Graph :=
  { num := 0, pkgs := [0], nodes := [⟨.kernel hdr 0 1, [], 0, 0⟩], craddr := 0x100, crn := 4, nsaddr := 0, crcaddr := 0x80
    page := 0, opening := 0, tag := 9, nextLaunch := 2, pending := 0
    launch := some ⟨1, [(0, { NodeSt.idle with run := run })], 1, 0, .running, false⟩, full := false, acks := [] }

/-- The task in the dispatcher's list, issued to core 0. -/
def task0 : Task := ⟨0, 0, 0, hdr, 7, some 5, 1, 0, .issued 0, [], false, 1, 1, false, false, none, none, [], none⟩

/-- A core changed in a state whose graph runs. -/
def inGrid (f : Core → Core) : State := { inTask f with graphs := [(0, grid .running)], tasks := [(0, task0)], fresh := 1 }

theorem witness_TrapEntryRules :
    (inGrid id).me.mode = .task ∧ (2 < 3 ∧ 0xFF < 256 ∧ 7 < 8) ∧
    (inGrid fun c => { c with mode := .handler }).me.mode = .handler ∧
    (inGrid fun c => { c with mode := .handler }).me.task = some ctx ∧
    find? (inGrid id).graphs ctx.graph = some (grid .running) ∧ (grid .running).launch ≠ none ∧
    find? [(0, { NodeSt.idle with run := .running })] ctx.node = some { NodeSt.idle with run := .running } := by decide

theorem witness_ReportRules :
    (∃ g l x, find? (inGrid id).graphs 0 = some g ∧ g.launch = some l ∧ find? l.nodes 0 = some x ∧ x.run ≠ .faulted) ∧
    (∃ g l x, find? [(0, grid .faulted)] 0 = some g ∧ g.launch = some l ∧ find? l.nodes 0 = some x ∧ x.run = .faulted) :=
  ⟨⟨_, _, _, rfl, rfl, rfl, by decide⟩, ⟨_, _, _, rfl, rfl, rfl, rfl⟩⟩

/-! Fetch and transfers -/

/-- Core 0 stands in a line it has entered. -/
def entered : State := { inHandler fun c => { c with fline := some (0x1_0000, nopLine) } with sched := [.core 0] }

theorem witness_StepRunsDecoded :
    entered.nextTurn = .core 0 ∧ (entered.core 0).run = .running ∧ (entered.core 0).member = none ∧
    (entered.core 0).mode = .handler ∧ (entered.core 0).loads = [] ∧
    (entered.core 0).fline = some (lineOf (entered.core 0).pc, nopLine) ∧
    decodeAt nopLine (headIx (entered.core 0).pc) = .ok (.nop g0) := by decide +kernel

theorem witness_StepRunsDecoded_entering :
    let s := State.reset.placeWord 0x0800
    s.nextTurn = .core 0 ∧ (s.core 0).run = .running ∧ (s.core 0).mode = .handler ∧ (s.core 0).fline = none ∧
    (s.core 0).loads = [] ∧ (∃ u, (s.begin_ 0).goOn.enterLine 0 = (u, .line nopLine)) :=
  ⟨by rfl, by rfl, by rfl, by rfl, by rfl, state_of (by decide +kernel)⟩

theorem witness_StepRunsDecoded_event :
    ({ State.reset with sched := [.event 0 .thermalReset] } : State).nextTurn = .event 0 .thermalReset ∧
    Instr.isStep .thermalReset = true ∧ Instr.isStep (.nop g0) = false ∧
    ({ State.reset with sched := [.event 0 (.nop g0)] } : State).nextTurn = .event 0 (.nop g0) := by decide

theorem witness_TargetChecks :
    st.me.fline = none ∧
    (inHandler fun c => { c with pc := 0x1_0003 }).me.pc.toNat % 2 = 1 ∧
    headIx (inHandler fun c => { c with pc := 0x1_0000 }).me.pc = 0 ∧
    st.me.loads = [] ∧
    (∃ u, (inHandler fun c => { c with pc := 0x100_0000_0000_0002 }).fetchLine 0 0x100_0000_0000_0000 = (u, .bad 0x25 .none)) ∧
    (∃ u, { st with late := true }.fetchLine 0 0x1_0000 = (u, .walks)) ∧
    (∃ u, (State.reset.placeWord 0x0800).fetchLine 0 0x1_0000 = (u, .line nopLine)) ∧
    lineLegal nopLine = true ∧ headIx 0x1_0002 ≤ lineN nopLine ∧ lineN nopLine < headIx 0x1_0004 ∧
    lineLegal (nopLine ||| 0x20) = false ∧
    (∃ i, decodeAt nopLine 1 = .ok i) ∧ (∃ e, decodeAt (oneHeadLine 0x0028_0000_4280) 1 = .error e) :=
  ⟨rfl, by decide, by decide, rfl, state_of (by decide +kernel), state_of (by decide +kernel), state_of (by decide +kernel),
    by decide +kernel, by decide +kernel, by decide +kernel, by decide +kernel, ok_of (by decide +kernel),
    error_of (by decide +kernel)⟩

theorem witness_TransferResults :
    st.Ready g0 [] [] ∧ st.Ready g0 [63] [] ∧ st.me.rasD ≠ 256 ∧ st.me.ras.length ≤ 16 ∧
    (inTask fun c => { c with rasD := 1 }).Ready g0 [] [] ∧ (inTask fun c => { c with rasD := 1 }).me.rasD ≠ 0 ∧
    (inTask fun c => { c with rasD := 1, ras := [0x2_0002] }).me.ras ≠ [] ∧
    (inTask fun c => { c with rasD := 1 }).rasBad 0 = false ∧
    (let s := inTask fun c => { c with rasD := 1 }
     { s with ue := [s.rasSlot 0 0] }.rasBad 0 = true ∧ { s with ue := [s.rasSlot 0 0] }.Ready g0 [] []) :=
  ⟨⟨rfl, rfl, rfl⟩, ⟨rfl, rfl, rfl⟩, by decide, by decide, ⟨rfl, rfl, rfl⟩, by decide, by decide, by decide +kernel,
    by decide +kernel, ⟨rfl, rfl, rfl⟩⟩

theorem witness_CallDepthFaults :
    (inTask fun c => { c with rasD := 256 }).Ready g0 [] [] ∧ (inTask fun c => { c with rasD := 256 }).me.rasD = 256 ∧
    st.Ready g0 [] [] ∧ st.me.rasD = 0 ∧
    (inTask fun c => { c with rasD := 255 }).Ready g0 [1] [] ∧ (inTask fun c => { c with rasD := 255 }).me.rasD ≠ 256 :=
  ⟨⟨rfl, rfl, rfl⟩, rfl, ⟨rfl, rfl, rfl⟩, rfl, ⟨rfl, rfl, rfl⟩, by decide⟩

theorem witness_LoopCounts :
    (inTask (withS [(1, 1)])).Ready g0 [1] [] ∧ (inTask (withS [(1, 1)])).me.regs.rs 1 = 1 ∧
    st.Ready g0 [1] [] ∧ st.me.regs.rs 1 = 0 ∧ st.Ready g0 [0] [] :=
  ⟨⟨rfl, rfl, rfl⟩, by decide, ⟨rfl, rfl, rfl⟩, by decide, ⟨rfl, rfl, rfl⟩⟩

/-! Modes and system registers -/

theorem witness_ModeRules :
    st.me.regs.guard g0 = true ∧ st.me.mode = .task ∧ (inHandler id).me.mode = .handler ∧
    (inHandler id).Ready g0 [] [] ∧ (inHandler id).me.preempt = false ∧ (inHandler id).me.asyncTrap = none ∧
    (inHandler fun c => { c with preempt := true }).Ready g0 [] [] ∧
    Quiet (inGrid id) ∧ (inGrid id).Ready g0 [] [] ∧ (inGrid id).me.mode = .task ∧ (inGrid id).commandsEnded 0 = true ∧
    (inGrid id).me.task = some ctx ∧
    (inGrid fun c => { c with eng := { c.eng with mat := [⟨0, 1, false, false, none, [], 0, []⟩] } }).commandsEnded 0 = false :=
  ⟨by decide, rfl, rfl, ⟨rfl, rfl, rfl⟩, rfl, rfl, ⟨rfl, rfl, rfl⟩, ⟨rfl, rfl, rfl, rfl⟩, ⟨rfl, rfl, rfl⟩, rfl,
    by decide +kernel, rfl,
    by decide +kernel⟩

theorem witness_SystemRegisterReads :
    st.Ready g0 [0] [] ∧ st.me.task = some ctx ∧ (inHandler id).Ready g0 [63] [] ∧ (inHandler id).me.task = none ∧
    (inHandler id).me.mode = .handler ∧ st.me.mode = .task := ⟨⟨rfl, rfl, rfl⟩, rfl, ⟨rfl, rfl, rfl⟩, rfl, rfl, rfl⟩

theorem witness_SystemRegisterWrites :
    (inTask (withS [(1, 4)])).Ready g0 [1] [] ∧ (inTask (withS [(1, 4)])).namesBank 0 13 = false ∧
    Quiet (inTask (withS [(1, 4)])) ∧ (inTask (withS [(1, 4)])).namedL 0 = false ∧
    ((inTask (withS [(1, 4)])).me.regs.rs 1).toNat % 32 ≠ (inTask (withS [(1, 4)])).me.spbanks ∧
    ((inTask (withS [(1, 3)])).me.regs.rs 1).toNat % 32 < 4 ∧ 14 < ((inTask (withS [(1, 15)])).me.regs.rs 1).toNat % 32 ∧
    ((inTask (withS [(1, 14)])).me.regs.rs 1).toNat % 32 = (inTask (withS [(1, 14)])).me.spbanks ∧
    (inHandler (withS [(1, 7)])).Ready g0 [1] [] ∧ ((inHandler (withS [(1, 7)])).me.regs.rs 1).getLsbD 2 = true ∧
    Quiet (inHandler (withS [(1, 7)])) ∧
    (inHandler (withS [(1, 7)])).tlbBusy 0 (((inHandler (withS [(1, 7)])).me.regs.rs 1).toNat % 4) = false :=
  ⟨⟨rfl, rfl, rfl⟩, by decide +kernel, ⟨rfl, rfl, rfl, rfl⟩, by decide +kernel, by decide, by decide, by decide, by decide,
    ⟨rfl, rfl, rfl⟩, by decide, ⟨rfl, rfl, rfl, rfl⟩, by decide +kernel⟩

/-! Memory -/

/-- Core 0 in a task with s1 at an address and s2, s3 data. -/
def at1 (a : Word) (x y : Word) : State := inTask (withS [(1, a), (2, x), (3, y)])

/-- Addresses at the ends of the spaces. -/
theorem witness_PlacesOfSpaces :
    (0 < 8 ∧ 0xD_FFF8 % 8 = 0) ∧ LocalOk st 0xD_FFF8 8 ∧
    (inHandler id).me.mode = .handler ∧ (2 ^ 20 ≤ 0x10_0000) ∧
    (0xE_0000 < 2 ^ 20 ∧ (inHandler id).me.spbanks * 0x1_0000 < 0xE_0000 + 8) ∧
    st.me.task = some ctx ∧ ctx.hdr.scratch < 0xE_0000 + 8 ∧ (2 ^ 26 ≤ 0x400_0000) ∧ (48 ≤ 0x300_0000 / 2 ^ 20) ∧
    (0x2FF_FFF8 < 2 ^ 26 ∧ 0x2FF_FFF8 / 2 ^ 20 < 48) ∧ (inHandler id).me.node = none ∧
    (0x2F0_0000 % 2 ^ 20 + 8 ≤ ((inHandler id).core 47).spbanks * 0x1_0000) ∧
    2 ^ 31 < 0x8000_0000 + 8 ∧ 0x7FFF_FFF8 + 8 ≤ 2 ^ 31 ∧ canonical 0x100_0000_0000_0000 = false ∧
    (∃ u, (State.reset.placeWord 0x0800).translate ((State.reset.placeWord 0x0800).who 0) .r 0x1_0000 =
      (u, .at_ 0x1_0000 ⟨0x1000, 0, 13, 0, true, true, true, true, false, false, false⟩)) ∧
    (∃ u, { st with late := true }.translate (st.who 0) .r 0x1_0000 = (u, .walks)) ∧
    (∃ u, st.translate (st.who 0) .r 0x100_0000_0000_0000 = (u, .bad 0x25 .none)) :=
  ⟨by decide, ⟨by decide, by decide, by decide, fun _ x h => by cases h; decide, by decide +kernel⟩, rfl, by decide,
    by decide, rfl,
    by decide, by decide, by decide, by decide, rfl, by decide +kernel, by decide, by decide, by decide,
    state_of (by decide +kernel), state_of (by decide +kernel), state_of (by decide +kernel)⟩

theorem witness_MisalignedAccessTraps :
    (at1 1 0 0).Ready g0 [mop.base, mop.d] [] ∧ (at1 1 0 0).me.wait = .none ∧
    (memEa mop (at1 1 0 0).me.regs).toNat % mop.ty.size ≠ 0 ∧
    (at1 0xD_FFF1 0 0).Ready g0 [mop.base, mop.d] [] ∧
    (∀ x, (at1 0xD_FFF1 0 0).me.task = some x → (memEa { mop with space := .l } (at1 0xD_FFF1 0 0).me.regs).toNat + 8 ≤ x.hdr.scratch) ∧
    (at1 1 0 0).Ready g0 [aop.d, aop.a, aop.b, aop.c] [] ∧ (atomEa aop (at1 1 0 0).me.regs).toNat % aop.ty.size ≠ 0 :=
  ⟨⟨rfl, rfl, rfl⟩, rfl, by decide, ⟨rfl, rfl, rfl⟩, fun x h => by cases h; decide, ⟨rfl, rfl, rfl⟩, by decide⟩

theorem witness_ScratchpadLoads :
    (at1 0xD_FFF8 0 0).Ready g0 [mop.base, mop.d] [] ∧ Quiet (at1 0xD_FFF8 0 0) ∧
    LocalOk (at1 0xD_FFF8 0 0) (memEa mop (at1 0xD_FFF8 0 0).me.regs) mop.ty.size ∧
    (let s := inHandler (withS [(1, 0x2F0_0008)])
     s.Ready g0 [mop.base, mop.d] [] ∧ Quiet s ∧
     checkAccess .x .r false (memEa { mop with space := .x } s.me.regs) 8 s = .ok (.peer 47 8, s) ∧
     s.bad (s.windowPa 47 8) 8 = false) :=
  ⟨⟨rfl, rfl, rfl⟩, ⟨rfl, rfl, rfl, rfl⟩,
    ⟨by decide +kernel, by decide +kernel, by decide +kernel, fun _ x h => by cases h; decide, by decide +kernel⟩,
    ⟨rfl, rfl, rfl⟩, ⟨rfl, rfl, rfl, rfl⟩, by decide +kernel, by decide +kernel⟩

/-- The place that an access names. -/
def places (x : Except Exit (Place × State)) (p : Place) : Bool :=
  match x with
  | .ok (q, _) => q == p
  | _ => false

theorem places_of {x : Except Exit (Place × State)} {p : Place} (h : places x p = true) : ∃ u, x = .ok (p, u) := by
  match x, h with
  | .ok (q, u), h => exact ⟨u, by rw [show q = p from by simpa [places] using h]⟩
  | .error _, h => cases h

/-- A page of 2^38 bytes at virtual address 0, of memory or of storage window 1. -/
def leaf (foreign : Bool) : Leaf :=
  ⟨0, 0, 13, if foreign then 2 ^ 48 else 0, true, true, true, true, false, foreign, false⟩

/-- Core 0 in handler mode with the page in its TLB, s1 an address and s2, s3 data. -/
def paged (foreign : Bool) (a x y : Word) : State :=
  inHandler fun c => withS [(1, a), (2, x), (3, y)] { c with tlb := [leaf foreign] }

/-- A scalar and a vector access at home of s1. -/
def hop (z : BitVec 3) : HomeOp := ⟨0, z, .none, .core, 1, 2⟩

theorem witness_HomeLoads :
    (at1 0x1000 0 0).Ready g0 [mop.base, mop.d] [] ∧ Quiet (at1 0x1000 0 0) ∧
    checkAccess .v .r false (memEa mop (at1 0x1000 0 0).me.regs) 8 (at1 0x1000 0 0) =
      .ok (.mem 0x100_0000_1000 false, at1 0x1000 0 0) ∧
    (∃ bs, (at1 0x1000 0 0).homeRead ((at1 0x1000 0 0).who 0) .load 0x100_0000_1000 8 = .ok bs) ∧
    0x100_0000_1038 % 64 + 8 ≤ 64 ∧ (at1 0x1000 0 0).cacheHit 0 (0x100_0000_1000 / 64) false = none ∧
    (at1 0x1000 0 0).cacheHit 0 (0x100_0000_1000 / 64) true = none ∧
    (paged true 8 0 0).Ready g0 [mop.base, mop.d] [] ∧ Quiet (paged true 8 0 0) ∧
    (∃ u, checkAccess .g .r false (memEa { mop with space := .g } (paged true 8 0 0).me.regs) 8 (paged true 8 0 0) =
      .ok (.foreign 1 8 false, u)) ∧
    (paged false 8 0 0).Ready g0 (regsHome (hop 0)).1 (regsHome (hop 0)).2 ∧
    (paged false 256 0 0).Ready g0 (regsHome (hop 5)).1 (regsHome (hop 5)).2 ∧
    (∃ u, checkAccess .g .r false (homeEa (hop 5) (paged false 256 0 0).me.regs) (sizeHome (hop 5)) (paged false 256 0 0) =
      .ok (.mem 256 false, u)) ∧
    (∃ bs, (paged false 256 0 0).homeRead ((paged false 256 0 0).who 0) .load 256 256 = .ok bs) :=
  ⟨⟨rfl, rfl, rfl⟩, ⟨rfl, rfl, rfl, rfl⟩, by decide +kernel, ok_of (by decide +kernel), by decide, by decide +kernel,
    by decide +kernel,
    ⟨rfl, rfl, rfl⟩, ⟨rfl, rfl, rfl, rfl⟩, places_of (by decide +kernel), ⟨rfl, rfl, rfl⟩, ⟨rfl, rfl, rfl⟩,
    places_of (by decide +kernel),
    ok_of (by decide +kernel)⟩

theorem witness_ScratchpadStores :
    (at1 0xD_FFF8 7 0).Ready g0 [mop.base, mop.d] [] ∧ Quiet (at1 0xD_FFF8 7 0) ∧ (at1 0xD_FFF8 7 0).me.wait = .none ∧
    LocalOk (at1 0xD_FFF8 7 0) (memEa { mop with space := .l } (at1 0xD_FFF8 7 0).me.regs) 8 :=
  ⟨⟨rfl, rfl, rfl⟩, ⟨rfl, rfl, rfl, rfl⟩, rfl,
    ⟨by decide +kernel, by decide +kernel, by decide +kernel, fun _ x h => by cases h; decide, by decide +kernel⟩⟩

theorem witness_BufferedStores :
    (at1 0x1038 7 0).Ready g0 [mop.base, mop.d] [] ∧ (at1 0x1038 7 0).me.wait = .none ∧ Quiet (at1 0x1038 7 0) ∧
    checkAccess .v .w true (memEa mop (at1 0x1038 7 0).me.regs) 8 (at1 0x1038 7 0) =
      .ok (.mem 0x100_0000_1038 false, at1 0x1038 7 0) ∧
    0x100_0000_1038 % 64 + 8 ≤ 64 ∧ (at1 0x1038 7 0).me.sbuf = [] ∧
    0x100_0000_1038 / 2 ^ 44 = (at1 0x1038 7 0).idOf 0 ∧
    ((at1 0x1038 7 0).answer ((at1 0x1038 7 0).who 0) .store 0x100_0000_1038 1).1 = 0 ∧
    0x100_0000_1038 % 2 ^ 44 < 0x300_0000_0000 ∧
    (paged false 256 9 0).Ready g0 (regsHome (hop 0)).1 (regsHome (hop 0)).2 ∧ (paged false 256 9 0).me.wait = .none ∧
    Quiet (paged false 256 9 0) ∧
    (∃ u, checkAccess .g .w true (homeEa (hop 0) (paged false 256 9 0).me.regs) 8 (paged false 256 9 0) = .ok (.mem 256 false, u)) ∧
    (∃ u, checkAccess .x .w true (memEa { mop with space := .x } (at1 0x10_0008 7 0).me.regs) 8 (at1 0x10_0008 7 0) =
      .ok (.peer 1 8, u)) ∧
    (∃ u, checkAccess .g .w true (memEa { mop with space := .g } (paged true 8 9 0).me.regs) 8 (paged true 8 9 0) =
      .ok (.foreign 1 8 false, u)) :=
  ⟨⟨rfl, rfl, rfl⟩, rfl, ⟨rfl, rfl, rfl, rfl⟩, by decide +kernel, by decide, rfl, by decide +kernel, by decide +kernel, by decide,
    ⟨rfl, rfl, rfl⟩, rfl, ⟨rfl, rfl, rfl, rfl⟩, places_of (by decide +kernel), places_of (by decide +kernel),
    places_of (by decide +kernel)⟩

/-- A word of space V at its home. -/
theorem home_st (need : Need) : HomeOk (at1 0x1000 7 0) (at1 0x1000 7 0) .v need 0x1000 8 0x100_0000_1000 :=
  ⟨⟨.mem 0x100_0000_1000 false, by cases need <;> decide +kernel, by decide +kernel⟩, by decide⟩

theorem witness_FullEmptyResults :
    (at1 0x1000 7 0).Ready g0 [mop.base, mop.d] [] ∧ Quiet (at1 0x1000 7 0) ∧ (at1 0x1000 7 0).me.wait = .none ∧
    (at1 0x1000 7 0).feWait = [] ∧ memEa mop (at1 0x1000 7 0).me.regs = 0x1000 ∧
    HomeOk (at1 0x1000 7 0) (at1 0x1000 7 0) .v .r 0x1000 8 0x100_0000_1000 ∧
    (feRow .ff (has (at1 0x1000 7 0).fe (0x100_0000_1000 / 8))).1 = false ∧
    (feRow .ef (has (at1 0x1000 7 0).fe (0x100_0000_1000 / 8))).1 = true :=
  ⟨⟨rfl, rfl, rfl⟩, ⟨rfl, rfl, rfl, rfl⟩, rfl, rfl, by decide, home_st .r, by decide +kernel, by decide +kernel⟩

theorem witness_FullEmptyResults_full :
    let s : State := { at1 0x1000 7 0 with fe := [0x100_0000_1000 / 8] }
    HomeOk s s .v .rw 0x1000 8 0x100_0000_1000 ∧ (feRow .fe (has s.fe (0x100_0000_1000 / 8))).1 = true ∧
    (feRow .ef (has s.fe (0x100_0000_1000 / 8))).1 = false :=
  ⟨⟨⟨.mem 0x100_0000_1000 false, by decide +kernel, by decide +kernel⟩, by decide⟩, by decide +kernel, by decide +kernel⟩

theorem witness_AtomicResults :
    (at1 0x1000 7 0).Ready g0 [2, 1, 3, 0] [] ∧ (at1 0x1000 7 0).Ready g0 [2, 1, 3] [] ∧ Quiet (at1 0x1000 7 0) ∧
    (at1 0x1000 7 0).me.wait = .none ∧ atomEa aop (at1 0x1000 7 0).me.regs = 0x1000 ∧
    HomeOk (at1 0x1000 7 0) (at1 0x1000 7 0) .v .rw 0x1000 8 0x100_0000_1000 :=
  ⟨⟨rfl, rfl, rfl⟩, ⟨rfl, rfl, rfl⟩, ⟨rfl, rfl, rfl, rfl⟩, rfl, by decide, home_st .rw⟩

theorem witness_WaitResults :
    (at1 0x1000 7 0).Ready g0 [1, 2] [] ∧ Quiet (at1 0x1000 7 0) ∧
    HomeOk (at1 0x1000 7 0) (at1 0x1000 7 0) .v .r 0x1000 8 0x100_0000_1000 ∧ (at1 0x1000 7 0).me.wait = .none ∧
    (at1 0x1000 7 0).num 0x100_0000_1000 8 ≠ ((at1 0x1000 7 0).me.regs.rs 2).toNat % 2 ^ 64 ∧
    (at1 0x1000 7 0).num 0x100_0000_1000 8 = ((at1 0x1000 7 0).me.regs.rs 3).toNat % 2 ^ 64 ∧
    (let w := (upFrom 100 16).map fun k => (0x100_0000_1000 / 64, k)
     ({ at1 0x1000 7 0 with watch := w }.watch.filter fun x : Nat × Nat => x.1 = 0x100_0000_1000 / 64).length = 16) ∧
    (inTask fun c => { c with wait := .watch true }).me.wait = .watch true ∧
    Quiet (inTask fun c => { c with wait := .watch true }) :=
  ⟨⟨rfl, rfl, rfl⟩, ⟨rfl, rfl, rfl, rfl⟩, home_st .r, rfl, by decide +kernel, by decide +kernel, by decide +kernel, rfl,
    ⟨rfl, rfl, rfl, rfl⟩⟩

/-- A parity group record of this package, whole or degraded. -/
def group (state : Nat) : ParityGroup := ⟨1, 2, state, 0, 0, 0, 2 ^ 30, [0, 5, 6], if state = 0 then [] else [5], [], none⟩

/-- The package has joined its group. -/
def joined (state : Nat) (s : State) : State := s.modPkg 0 fun p => { p with parity := some (group state), joined := true }

theorem witness_OrderingResults :
    st.Ready g0 [] [] ∧ Quiet st ∧ st.degraded 0 = false ∧ st.me.prot = 0 ∧ (joined 1 st).degraded 0 = true ∧
    Quiet (joined 1 st) ∧
    (at1 0 0 0).Ready g0 [1] [] ∧ (at1 0 0 0).Ready g0 [1, 2] [] ∧ (at1 0 0 0).me.regs.rs 2 = 0 ∧ (at1 0 0 0).me.dcache = [] :=
  ⟨⟨rfl, rfl, rfl⟩, ⟨rfl, rfl, rfl, rfl⟩, by decide +kernel, rfl, by decide +kernel, ⟨rfl, rfl, rfl, rfl⟩, ⟨rfl, rfl, rfl⟩,
    ⟨rfl, rfl, rfl⟩,
    by decide, rfl⟩

/-! Event unit, supersteps, messages -/

/-- Cluster 0 changed. -/
def unit0 (s : State) (f : Cluster → Cluster) : State := s.modCluster 0 f

/-- Barrier name 511, mutex 63, event line 255. -/
theorem witness_EventOk :
    EventOk st 511 0 ∧ EventOk st (0x40_0000 + 63) 1 ∧ EventOk st (0x80_0000 + 255) 2 :=
  ⟨⟨by decide, by decide, by decide, by decide, fun _ _ x h => by cases h; decide⟩,
    ⟨by decide, by decide, by decide, by decide, fun h => by cases h⟩,
    ⟨by decide, by decide, by decide, by decide, fun h => by cases h⟩⟩

theorem witness_BarrierResults :
    let s := at1 511 2 65536
    s.Ready g0 [1, 2] [] ∧ s.Ready g0 [1] [] ∧ Quiet s ∧ EventOk s (s.me.regs.rs 1) 0 ∧
    (s.me.regs.rs 0).toNat = 0 ∧ 65536 ≤ (s.me.regs.rs 3).toNat ∧ ((s.cluster 0).entry 511).arr = 0 ∧
    (let e := (unit0 s fun c => { c with entries := [(511, ⟨1, 3, 0⟩)] }).cluster 0
     (e.entry 511).arr ≠ 0 ∧ (s.me.regs.rs 2).toNat ≠ (e.entry 511).exp) ∧
    find? s.me.join 511 = none ∧ s.me.wait = .none ∧
    (arrivedAt ⟨1, 2, 0⟩ 2).arr = 0 ∧ (arrivedAt ⟨0, 0, 0⟩ 2).arr ≠ 0 ∧
    find? (inTask fun c => { c with join := [(511, 0)] }).me.join 511 = some ((s.cluster 0).entry 511).gen ∧
    find? (inTask fun c => { c with join := [(511, 1)] }).me.join 511 = some 1 :=
  ⟨⟨rfl, rfl, rfl⟩, ⟨rfl, rfl, rfl⟩, ⟨rfl, rfl, rfl, rfl⟩,
    ⟨by decide, by decide, by decide, by decide, fun _ _ x h => by cases h; decide⟩,
    by decide, by decide, by decide, by decide, by decide, rfl, by decide, by decide, by decide, by decide⟩

theorem witness_EventAndMutexResults :
    let s := at1 (0x80_0000 + 255) 0 0
    let m := at1 (0x40_0000 + 63) 0 0
    let w := unit0 s fun c => { c with eventWait := [(255, 5)] }
    s.Ready g0 [2, 1] [] ∧ s.Ready g0 [1] [] ∧ Quiet s ∧ s.me.wait = .none ∧ EventOk s (s.me.regs.rs 1) 2 ∧
    look (s.cluster 0).events 0 255 = 0 ∧ (s.cluster 0).eventWait = [] ∧
    look ((unit0 s fun c => { c with events := [(255, 255)] }).cluster 0).events 0 255 = 255 ∧
    (w.cluster 0).eventWait = [(255, 5)] ∧
    EventOk m (m.me.regs.rs 1) 1 ∧ find? (m.cluster 0).mutexes 63 = none ∧ m.me.ctx = 1 ∧
    find? ((unit0 m fun c => { c with mutexes := [(63, 1)] }).cluster 0).mutexes 63 = some 1 ∧
    find? ((unit0 m fun c => { c with mutexes := [(63, 2)] }).cluster 0).mutexes 63 = some 2 ∧
    ((unit0 m fun c => { c with mutexes := [(63, 1)], mutexWait := [(63, 5)] }).cluster 0).mutexWait = [(63, 5)] ∧
    find? (at1 511 0 0).me.join 511 = none :=
  ⟨⟨rfl, rfl, rfl⟩, ⟨rfl, rfl, rfl⟩, ⟨rfl, rfl, rfl, rfl⟩, rfl, ⟨by decide, by decide, by decide, by decide, fun h => by cases h⟩,
    by decide, by decide, by decide, by decide, ⟨by decide, by decide, by decide, by decide, fun h => by cases h⟩,
    by decide, by decide, by decide, by decide, by decide, by decide⟩

/-- A member of the domain that has not come, and one that has. -/
theorem witness_SuperstepAndCounterResults :
    let s := inGrid id
    let two : State := { s with tasks := [(0, task0), (1, { task0 with taskid := 8, phase := .issued 1 })],
                                cores := s.cores ++ [(1, { running (.reset 1) with task := some { ctx with id := 1 } })] }
    s.Ready g0 [] [] ∧ Quiet s ∧ s.me.task = some ctx ∧ s.stepOf 0 = none ∧ s.members ctx 1 s.me.domreg = [] ∧
    two.members ctx 1 two.me.domreg = [1] ∧ two.steps = [] ∧ (inHandler id).me.task = none ∧
    ((0 - 0 - 0 : Int) % 2 ^ 32 < 2 ^ 31) ∧ (2 ^ 31 ≤ (0 - 0 - 1 : Int) % 2 ^ 32) := by
  refine ⟨⟨rfl, rfl, rfl⟩, ⟨rfl, rfl, rfl, rfl⟩, rfl, ?_, ?_, ?_, rfl, rfl, ?_, ?_⟩ <;> decide +kernel

/-- A gang of two members: two instances of role 1 send 8-byte messages to one of role 2 over pipe 0, whose ring has two
places at 0x100, with one overflow place. -/
def gangNode : Node := ⟨.gang [{ hdr with pipes := 1 }, { hdr with pipes := 1 }] [2, 1] [⟨0, 8, 1, 2, 2, 0x100, 1⟩], [], 0, 0⟩

/-- Core 0 runs a task of the gang's role, core 1 the receiver; `n` messages are held. -/
def inGang (role n : Nat) : State :=
  let s := inTask fun c => { c with task := some { ctx with role := role, id := role - 1, taskid := 0, hdr := { hdr with pipes := 1 } } }
  { s with
    graphs := [(0, { grid .running with nodes := [gangNode] })]
    tasks := [(0, { task0 with role := 1, taskid := 0 }), (1, { task0 with role := 2, taskid := 0, phase := .issued 1 })]
    rings := [⟨1, 0, 0, n, [], 0⟩], fresh := 2 }

/-- The answer of pipeOf. -/
def pipeIs (s : State) (n : Nat) : Bool :=
  match pipeOf n s with
  | .ok (_, _) => true
  | .error _ => false

theorem witness_MessageResults :
    Quiet st ∧ st.Ready g0 [1, 2] [] ∧ (at1 4 0 0).me.regs.rs 1 = 4 ∧
    (0x2FF_FFF8 % 8 = 0 ∧ 0x2FF_FFF8 < 2 ^ 26 ∧ 0x2FF_FFF8 / 2 ^ 20 < 48) ∧
    (∃ v, sendTarget .x 0x10_0008 8 (at1 0x10_0008 0 0) = .ok v) ∧
    Quiet (inGang 1 0) ∧ (inGang 1 0).Ready g0 [0] [5] ∧
    (∃ x, pipeOf 0 (inGang 1 0) = .ok ((x, ⟨0, 8, 1, 2, 2, 0x100, 1⟩), inGang 1 0) ∧ x.role = 1 ∧ (x.graph, x.node) = (0, 0)) ∧
    ((inGang 1 0).me.regs.rs 0).toNat < ((((inGang 1 0).node (0, 0)).map Node.counts).getD []).getD (2 - 1) 0 ∧
    (∃ t, (inGang 1 0).instanceOf (0, 0) 2 0 = some (1, t) ∧ t.place = some 1) ∧
    ((inGang 1 2).ring 1 0).count + ((inGang 1 2).ring 1 0).ovr.length + ((inGang 1 2).ring 1 0).fly < 2 + 1 ∧
    (∃ x, pipeOf 0 (inGang 2 1) = .ok ((x, ⟨0, 8, 1, 2, 2, 0x100, 1⟩), inGang 2 1) ∧ x.role = 2 ∧ x.id = 1) ∧
    0 < ((inGang 2 1).ring 1 0).count ∧ (inGang 2 1).bad ((inGang 2 1).windowPa 0 0x100) 8 = false ∧
    ((inGang 2 0).ring 1 0).count = 0 ∧ (inGang 2 0).pipeClosed (0, 0) ⟨0, 8, 1, 2, 2, 0x100, 1⟩ = false ∧
    ({ inGang 2 0 with tasks := [(1, { task0 with role := 2 })] } : State).pipeClosed (0, 0) ⟨0, 8, 1, 2, 2, 0x100, 1⟩ = true :=
  ⟨⟨rfl, rfl, rfl, rfl⟩, ⟨rfl, rfl, rfl⟩, by decide, by decide, ok_of (by decide +kernel), ⟨rfl, rfl, rfl, rfl⟩, ⟨rfl, rfl, rfl⟩,
    ⟨_, rfl, rfl, rfl⟩, by decide +kernel, ⟨_, rfl, rfl⟩, by decide +kernel, ⟨_, rfl, rfl, rfl⟩, by decide +kernel,
    by decide +kernel,
    by decide +kernel, by decide +kernel, by decide +kernel⟩

/-- A space of 8 elements, and the node whose kernel works in it. -/
def spaced (a : Word) : State :=
  let h := { hdr with space := some 3 }
  let s := inTask fun c => withS [(1, a)] { c with task := some { ctx with hdr := h } }
  { (s.modPkg 0 fun p => { p with spaces := [(3, ⟨8, 0x1000, 0x2000, 0x3000, 0⟩)] }) with
    graphs := [(0, { grid .running with nodes := [⟨.kernel h 0 1, [], 0, 0⟩] })], tasks := [(0, task0)], fresh := 1 }

theorem witness_PostQueuesATask :
    st.Ready g0 [1] [] ∧ Quiet st ∧ (inHandler id).Ready g0 [1] [] ∧ Quiet (inHandler id) ∧ (inHandler id).me.task = none ∧
    (spaced 7).Ready g0 [1] [] ∧ Quiet (spaced 7) ∧
    (∃ x n h, (spaced 7).me.task = some x ∧ (spaced 7).node (x.graph, x.node) = some n ∧ n.header x.role = some h ∧
      h.space = some 3 ∧ (spaced 7).nelem (graphPkg x.graph) h = some 8) ∧
    (spaced 7).queueFull (coreCluster 0) = false ∧ ((spaced 7).me.regs.rs 1).toNat < 8 ∧ ¬ ((spaced 8).me.regs.rs 1).toNat < 8 ∧
    (spaced 7).launchOf 0 ≠ none :=
  ⟨⟨rfl, rfl, rfl⟩, ⟨rfl, rfl, rfl, rfl⟩, ⟨rfl, rfl, rfl⟩, ⟨rfl, rfl, rfl, rfl⟩, rfl, ⟨rfl, rfl, rfl⟩, ⟨rfl, rfl, rfl, rfl⟩,
    ⟨_, _, _, rfl, rfl, rfl, rfl, rfl⟩, by decide +kernel, by decide +kernel, by decide +kernel, by decide +kernel⟩

/-- A member of harness 0. -/
def member (rank : Nat) (attached : Bool) : Member := ⟨0, rank, attached, [], [], false, true, 0x1_0002⟩

/-- Cores 0 and 1 in harness 0. -/
def harnessed (m0 m1 : Member) (w1 : Wait) : State :=
  { (core0 fun c => running { c with member := some m0 }).setCore 1 { running (.reset 1) with member := some m1, wait := w1 } with
    harnesses := [(0, ⟨[0, 1], []⟩)] }

theorem witness_HarnessResults :
    (at1 511 1 0).Ready g0 [4, 1, 2] [] ∧ Quiet (at1 511 1 0) ∧ (at1 511 1 0).me.wait = .none ∧ (at1 511 1 0).me.member = none ∧
    EventOk (at1 511 1 0) ((at1 511 1 0).me.regs.rs 1) 0 ∧ ((at1 511 1 0).me.regs.rs 2).toNat = 1 ∧
    (((at1 511 1 0).cluster 0).entry 511).arr = 0 ∧ ((at1 511 1 0).cluster 0).harns = [] ∧
    (let s := unit0 (inHandler (withS [(1, 0), (2, 2)])) fun c => { c with entries := [(0, ⟨1, 2, 0⟩)], harns := [⟨0, 1, none, 0⟩] }
     s.Ready g0 [4, 1, 2] [] ∧ Quiet s ∧ EventOk s (s.me.regs.rs 1) 0 ∧ ((s.cluster 0).entry 0).arr = 1 ∧
     ((s.cluster 0).entry 0).exp = 2 ∧ (s.cluster 0).harns = [⟨0, 1, none, 0⟩] ∧ coreIndex 0 < coreIndex 1 ∧ s.me.task = none) ∧
    (harnessed (member 1 true) (member 0 false) .none).Ready g0 [] [] ∧
    (harnessed (member 0 false) (member 1 true) .none).mates 0 = [1] ∧
    ((harnessed (member 0 false) (member 1 true) .none).core 1).member = some (member 1 true) ∧
    ((harnessed (member 0 false) (member 1 false) (.rejoin 0x1_0002 false)).core 1).wait =
      .rejoin (harnessed (member 0 false) (member 1 false) (.rejoin 0x1_0002 false)).me.pc false :=
  ⟨⟨rfl, rfl, rfl⟩, ⟨rfl, rfl, rfl, rfl⟩, rfl, rfl, ⟨by decide, by decide, by decide, by decide, fun _ _ x h => by cases h; decide⟩,
    by decide, by decide, by decide,
    ⟨⟨rfl, rfl, rfl⟩, ⟨rfl, rfl, rfl, rfl⟩, ⟨by decide, by decide, by decide, by decide, fun _ h => by cases h⟩, by decide,
      by decide,
      by decide, by decide, rfl⟩,
    ⟨rfl, rfl, rfl⟩, by decide +kernel, by decide +kernel, by decide +kernel⟩

/-! Vectors -/

/-- An instruction whose guard is true and whose registers are declared. -/
theorem readyFor {s : State} {i : Instr} {g : Guard} {ss vs : List Reg} (h : checksOf i = some (g, ss, vs))
    (r : s.Ready g ss vs) : s.ReadyFor i := ⟨g, ss, vs, h, r⟩

theorem witness_VectorLaneResults :
    (∀ i ∈ [Instr.vadd g0 { vopT .s8 with flag := true }, .vsub g0 vop, .vmul g0 vop, .vfma g0 { vop with c := 31, rm := .up },
      .vmin g0 vop, .vmax g0 (vopT .z64), .vabs g0 (vopT .f16), .vand g0 (vopT .raw), .vor g0 (vopT .raw), .vxor g0 (vopT .s16),
      .vshl g0 { vopT .s32 with flag := true, imm8 := 31 }, .vshr g0 (vopT .z8), .vsra g0 (vopT .s8), .vrcp g0 vop, .vrsq g0 vop,
      .vexp2 g0 vop, .vlog2 g0 (vopT .bf16), .vclmul g0 { vopT .s64 with flag := true }, .vpopc g0 (vopT .z16), .vbcast g0 vop,
      .vperm g0 vop, .vslide g0 { vop with imm8 := 63 }], i.wellFormed = true) ∧
    st.ReadyFor (.vadd g0 vop) ∧ st.ReadyFor (.vfma g0 { vop with c := 31, rm := .up }) ∧ st.ReadyFor (.vabs g0 (vopT .f16)) ∧
    st.ReadyFor (.vshl g0 { vopT .s32 with flag := true, imm8 := 31 }) ∧ st.ReadyFor (.vbcast g0 vop) :=
  ⟨by decide, readyFor rfl ⟨rfl, rfl, rfl⟩, readyFor rfl ⟨rfl, rfl, rfl⟩, readyFor rfl ⟨rfl, rfl, rfl⟩,
    readyFor rfl ⟨rfl, rfl, rfl⟩,
    readyFor rfl ⟨rfl, rfl, rfl⟩⟩

theorem witness_VectorCrossResults :
    (∀ i ∈ [Instr.vcmp g0 { vop with aux := 10 }, .vsel g0 { vop with mask := 1 }, .vcvt g0 { vop with aux := 4, imm8 := 1 },
      .vcvt g0 { vopT .e4m3 with aux := 1, imm8 := 7, rm := .chop }, .vcomp g0 { vop with c := 5 }, .vexpd g0 vop,
      .vred g0 { vopT .s8 with aux := 5 }, .vscan g0 { vop with aux := 2 }, .vtopk g0 { vop with imm8 := 64 }],
      i.wellFormed = true) ∧
    Cond.ofCode 10 = some .un ∧ st.ReadyFor (.vcmp g0 { vop with aux := 10 }) ∧ st.ReadyFor (.vsel g0 { vop with mask := 1 }) ∧
    st.ReadyFor (.vcvt g0 { vop with aux := 4, imm8 := 1 }) ∧ st.ReadyFor (.vcomp g0 { vop with c := 5 }) ∧
    st.ReadyFor (.vred g0 { vopT .s8 with aux := 5 }) ∧ st.ReadyFor (.vtopk g0 { vop with imm8 := 64 }) :=
  ⟨by decide, by decide, readyFor rfl ⟨rfl, rfl, rfl⟩, readyFor rfl ⟨rfl, rfl, rfl⟩, readyFor rfl ⟨rfl, rfl, rfl⟩,
    readyFor rfl ⟨rfl, rfl, rfl⟩, readyFor rfl ⟨rfl, rfl, rfl⟩, readyFor rfl ⟨rfl, rfl, rfl⟩⟩

theorem witness_VectorMoveAndMaskResults :
    (∀ i ∈ [Instr.vmovs g0 { vop with d := 3, b := 1, imm8 := 63 }, .vmovs g0 { vop with flag := true, b := 1, imm8 := 64 },
      .mlog g0 { vopT .raw with aux := 8 }, .mget g0 { vopT .raw with imm8 := 3 }, .mset g0 { vopT .raw with d := 1, imm8 := 3 }],
      i.wellFormed = true) ∧
    st.ReadyFor (.vmovs g0 { vop with d := 3, b := 1, imm8 := 63 }) ∧
    st.ReadyFor (.vmovs g0 { vop with flag := true, b := 1, imm8 := 64 }) ∧
    (st.me.regs.rs 1 + BitVec.ofNat 64 63).toNat < 2048 / 32 ∧ 2048 / 32 ≤ (st.me.regs.rs 1 + BitVec.ofNat 64 64).toNat ∧
    st.ReadyFor (.mlog g0 { vopT .raw with aux := 8 }) ∧ st.ReadyFor (.mget g0 { vopT .raw with imm8 := 3 }) ∧
    st.ReadyFor (.mset g0 { vopT .raw with d := 1, imm8 := 3 }) :=
  ⟨by decide, readyFor rfl ⟨rfl, rfl, rfl⟩, readyFor rfl ⟨rfl, rfl, rfl⟩, by decide, by decide, readyFor rfl ⟨rfl, rfl, rfl⟩,
    readyFor rfl ⟨rfl, rfl, rfl⟩, readyFor rfl ⟨rfl, rfl, rfl⟩⟩

theorem witness_VectorMemoryResults :
    let s := inHandler fun c => withS [(1, 0xD_FF00), (3, 4)] { c with regs := { c.regs with m := [(1, 3)] } }
    Quiet s ∧ s.me.wait = .none ∧ s.Ready g0 [1] [2] ∧ VectorLocalOk s 0xD_FF00 256 ∧ 0xD_FF00 % 4 = 0 ∧ 0xD_FF02 % 4 ≠ 0 ∧
    s.me.task = none ∧ s.Ready g0 [1, 3] [2] ∧ s.Ready g0 [1] [2, 3] ∧
    (s.me.regs.rm 1).getLsbD 0 = true ∧ (s.me.regs.rm 1).getLsbD 1 = true ∧ (s.me.regs.rm 1).getLsbD 2 = false ∧
    VectorLocalOk s 0xD_FF04 4 ∧ 0xD_FF04 % 4 = 0 :=
  ⟨⟨rfl, rfl, rfl, rfl⟩, rfl, ⟨rfl, rfl, rfl⟩, ⟨by decide +kernel, by decide +kernel, nofun, by decide +kernel⟩,
    by decide, by decide, rfl, ⟨rfl, rfl, rfl⟩, ⟨rfl, rfl, rfl⟩, by decide +kernel, by decide +kernel, by decide +kernel,
    ⟨by decide +kernel, by decide +kernel, nofun, by decide +kernel⟩, by decide⟩

/-! Queues -/

/-- Core 0 whose engines are changed. -/
def engined (f : Engine → Engine) (l : List (Nat × Word)) : State := inTask fun c => withS l { c with eng := f c.eng }

/-- A queued command of a code. -/
def cmd (code : Nat) : Cmd := ⟨BitVec.ofNat 512 code, 1, false, false, none, [], 0, []⟩

theorem witness_PushInstructions :
    LocalOk (engined id [(1, 0xD_FFC0), (2, 1)]) 0xD_FFC0 64 ∧ Quiet (engined id [(1, 0xD_FFC0), (2, 1)]) ∧
    (engined id [(1, 0xD_FFC0), (2, 1)]).Ready g0 [1] [] ∧ (engined id [(1, 0xD_FFC0), (2, 1)]).Ready g0 [1, 2] [] ∧
    (engined id [(1, 0xD_FFC0), (2, 1)]).me.wait = .none ∧
    readRecords .l (enqEa ⟨0, .l, .mat, 1⟩ (engined id [(1, 0xD_FFC0), (2, 1)]).me.regs) 1 (engined id [(1, 0xD_FFC0), (2, 1)]) =
      .ok ([0], engined id [(1, 0xD_FFC0), (2, 1)]) ∧
    roomFor (engined (fun e => { e with mat := List.replicate 15 (cmd 1) }) []) .mat 1 ∧
    ¬ roomFor (engined (fun e => { e with mat := List.replicate 16 (cmd 1) }) []) .mat 1 ∧
    64 < (engined (fun e => { e with reserved := 64 }) []).me.eng.reserved + 1 ∧
    ((engined id [(1, 0xD_FFC0), (2, 1)]).me.regs.rs 2).toNat = 1 ∧
    queueDepth .mat < ((engined id [(2, 17)]).me.regs.rs 2).toNat ∧
    ((engined id []).me.regs.rs 2).toNat = 0 ∧
    (inTask fun c => { c with wait := .push [0] }).me.wait = .push [0] :=
  ⟨⟨by decide +kernel, by decide +kernel, by decide +kernel, fun _ x h => by cases h; decide, by decide +kernel⟩,
    ⟨rfl, rfl, rfl, rfl⟩,
    ⟨rfl, rfl, rfl⟩, ⟨rfl, rfl, rfl⟩, rfl, by decide +kernel, by unfold roomFor; decide +kernel,
    by unfold roomFor; decide +kernel,
    by decide +kernel, by decide +kernel, by decide +kernel, by decide +kernel, rfl⟩

theorem witness_QueueInstructions :
    (engined (fun e => { e with held := [⟨1, 2⟩] }) []).Ready g0 [3, 3] [] ∧
    (engined (fun e => { e with held := [⟨1, 2⟩] }) []).me.eng.held = ⟨1, 2⟩ :: [] ∧ st.me.eng.held = [] ∧
    st.me.eng.reserved = 0 ∧
    (engined (fun e => { e with reserved := 1 }) []).me.eng.reserved ≠ 0 ∧ st.Ready g0 [3] [] ∧ st.me.eng.mat = [] ∧
    (15 : Reg).toNat < hdr.accs ∧ st.me.task = some ctx ∧ find? st.me.eng.handles 15 = none ∧
    (let e := (engined (fun e => { e with
        handles := [(1, .bound 2), (3, .spilled)], acc := [(2, ⟨1, 5, [], []⟩)],
        bslots := [(4, ⟨1, 0, false, [], 0, [], []⟩)] }) []).me.eng
     find? e.handles 1 = some (.bound 2) ∧ find? e.acc 2 = some ⟨1, 5, [], []⟩ ∧ find? e.handles 3 = some .spilled ∧
     has e.bspilled 4 = false ∧ find? e.bslots 4 = some ⟨1, 0, false, [], 0, [], []⟩ ∧ find? e.bslots 7 = none) ∧
    (small.me.task = some { ctx with hdr := { hdr with sregs := 4, vregs := 2 } }) ∧
    (inTask fun c => { c with task := some { ctx with hdr := { hdr with accs := 4 } } }).me.mode = .task ∧ 4 ≤ (4 : Reg).toNat ∧
    (engined (fun e => { e with mat := [cmd 5] }) []).me.eng.mat.any (fun x => recCode x.record == 5) = true ∧
    st.me.eng.mat.any (fun x => recCode x.record == 5) = false ∧ Quiet st ∧ st.Ready g0 [] [] :=
  ⟨⟨rfl, rfl, rfl⟩, rfl, rfl, rfl, by decide, ⟨rfl, rfl, rfl⟩, rfl, by decide, rfl, by decide, by decide +kernel, rfl, rfl,
    by decide,
    by decide +kernel, by decide +kernel, ⟨rfl, rfl, rfl, rfl⟩, ⟨rfl, rfl, rfl⟩⟩

/-! Commands of the engines -/

/-- A record from its fields: offset in bytes and value. -/
def record (l : List (Nat × Nat)) : LineBits := BitVec.ofNat 512 ((l.map fun x => x.2 * 2 ^ (8 * x.1)).foldl (· + ·) 0)

/-- A command of the task on core 0. -/
def cmdOf (l : List (Nat × Nat)) : Cmd := ⟨record l, 1, false, false, none, [], 0, []⟩

/-- The grid runs on core 0, whose engines are changed. -/
def engineGrid (f : Engine → Engine) : State := inGrid fun c => { c with eng := f c.eng }

/-- A command stands alone in the matrix queue. -/
def matQ (c : Cmd) (f : Engine → Engine) : State := engineGrid fun e => f { e with mat := [c] }

/-- A command stands alone in the copy queue. -/
def cpyQ (c : Cmd) (f : Core → Core) : State := inGrid fun c' => f { c' with eng := { c'.eng with cpy := [c] } }

theorem witness_CommandsRunAtTheHead :
    (∀ x ∈ [1, 2, 3, 4, 6, 7, 8], AtHead (matQ (cmd x) id) 0 .mat x (cmd x)) ∧
    (∀ x ∈ [0x20, 0x21, 0x22, 0x23, 0x24, 0x25], AtHead (cpyQ (cmd x) id) 0 .cpy x (cmd x)) ∧
    (cpyQ (cmd 0x22) id).packWaits 0 = false ∧ (∃ v, mzeroBody 0 (cmd 1) (work (matQ (cmd 1) id) (cmd 1)) = .ok v) ∧
    (∃ e, mepiBody 0 (cmd 4) (work (matQ (cmd 4) id) (cmd 4)) = .error e) ∧
    (∃ e, copyBody 0 (cmd 0x20) (work (cpyQ (cmd 0x20) id) (cmd 0x20)) = .error e) ∧
    AtHead (matQ (cmd 9) id) 0 .mat (recCode (cmd 9).record) (cmd 9) ∧ queueCode .mat 9 = false ∧
    AtHead (cpyQ (cmd 0x27) id) 0 .cpy (recCode (cmd 0x27).record) (cmd 0x27) ∧ queueCode .cpy 0x27 = false := by
  refine ⟨?_, ?_, by decide +kernel, ok_of (by decide +kernel), error_of (by decide +kernel), error_of (by decide +kernel),
    ⟨rfl, rfl, rfl, rfl, rfl⟩, by decide, ⟨rfl, rfl, rfl, rfl, rfl⟩, by decide⟩
  · intro x h
    simp only [List.mem_cons, List.not_mem_nil, or_false] at h
    obtain rfl | rfl | rfl | rfl | rfl | rfl | rfl := h <;> exact ⟨rfl, rfl, rfl, rfl, by decide +kernel⟩
  · intro x h
    simp only [List.mem_cons, List.not_mem_nil, or_false] at h
    obtain rfl | rfl | rfl | rfl | rfl | rfl := h <;> exact ⟨rfl, rfl, rfl, rfl, by decide +kernel⟩

theorem witness_CommandEnd :
    ((matQ (cmd 1) id).core 0).eng.queue .mat = cmd 1 :: [] ∧ (matQ (cmd 1) id).taskOfCtx (corePkg 0) (cmd 1).ctx = some (0,
      task0) ∧
    task0.phase = .issued 0 ∧ endsGrid .mat 0x34 = true ∧ endsGrid .cpy 0x34 = false ∧ endsGrid .cpy 0x20 = true ∧
    recCE (record [(0, 1), (1, 1)]) = true ∧ ((matQ (cmd 1) id).core 0).asyncTrap = none ∧
    ((cpyQ (cmd 0x20) id).core 0).eng.queue .cpy = cmd 0x20 :: [] := by
  refine ⟨rfl, ?_, rfl, ?_, ?_, ?_, ?_, rfl, rfl⟩ <;> decide +kernel

/-- Handle 15 bound to slot 7, and no other. -/
def bound15 (e : Engine) : Engine := { e with handles := [(15, .bound 7)], acc := [(7, ⟨1, 3, [(0, 0x3F80_0000)], []⟩)] }

/-- Eight handles bound. -/
def boundAll (e : Engine) : Engine := { e with handles := (upFrom 0 8).map fun i => (i, .bound i) }

theorem handle15 (f : Engine → Engine) (c : Cmd) (h : (matQ c f).cmdHeader (c.doer 0) = some hdr) :
    handleOk (matQ c f) (c.doer 0) 15 := ⟨by decide, fun x e => by rw [h] at e; cases e; decide⟩

theorem witness_MzeroMrel :
    let c := cmdOf [(0, 1), (4, 15)]
    let m := cmdOf [(0, 6), (4, 15)]
    flagsOk c.record 1 = true ∧ reserved c.record 5 64 = true ∧ AtHead (matQ c bound15) 0 .mat 1 c ∧
    handleOk (matQ c bound15) (c.doer 0) 15 ∧ handleOk (matQ c id) (c.doer 0) 15 ∧ handleOk (matQ c boundAll) (c.doer 0) 15 ∧
    find? ((matQ c bound15).core 0).eng.handles 15 = some (.bound 7) ∧
    find? ((matQ c bound15).core 0).eng.acc 7 = some ⟨1, 3, [(0, 0x3F80_0000)], []⟩ ∧
    find? ((matQ c id).core 0).eng.handles 15 = none ∧
    leastFrom (fun p => (find? ((matQ c id).core 0).eng.acc p).isNone) 0 8 = some 0 ∧
    8 ≤ ((matQ c boundAll).core 0).eng.handles.length ∧
    find? ((matQ c boundAll).core 0).eng.handles 15 = none ∧
    AtHead (matQ m bound15) 0 .mat 6 m ∧ handleOk (matQ m bound15) (m.doer 0) 15 :=
  ⟨by decide +kernel, by decide +kernel, ⟨rfl, rfl, rfl, rfl, by decide +kernel⟩, handle15 _ _ (by decide +kernel),
    handle15 _ _ (by decide +kernel), handle15 _ _ (by decide +kernel), rfl, rfl, rfl, by decide +kernel, by decide +kernel,
    by decide +kernel, ⟨rfl, rfl, rfl, rfl, by decide +kernel⟩, handle15 _ _ (by decide +kernel)⟩

/-! Commands on a page of space G, without evaluating their bytes one by one -/

/-- The page of space G of the task. -/
def inPage (s : State) : State := s.modCore 0 fun c => { c with tlb := [leaf false] }

/-- Core 0 alone runs its task on the page of space G, and memory lists addresses of the page only. -/
structure Flat (c : Core) (s : State) : Prop where
  cores : s.cores = [(0, c)]
  pkgs : s.pkgs = []
  watch : s.watch = []
  dies : s.dies = []
  ue : s.ue = []

/-- The core of such a state. -/
structure OnPage (c : Core) : Prop where
  tlb : c.tlb = [leaf false]
  mode : c.mode = .task
  root : c.ptroot0 = 0

theorem mem_insert_or {α : Type} {m : List (Nat × α)} {k : Nat} {v : α} {x : Nat × α} :
    x ∈ Machine.insert m k v → x = (k, v) ∨ x ∈ m := by
  induction m with
  | nil => intro h; exact Or.inl (List.mem_singleton.1 h)
  | cons y r ih =>
    obtain ⟨a, b⟩ := y
    unfold Machine.insert
    split
    · intro h; exact List.mem_cons.1 h
    · split
      · intro h
        rcases List.mem_cons.1 h with h | h
        · exact Or.inl h
        · exact Or.inr (List.mem_cons_of_mem _ h)
      · intro h
        rcases List.mem_cons.1 h with h | h
        · exact Or.inr (h ▸ List.mem_cons_self)
        · rcases ih h with h | h
          · exact Or.inl h
          · exact Or.inr (List.mem_cons_of_mem _ h)

theorem mem_of_erase {α : Type} {m : List (Nat × α)} {k : Nat} {x : Nat × α} : x ∈ Machine.erase m k → x ∈ m := by
  induction m with
  | nil => exact id
  | cons y r ih =>
    obtain ⟨a, b⟩ := y
    unfold Machine.erase
    split
    · exact fun h => List.mem_cons_of_mem _ (ih h)
    · intro h
      rcases List.mem_cons.1 h with h | h
      · exact h ▸ List.mem_cons_self
      · exact List.mem_cons_of_mem _ (ih h)

theorem low_put {m : List Host.Cell} (h : ∀ x ∈ m, x.1 < 2 ^ 38) (k : Nat) (v : Byte) (hk : k < 2 ^ 38) :
    ∀ x ∈ put m 0 k v, x.1 < 2 ^ 38 := by
  intro x hx
  unfold put at hx
  split at hx
  · exact h x (mem_of_erase hx)
  · rcases mem_insert_or hx with e | e
    · subst e; exact hk
    · exact h x e

theorem low_placed (f : Nat × Byte → Byte) (data : List Byte) : ∀ (pa : Nat) (m : List Host.Cell),
    (∀ x ∈ m, x.1 < 2 ^ 38) → pa + data.length ≤ 2 ^ 38 →
    ∀ x ∈ (placed pa data).foldl (fun m c => put m 0 c.1 (f c)) m, x.1 < 2 ^ 38 := by
  induction data with
  | nil => exact fun _ _ h _ => h
  | cons y r ih =>
    intro pa m h hl
    simp only [List.length_cons] at hl
    exact ih (pa + 1) _ (low_put h pa _ (by omega)) (by omega)

theorem Flat.land {c : Core} {s : State} (h : Flat c s) (l : Nat) (data : List (Nat × Byte)) : Flat c (s.land l data) := by
  have hb : ∀ (ds : List (Nat × Byte)) (t : State), Flat c t →
      Flat c (ds.foldl (fun s d => s.setByte (64 * l + d.1) (d.2 &&& writable (64 * l + d.1))) t) := by
    intro ds
    induction ds with
    | nil => exact fun _ h => h
    | cons d r ih => exact fun t h => ih _ ⟨h.cores, h.pkgs, h.watch, h.dies, by show delNat t.ue _ = []; rw [h.ue]; rfl⟩
  have h1 := hb data s h
  have hw : ∀ t : State, Flat c t → Flat c (t.wake l) := by
    intro t ht
    unfold State.wake
    have e := ht.watch
    simp only [e, List.foldl_nil, List.filter_nil]
    exact ⟨ht.cores, ht.pkgs, rfl, ht.dies, ht.ue⟩
  exact hw _ h1

theorem Flat.homeBytes {c : Core} {s : State} (h : Flat c s) (core : Option Nat) (pa : Nat) (data : List Byte) :
    Flat c (s.homeBytes core false pa data) := by
  unfold State.homeBytes
  generalize byLine pa data = ls
  induction ls generalizing s with
  | nil => exact h
  | cons l r ih => exact ih (h.land l.1 l.2)

/-- A task's command on core 0. -/
def taskDoer : Doer := ⟨0, 1, false, none⟩

theorem find_leaf (a : Nat) (h : a < 2 ^ 38) : [leaf false].find? (·.hits 0 a) = some (leaf false) := by
  have e : (leaf false).hits 0 a = true := by
    simp only [Leaf.hits, leaf, Leaf.bytes]
    norm_num
    omega
  simp [List.find?, e]

/-- On the page an address stands for itself, and the state is as it was. -/
theorem translate_flat {c : Core} {s : State} (h : Flat c s) (o : OnPage c) (n : Need) (hn : n = .r ∨ n = .w) (a : Nat)
    (ha : a < 2 ^ 38) : s.translate ⟨0, false, false⟩ n a = (s, .at_ a (leaf false)) := by
  have hc : s.core 0 = c := by simp [State.core, h.cores, find?]
  have hs : s.setCore 0 { c with tlb := lruPut 64 (leaf false) c.tlb } = s := by
    have e : lruPut 64 (leaf false) c.tlb = c.tlb := by rw [o.tlb]; decide
    rw [e]
    obtain ⟨_⟩ := s
    simp only [State.setCore]
    have := h.cores
    simp only at this
    subst this
    rfl
  have hcan : canonical a = true := by
    unfold canonical
    have : a / 2 ^ 56 = 0 := by omega
    rw [this]
    rfl
  have hp : ∀ p, (s.pkg p).spaces = [] := by intro p; simp [State.pkg, h.pkgs, find?, Package.reset]
  have hcl : s.claimArray 0 a = false := by
    unfold State.claimArray
    simp [hp]
  unfold State.translate State.pageOf
  have hm : a % 2 ^ 57 = a := Nat.mod_eq_of_lt (by omega)
  have hroot : c.root false = 0 := by simp [Core.root, o.root]
  simp only [hcan, hm, hc, hroot, o.tlb, find_leaf a ha]
  have hs' := hs
  rw [o.tlb] at hs'
  have hw : s.unwalk 0 0 false a = s := by simp [State.unwalk, State.die, h.dies, find?, Die.reset]
  have hb : a < 2 ^ 57 := by omega
  simp only [hs', hw, State.checkPage]
  rcases hn with rfl | rfl <;> simp [State.permits, Leaf.allows, leaf, corePkg, hcl] <;> omega

theorem answer_flat {c : Core} {s : State} (h : Flat c s) (hl : ∀ x ∈ s.mem, x.1 < 2 ^ 38) (k : AccKind) (a n : Nat)
    (ha : a < 2 ^ 38) : (s.answer ⟨0, false, false⟩ k a n).1 = 0 := by
  have hid : s.idOf 0 = 0 := by simp [State.idOf, State.pkg, h.pkgs, find?, corePkg, Package.reset]
  have h44 : a / 2 ^ 44 = 0 := by omega
  have hreg : region (a % 2 ^ 44) = .hbm := by unfold region; rw [if_pos (by omega)]
  have hsec : s.secure a = false := by
    unfold State.secure
    have : (s.mem.filter fun c => (a / 2 ^ 44 * 2 ^ 44 + 0x300_0001_0000 + 0x100_0000 * homeDie (a % 2 ^ 44)) ≤ c.1 &&
        c.1 < (a / 2 ^ 44 * 2 ^ 44 + 0x300_0001_0000 + 0x100_0000 * homeDie (a % 2 ^ 44)) + 512) = [] := by
      rw [List.filter_eq_nil_iff]
      intro x hx
      have := hl x hx
      simp only [Bool.and_eq_true, decide_eq_true_eq, not_and]
      omega
    simp only [this]
    rfl
  unfold State.answer
  have hr : s.reaches 0 0 = true := by simp [State.reaches, hid]
  simp only [h44, hr, hreg, hsec]
  rfl

/-- Work of a command whose core has stored to no scratchpad since the push. -/
abbrev begun (s : State) : Work := .start s []

theorem eCollect_keeps {α β : Type} {f : α → E β} {q : α → β} {w : Work} : ∀ (l : List α),
    (∀ x ∈ l, f x w = .ok (q x, w)) → eCollect l f w = .ok (l.map q, w)
  | [], _ => rfl
  | x :: l, h => by
    have e := h x List.mem_cons_self
    have es := eCollect_keeps l fun y hy => h y (List.mem_cons_of_mem _ hy)
    simp only [eCollect, bind, StateT.bind, Except.bind, pure, StateT.pure, Except.pure, e, es, List.map_cons]

theorem eEach_keeps {α : Type} {f : α → E Unit} {P : Work → Prop} : ∀ (l : List α) (w : Work), P w →
    (∀ x ∈ l, ∀ w, P w → ∃ v, f x w = .ok ((), v) ∧ P v) → ∃ v, eEach l f w = .ok ((), v) ∧ P v
  | [], w, hw, _ => ⟨w, rfl, hw⟩
  | x :: l, w, hw, h => by
    obtain ⟨v, e, q⟩ := h x List.mem_cons_self w hw
    obtain ⟨u, e', q'⟩ := eEach_keeps l v q fun y hy => h y (List.mem_cons_of_mem _ hy)
    exact ⟨u, by simp only [eEach, bind, StateT.bind, Except.bind, e, e'], q'⟩

theorem upFrom_range {x : Nat} : ∀ (n lo : Nat), x ∈ upFrom lo n → lo ≤ x ∧ x < lo + n
  | 0, lo, h => by cases h
  | n + 1, lo, h => by
    rcases List.mem_cons.1 h with rfl | h
    · omega
    · have := upFrom_range n (lo + 1) h
      omega

theorem cuts_range {a n : Nat} (h : a + n ≤ 2 ^ 37) : ∀ x ∈ cuts a n, x.1 < 2 ^ 38 ∧ x.1 + 64 ≤ 2 ^ 38 ∧ x.2 ≤ 64 := by
  intro x hx
  unfold cuts at hx
  obtain ⟨l, hl, rfl⟩ := List.mem_map.1 hx
  have := upFrom_range _ _ hl
  simp only
  omega

/-- A command of the task reads the bytes of the page. -/
theorem reads_flat {c : Core} {s : State} (h : Flat c s) (o : OnPage c) (hl : ∀ x ∈ s.mem, x.1 < 2 ^ 38) (a n : Nat)
    (ha : a + n ≤ 2 ^ 37) :
    eRead taskDoer 0 a n (begun s) = .ok (((cuts a n).map fun x => s.bytes x.1 x.2).flatten, begun s) := by
  have hstep : ∀ x ∈ cuts a n, (do
      let (pa, l) ← eTranslate taskDoer .r (x.1 % 2 ^ 64)
      if l.f then
        let s ← eState
        pure (s.winBytes (corePkg taskDoer.core) (pa / 2 ^ 48) (pa % 2 ^ 48) x.2)
      else eHome taskDoer pa x.2 : E (List Byte)) (begun s) = .ok (s.bytes x.1 x.2, begun s) := by
    intro x hx
    obtain ⟨h1, h2, h3⟩ := cuts_range ha x hx
    have hmod : x.1 % 2 ^ 64 = x.1 := Nat.mod_eq_of_lt (by omega)
    have ht : (begun s).st.engineTranslate taskDoer .r x.1 = (s, .at_ x.1 (leaf false)) :=
      translate_flat h o .r (Or.inl rfl) x.1 h1
    have ha' := answer_flat h hl .engine x.1 x.2 h1
    have hr : s.homeRead ⟨0, false, false⟩ .engine x.1 x.2 = .ok (s.bytes x.1 x.2) := by
      unfold State.homeRead
      generalize s.answer ⟨0, false, false⟩ .engine x.1 x.2 = p at ha'
      obtain ⟨st, nt⟩ := p
      simp only at ha'
      subst ha'
      simp [State.bad, h.ue]
    have e1 : eTranslate taskDoer .r x.1 (begun s) = .ok ((x.1, leaf false), begun s) := by
      unfold eTranslate; rw [ht]; rfl
    have e2 : eHome taskDoer x.1 x.2 (begun s) = .ok (s.bytes x.1 x.2, begun s) := by
      unfold eHome
      show (match s.homeRead ⟨0, false, false⟩ .engine x.1 x.2 with
        | .ok bs => _ | .error (st, note) => _) = _
      rw [hr]
    simp only [bind, StateT.bind, Except.bind, hmod, e1]
    exact e2
  have e := eCollect_keeps _ hstep
  unfold eRead
  simp only [bind, StateT.bind, Except.bind] at e ⊢
  rw [e]
  rfl

/-- And writes to it. -/
theorem writes_flat {c : Core} {s : State} (h : Flat c s) (o : OnPage c) (hl : ∀ x ∈ s.mem, x.1 < 2 ^ 38) (a : Nat)
    (data : List Byte) (ha : a + data.length ≤ 2 ^ 37) : ∃ v, eWrite taskDoer 0 a data (begun s) = .ok ((), v) := by
  have hstep : ∀ x ∈ cuts a data.length, ∀ w : Work, (Flat c w.st ∧ ∀ y ∈ w.st.mem, y.1 < 2 ^ 38) → ∃ v, (do
      let part := (data.drop (x.1 - a)).take x.2
      let (pa, l) ← eTranslate taskDoer .w (x.1 % 2 ^ 64)
      if l.f then eMod fun s => s.setWin (corePkg taskDoer.core) (pa / 2 ^ 48) (pa % 2 ^ 48) part
      else ePut taskDoer l.pr pa part : E Unit) w = .ok ((), v) ∧ (Flat c v.st ∧ ∀ y ∈ v.st.mem, y.1 < 2 ^ 38) := by
    intro x hx w hw
    obtain ⟨h1, h2, h3⟩ := cuts_range ha x hx
    obtain ⟨s', n1, n2, n3, n4, n5⟩ := w
    have hmod : x.1 % 2 ^ 64 = x.1 := Nat.mod_eq_of_lt (by omega)
    have ht : s'.engineTranslate taskDoer .w x.1 = (s', .at_ x.1 (leaf false)) :=
      translate_flat hw.1 o .w (Or.inr rfl) x.1 h1
    generalize hp : (data.drop (x.1 - a)).take x.2 = part
    have hlen : part.length ≤ 64 := by rw [← hp]; simp; omega
    have ha' := answer_flat hw.1 hw.2 .engine x.1 part.length h1
    refine ⟨⟨s'.homeBytes (some 0) false x.1 part, n1, n2, n3, n4, n5⟩, ?_, hw.1.homeBytes _ _ _, ?_⟩
    · have e1 : eTranslate taskDoer .w x.1 ⟨s', n1, n2, n3, n4, n5⟩ =
          .ok ((x.1, leaf false), ⟨s', n1, n2, n3, n4, n5⟩) := by
        unfold eTranslate; simp only [ht]
      have e2 : ePut taskDoer false x.1 part ⟨s', n1, n2, n3, n4, n5⟩ =
          .ok ((), ⟨s'.homeBytes (some 0) false x.1 part, n1, n2, n3, n4, n5⟩) := by
        unfold ePut
        show (match s'.answer ⟨0, false, false⟩ .engine x.1 part.length with
          | (0, _) => _ | (st, note) => _) = _
        generalize s'.answer ⟨0, false, false⟩ .engine x.1 part.length = p at ha'
        obtain ⟨st, nt⟩ := p
        simp only at ha'
        subst ha'
        rfl
      simp only [bind, StateT.bind, Except.bind, hmod, e1]
      exact e2
    · simp only [State.mem_homeBytes]
      exact low_placed _ _ _ _ hw.2 (by omega)
  obtain ⟨v, e, _⟩ := eEach_keeps (P := fun w => Flat c w.st ∧ ∀ y ∈ w.st.mem, y.1 < 2 ^ 38) _ (begun s) ⟨h, hl⟩ hstep
  exact ⟨v, e⟩

theorem onPage (c : Cmd) (f : Engine → Engine) (s : State) (h : s = inPage (matQ c f)) : Flat (s.core 0) s ∧
    OnPage (s.core 0) := by
  subst h
  exact ⟨⟨rfl, rfl, rfl, rfl, rfl⟩, ⟨rfl, rfl, rfl⟩⟩

theorem length_toBytes : ∀ n x : Nat, (toBytes n x).length = n
  | 0, _ => rfl
  | n + 1, x => by rw [toBytes, List.length_cons, length_toBytes n]

theorem length_words (g : Nat → Nat) : ∀ l : List Nat, (l.flatMap fun n => toBytes 4 (g n)).length = 4 * l.length
  | [] => rfl
  | x :: l => by rw [List.flatMap_cons, List.length_append, length_toBytes, length_words g l, List.length_cons]; omega

theorem length_upFrom : ∀ n lo : Nat, (upFrom lo n).length = n
  | 0, _ => rfl
  | n + 1, lo => by rw [upFrom, List.length_cons, length_upFrom n]

theorem witness_MspillMfill :
    let c := cmdOf [(0, 7), (5, 15), (8, 0x10_0000)]
    let m := cmdOf [(0, 8), (5, 15), (8, 0x10_0000)]
    let s := inPage (matQ c bound15)
    let t := inPage (matQ m bound15)
    flagsOk c.record 1 = true ∧ reserved c.record 6 8 = true ∧ reserved c.record 16 64 = true ∧
    recNum c.record 8 8 % 4096 = 0 ∧ AtHead s 0 .mat 7 c ∧ AtHead t 0 .mat 8 m ∧
    (∃ v, eEach (upFrom 0 17) (fun x => do let _ ← eTranslate (c.doer 0) .w ((0x10_0000 + 4096 * x) % 2 ^ 64)) (work s c) =
      .ok ((), v)) ∧
    (∃ v, eWrite (c.doer 0) 0 0x10_0000 (handleImage 15 ⟨1, 3, [(0, 0x3F80_0000)], []⟩) (work s c) = .ok ((), v)) ∧
    (∃ bs w, eRead (m.doer 0) 0 0x10_0000 65600 (work t m) = .ok (bs, w) ∧ bytesNum bs 0 1 = 0 ∧ bytesNum bs 2 1 = 0) := by
  obtain ⟨h1, h2⟩ := onPage (cmdOf [(0, 7), (5, 15), (8, 0x10_0000)]) bound15 _ rfl
  obtain ⟨h3, h4⟩ := onPage (cmdOf [(0, 8), (5, 15), (8, 0x10_0000)]) bound15 _ rfl
  refine ⟨by decide +kernel, by decide +kernel, by decide +kernel, by decide +kernel, ⟨rfl, rfl, rfl, rfl, by decide +kernel⟩,
    ⟨rfl, rfl, rfl, rfl, by decide +kernel⟩, ?_, ?_, ?_⟩
  · obtain ⟨v, h⟩ := ok_of (x := eEach (upFrom 0 17)
      (fun x => do let _ ← eTranslate taskDoer .w ((0x10_0000 + 4096 * x) % 2 ^ 64))
      (.start (inPage (matQ (cmdOf [(0, 7), (5, 15), (8, 0x10_0000)]) bound15)) [])) (by decide +kernel)
    exact ⟨v.2, h⟩
  · refine writes_flat h1 h2 (fun x h => nomatch h) 0x10_0000 _ ?_
    rw [handleImage, slotHeader, List.length_append, length_toBytes, length_words, length_upFrom]
    omega
  · exact ⟨_, _, reads_flat h3 h4 (fun x h => nomatch h) 0x10_0000 65600 (by omega), by decide +kernel, by decide +kernel⟩

theorem witness_MspillMfill_B :
    let c := cmdOf [(0, 7), (4, 1), (5, 7), (8, 0x10_0000)]
    let m := cmdOf [(0, 8), (4, 1), (5, 7), (8, 0x10_0000)]
    let s := inPage (matQ c id)
    let t := (inPage (matQ m id)).setByte 0x10_0000 1
    AtHead s 0 .mat 7 c ∧ AtHead t 0 .mat 8 m ∧ has (s.core 0).eng.bspilled 7 = false ∧
    (∃ v, eWrite (c.doer 0) 0 0x10_0000 (bImage 7 none) (work s c) = .ok ((), v)) ∧
    (∃ bs w, eRead (m.doer 0) 0 0x10_0000 16960 (work t m) = .ok (bs, w) ∧ bytesNum bs 0 1 = 1 ∧ bytesNum bs 2 1 = 0) ∧
    find? (t.core 0).eng.bslots 7 = none := by
  obtain ⟨h1, h2⟩ := onPage (cmdOf [(0, 7), (4, 1), (5, 7), (8, 0x10_0000)]) id _ rfl
  obtain ⟨h3, h4⟩ := onPage (cmdOf [(0, 8), (4, 1), (5, 7), (8, 0x10_0000)]) id _ rfl
  have h5 : Flat _ ((inPage (matQ (cmdOf [(0, 8), (4, 1), (5, 7), (8, 0x10_0000)]) id)).setByte 0x10_0000 1) :=
    ⟨h3.cores, h3.pkgs, h3.watch, h3.dies, rfl⟩
  refine ⟨⟨rfl, rfl, rfl, rfl, by decide +kernel⟩, ⟨rfl, rfl, rfl, rfl, by decide +kernel⟩, rfl, ?_,
    ⟨_, _, reads_flat h5 h4 (by decide +kernel) 0x10_0000 16960 (by omega), by decide +kernel, by decide +kernel⟩, rfl⟩
  refine writes_flat h1 h2 (fun x h => nomatch h) 0x10_0000 _ ?_
  rw [bImage, List.length_append, List.length_replicate, slotHeader, length_toBytes]
  omega

/-- Bank 1 holds E4M3 rows. -/
def banked (s : State) (f : BitVec 16) : State := s.modCore 0 fun c => { c with bfmt := [(1, f)] }

theorem witness_MmulMepi :
    let c := cmdOf [(0, 3), (4, 15), (6, 127), (8, 1), (12, 0x1_FF80)]
    let s := banked (matQ c bound15) 5
    let m := cmdOf [(0, 4), (1, 2), (4, 15), (6, 127), (8, 1), (12, 0x1_FF80)]
    let t := banked (matQ m bound15) 5
    AtHead s 0 .mat 3 c ∧ find? (s.core 0).eng.handles 15 = some (.bound 7) ∧
    find? (s.core 0).eng.acc 7 = some ⟨1, 3, [(0, 0x3F80_0000)], []⟩ ∧ flagsOk c.record 1 = true ∧ reserved c.record 7 8 = true ∧
    reserved c.record 10 12 = true ∧ reserved c.record 16 64 = true ∧ (s.core 0).fmtAt 1 = .e4m3 ∧ matFmt .e4m3 = true ∧
    0x1_FF80 % (128 * elemSize .e4m3) = 0 ∧ s.endA (c.doer 0) .e4m3 0x1_FF80 1 = (0x2_0000 : Nat) ∧
    RowsOk s 0 c 15 127 1 0x1_FF80 0x2_0000 ∧ 0x2_0000 ≤ (0x1_FF80 / 0x1_0000 + 1) * 0x1_0000 ∧
    s.bad (s.windowPa 0 0x1_FF80) 128 = false ∧ has (s.core 0).eng.bspilled 0 = false ∧ find? (s.core 0).eng.bslots 0 = none ∧
    AtHead t 0 .mat 4 m ∧ flagsOk m.record 2 = true ∧ 0x1_FF80 % 64 = 0 ∧ RowsOk t 0 m 15 127 1 0x1_FF80 0x2_0010 := by
  have h : (banked (matQ (cmdOf [(0, 3), (4, 15), (6, 127), (8, 1), (12, 0x1_FF80)]) bound15) 5).cmdHeader
      ((cmdOf [(0, 3), (4, 15), (6, 127), (8, 1), (12, 0x1_FF80)]).doer 0) = some hdr := by decide +kernel
  have h' : (banked (matQ (cmdOf [(0, 4), (1, 2), (4, 15), (6, 127), (8, 1), (12, 0x1_FF80)]) bound15) 5).cmdHeader
      ((cmdOf [(0, 4), (1, 2), (4, 15), (6, 127), (8, 1), (12, 0x1_FF80)]).doer 0) = some hdr := by decide +kernel
  and_intros
  all_goals first
    | decide +kernel
    | exact ⟨rfl, rfl, rfl, rfl, by decide +kernel⟩
    | exact ⟨⟨by decide, fun x e => by rw [h] at e; cases e; decide⟩, by decide, by decide +kernel, by decide +kernel,
        fun x e => by rw [h] at e; cases e; decide⟩
    | exact ⟨⟨by decide, fun x e => by rw [h'] at e; cases e; decide⟩, by decide, by decide +kernel, by decide +kernel,
        fun x e => by rw [h'] at e; cases e; decide⟩

/-- A result with a state behind it. -/
def gives {ε α β : Type} [DecidableEq α] (x : Except ε (α × β)) (a : α) : Bool :=
  match x with
  | .ok (y, _) => decide (y = a)
  | .error _ => false

theorem gives_of {ε α β : Type} [DecidableEq α] {x : Except ε (α × β)} {a : α} (h : gives x a = true) : ∃ w, x = .ok (a, w) := by
  match x, h with
  | .ok (y, w), h => exact ⟨w, by rw [show y = a from of_decide_eq_true h]⟩
  | .error _, h => cases h

/-- A shape record: base, space, rank, format, bank, dimensions, strides, tile. -/
def shapeRec (base space rank fmt : Nat) (dims strides tiles : List Nat) : List Byte :=
  let put := fun (off w : Nat) (l : List Nat) => (l.zipIdx.map fun x => x.1 * 2 ^ (8 * (off + w * x.2))).foldl (· + ·) 0
  toBytes 192 (base + space * 2 ^ 64 + rank * 2 ^ 72 + fmt * 2 ^ 80 + 0xFF * 2 ^ 96 + put 0x10 8 dims + put 0x40 8 strides +
    put 0x70 4 tiles)

/-- A core with shape records in its cache, at addresses of space L, and formats of its banks. -/
def withShapes (l : List (Nat × List Byte)) (f : List (Nat × BitVec 16)) (c : Core) : Core :=
  { c with bfmt := f, eng := { c.eng with shapes := l.map fun x => ⟨1, x.1, x.2⟩ } }

/-- A 128 by 128 matrix in bank 1. -/
def matrix : List Byte := shapeRec 0x1_0000 1 2 5 [128, 128] [1, 128] [128, 128]

/-- An MLDB of its first tile into slot 7. -/
def mldb7 : Cmd := cmdOf [(0, 2), (4, 7), (5, 1), (8, 0x40)]

/-- The state of that command. -/
def mldbState : State := inGrid fun c => withShapes [(0x40, matrix)] [(1, 5)] { c with eng := { c.eng with mat := [mldb7] } }

theorem witness_Mldb :
    AtHead mldbState 0 .mat 2 mldb7 ∧ flagsOk mldb7.record 1 = true ∧ reserved mldb7.record 6 8 = true ∧
    reserved mldb7.record 32 64 = true ∧ recNum mldb7.record 4 1 = 7 ∧ recNum mldb7.record 5 1 = 1 ∧
    recNum mldb7.record 8 8 = 0x40 ∧
    (mldbState.cmdHeader (mldb7.doer 0) = some hdr) ∧ 0x40 + 192 ≤ hdr.scratch ∧
    eShape (mldb7.doer 0) 1 0x40 (begun mldbState) = .ok (shapeOf matrix, begun mldbState) ∧
    (shapeOf matrix).rank = 2 ∧ 0 + 128 ≤ (shapeOf matrix).dims.getD 1 0 ∧ 0 + 128 ≤ (shapeOf matrix).dims.getD 0 0 ∧
    matFmt (mldbState.opnd 0 (shapeOf matrix)).fmt = true ∧ (mldbState.opnd 0 (shapeOf matrix)).fmt = .e4m3 ∧
    (∀ x ∈ mldbState.tileSpans (mldb7.doer 0) (mldbState.opnd 0 (shapeOf matrix)) 0 0,
      mldbState.spanIn (mldb7.doer 0) 1 0x1_0000 x.1 x.2 = true ∧ 0 ≤ x.1 ∧ x.2 ≤ mldbState.scratchOf (mldb7.doer 0)) ∧
    find? (mldbState.core 0).eng.bslots 7 = none ∧
    (∀ rows, ∃ b, tileSlots .e4m3 1 0 rows = [b]) ∧ (∀ rows, ∃ b b', tileSlots .bf16 1 0 rows = [b, b']) := by
  and_intros
  all_goals first
    | decide +kernel
    | exact ⟨rfl, rfl, rfl, rfl, by decide +kernel⟩
    | exact fun _ => ⟨_, rfl⟩
    | exact fun _ => ⟨_, _, rfl⟩

theorem reads_own (d : Doer) (a n : Nat) (w : Work) (h : w.st.ue = []) (m : w.missed = []) :
    eRead d 1 a n w = .ok (w.st.bytes (w.st.windowPa d.core a) n, w) := by
  show eSpad d.core a n w = _
  simp [eSpad, State.bad, h, m]

theorem witness_Mldb_tile :
    ∃ rows, eTile (mldb7.doer 0) (mldbState.opnd 0 (shapeOf matrix)) 0 0 (begun mldbState) = .ok (rows, begun mldbState) := by
  have hf : ((mldbState.opnd 0 (shapeOf matrix)).fmt == Ty.ec8) = false := by decide +kernel
  have hs : (mldbState.opnd 0 (shapeOf matrix)).space = 1 := by decide +kernel
  refine ⟨_, eCollect_keeps (q := fun k => (upFrom 0 128).map fun j => ofBytes (mldbState.bytes (mldbState.windowPa 0
    (spaceAddr ((mldbState.opnd 0 (shapeOf matrix)).addr [j, k]))) (mldbState.opnd 0 (shapeOf matrix)).esz)) _ fun k _ => ?_⟩
  simp only [hf, Bool.false_eq_true, if_false]
  refine eCollect_keeps _ fun j _ => ?_
  simp only [bind, StateT.bind, Except.bind, hs, reads_own _ _ _ (begun mldbState) rfl rfl]
  rfl

/-! Resident iteration -/

/-- A MITER in FIX mode: HX, HW and HS are handles 0, 1, 2; CAP 3. -/
def miterRec (flags : Nat) : LineBits := record [(0, 5), (1, flags), (4, 1), (6, 3), (8, 0), (9, 1), (10, 2)]

/-- A loop state in a phase. -/
def loopAt (phase iter : Nat) : LoopState := ⟨phase, iter, 0, 0x7F80_0000, 0, 1, 2, 0, 0, 1, 2, 0⟩

/-- The three handles bound; S holds one element at row 0 and column 1. -/
def threeBound (s : Nat) (e : Engine) : Engine :=
  { e with
    handles := [(0, .bound 0), (1, .bound 1), (2, .bound 2)]
    acc := [(0, ⟨1, 0, [], []⟩), (1, ⟨1, 0, [], []⟩), (2, ⟨1, 0, if s = 0 then [] else [(1, BitVec.ofNat 32 s)], []⟩)] }

/-- A running MITER. -/
def miterState (phase iter s : Nat) : State := matQ ⟨miterRec 0, 1, false, true, some (loopAt phase iter), [], 0,
  []⟩ (threeBound s)

theorem witness_MiterRuns :
    (∃ v, miterChecks ⟨0, 1, false, none⟩ (miterRec 0)
      (begun (matQ ⟨miterRec 0, 1, false, false, some (loopStart (miterRec 0)), [], 0, []⟩ (threeBound 0))) = .ok v) ∧
    (∃ e, miterChecks ⟨0, 1, false, none⟩ (miterRec 0)
      (begun (matQ ⟨miterRec 0, 1, false, false, some (loopStart (miterRec 0)), [], 0, []⟩ id)) = .error e) ∧
    miterFields (record [(0, 5)]) = false ∧ recCode (miterRec 0) = 5 ∧
    ((miterState 16 0 0).core 0).eng.mat = ⟨miterRec 0, 1, false, true, some (loopAt 16 0), [], 0, []⟩ :: [] ∧
    ((miterState 16 0 0).core 0).eng.matStop = false ∧
    (∃ w, phaseBody ⟨0, 1, false, none⟩ (miterRec 0) (loopAt 16 0) (begun (miterState 16 0 0)) = .ok ((loopAt 17 0, none), w)) ∧
    (∃ w, phaseBody ⟨0, 1, false, none⟩ (miterRec 0) (loopAt 12 0) (begun (miterState 12 0 0)) =
      .ok ((loopAt 12 0, some ⟨0x3B, 0x7F80_0000, false⟩), w)) ∧
    (∃ e, phaseBody ⟨0, 1, false, none⟩ (miterRec 0) (loopAt 4 0) (begun (matQ (cmd 5) id)) = .error e) := by
  refine ⟨ok_of (by decide +kernel), error_of (by decide +kernel), by decide +kernel, by decide +kernel, rfl, rfl,
    gives_of (by decide +kernel), gives_of (by decide +kernel), error_of (by decide +kernel)⟩

theorem witness_MiterPhases :
    find? ((miterState 4 3 0).core 0).eng.handles 2 = some (.bound 2) ∧
    find? ((miterState 4 3 0).core 0).eng.acc 2 = some ⟨1, 0, [], []⟩ ∧ miterCap (miterRec 0) = 3 ∧
    (((miterState 8 0 0).core 0).regs.rq 2).toNat % 2 ^ 31 = 0 ∧
    (let s := miterState 4 0 0
     let t := s.modCore 0 fun c => { c with regs := { c.regs with q := [(2, 1), (5, 0x7F80_0000), (3, 0x4000_0000)] } }
     (val .f32 ((t.core 0).regs.rq 5).toNat).lt (val .f32 0x3F80_0000) = false ∧
     (val .f32 0x3F80_0000).lt (val .f32 ((t.core 0).regs.rq 3).toNat) = true ∧
     (val .f32 ((s.core 0).regs.rq 5).toNat).lt (val .f32 0x3F80_0000) = true ∧
     ((t.core 0).regs.rq 2).toNat % 2 ^ 31 ≠ 0) := by
  refine ⟨rfl, rfl, by decide +kernel, by decide +kernel, ?_⟩
  decide +kernel

/-! The copy engine -/

/-- Four elements in bank 1, and in bank 2. -/
def four (bank fmt : Nat) : List Byte := shapeRec (bank * 0x1_0000) 1 1 fmt [4] [if fmt = 2 then 4 else 1] [4]

/-- A FILL of the elements at bank 1, and a COPY from bank 1 to bank 2. -/
def fill4 : Cmd := cmdOf [(0, 0x21), (4, 1), (8, 0x40), (16, 0x5A)]
def copy4 : Cmd := cmdOf [(0, 0x20), (4, 1), (5, 1), (8, 0x40), (16, 0x100)]

/-- A copy command with both shape records in the cache. -/
def copyState (c : Cmd) (src dst : List Byte) (f : List (Nat × BitVec 16)) : State := cpyQ c (withShapes [(0x40, src), (0x100, dst)] f)

theorem witness_FillResults :
    let s := copyState fill4 (four 1 9) (four 2 9) [(1, 9)]
    let o := s.opnd 0 (shapeOf (four 1 9))
    AtHead s 0 .cpy 0x21 fill4 ∧ flagsOk fill4.record 1 = true ∧ recNum fill4.record 4 1 = 1 ∧ recNum fill4.record 8 8 % 64 = 0 ∧
    reserved fill4.record 5 8 = true ∧ reserved fill4.record 24 64 = true ∧ 0x40 + 192 ≤ s.scratchOf (fill4.doer 0) ∧
    eShape (fill4.doer 0) 1 0x40 (begun s) = .ok (shapeOf (four 1 9), begun s) ∧
    eDeclOpnd (fill4.doer 0) o true (begun s) = .ok ((), begun s) ∧ o.fmt = .z8 ∧ s.opndPlaced (fill4.doer 0) o true = true ∧
    eAwaitX (fill4.doer 0) o o.tiles (begun s) = .ok ((), begun s) ∧ fill4.missed = [] ∧
    o.space = 1 ∧ (s.core 0).spbanks ≤ 14 ∧ boxSize o.tiles = 4 ∧
    (∀ i, i < 4 → o.addr (boxIndex o.tiles i) = 0x1_0000 + (i : Int)) := by
  refine ⟨⟨rfl, rfl, rfl, rfl, by decide +kernel⟩, ?_⟩
  and_intros <;> decide +kernel

theorem witness_CopyResults :
    let s := copyState copy4 (four 1 2) (four 2 5) [(1, 2), (2, 5)]
    let so := s.opnd 0 (shapeOf (four 1 2))
    let o := s.opnd 0 (shapeOf (four 2 5))
    AtHead s 0 .cpy 0x20 copy4 ∧ flagsOk copy4.record 1 = true ∧ recNum copy4.record 4 1 = 1 ∧ recNum copy4.record 5 1 = 1 ∧
    recNum copy4.record 8 8 = 0x40 ∧ recNum copy4.record 16 8 = 0x100 ∧ reserved copy4.record 6 8 = true ∧
    reserved copy4.record 24 64 = true ∧ 0x100 + 192 ≤ s.scratchOf (copy4.doer 0) ∧
    eShape (copy4.doer 0) 1 0x40 (begun s) = .ok (shapeOf (four 1 2), begun s) ∧
    (∃ w, eShape (copy4.doer 0) 1 0x100 (begun s) = .ok (shapeOf (four 2 5), w)) ∧
    eDeclOpnd (copy4.doer 0) so false (begun s) = .ok ((), begun s) ∧
    eDeclOpnd (copy4.doer 0) o true (begun s) = .ok ((), begun s) ∧
    so.ec8Ok = true ∧ o.ec8Ok = true ∧ so.tiles = o.tiles ∧ eAwaitX (copy4.doer 0) so so.tiles (begun s) = .ok ((), begun s) ∧
    eAwaitX (copy4.doer 0) o o.tiles (begun s) = .ok ((), begun s) ∧ s.opndPlaced (copy4.doer 0) so false = true ∧
    s.opndPlaced (copy4.doer 0) o true = true ∧ so.fmt = .f32 ∧ o.fmt = .e4m3 ∧ converts so.fmt o.fmt = true ∧
    converts .e4m3 .e4m3 = false ∧
    (∃ v, eFor (fun i => do
        eEntry i
        let bs ← eRead (copy4.doer 0) so.space (spaceAddr (so.addr (boxIndex o.tiles i))) so.esz
        let y ← eConvert so.fmt o.fmt so.scale o.scale (ofBytes bs)
        eStore (copy4.doer 0) o i y) 0 4 (begun s) = .ok ((), v)) := by
  refine ⟨⟨rfl, rfl, rfl, rfl, by decide +kernel⟩, ?_⟩
  and_intros <;> first | decide +kernel | exact gives_of (by decide +kernel)

/-- The directory of a row of 2,048 zeros as one EC8 segment: 64 blocks of 21 bytes, all zero. -/
def ec8Row : List Byte := List.replicate 64 21

/-- An EC8 operand of one row. -/
def rowOf (bank fmt : Nat) : List Byte := shapeRec (bank * 0x1_0000) 1 1 fmt [2048] [if fmt = 7 then 0 else 1] [2048]

/-- The row stands at the start of bank 1. -/
def ec8State : State :=
  let s := copyState copy4 (rowOf 1 7) (rowOf 2 5) [(1, 7), (2, 5)]
  s.setBytes (s.windowPa 0 0x1_0000) ec8Row

theorem witness_CopyResults_ec8 :
    (ec8State.opnd 0 (shapeOf (rowOf 1 7))).fmt = .ec8 ∧ (ec8State.opnd 0 (shapeOf (rowOf 1 7))).ec8Ok = true ∧
    (ec8State.opnd 0 (shapeOf (rowOf 1 7))).rows = 1 ∧
    eDeclOpnd (copy4.doer 0) (ec8State.opnd 0 (shapeOf (rowOf 1 7))) false (begun ec8State) = .ok ((), begun ec8State) ∧
    ec8State.opndPlaced (copy4.doer 0) (ec8State.opnd 0 (shapeOf (rowOf 1 7))) false = true ∧
    (∃ v, eRowsOf (copy4.doer 0) (ec8State.opnd 0 (shapeOf (rowOf 1 7))) [0] (begun ec8State) = .ok v) :=
  ⟨by decide +kernel, by decide +kernel, by decide +kernel, by decide +kernel, by decide +kernel, ok_of (by decide +kernel)⟩

theorem witness_CopyResults_encode :
    let s := copyState copy4 (rowOf 2 5) (rowOf 1 7) [(1, 7), (2, 5)]
    let so := s.opnd 0 (shapeOf (rowOf 2 5))
    let o := s.opnd 0 (shapeOf (rowOf 1 7))
    so.fmt = .e4m3 ∧ o.fmt = .ec8 ∧ o.rows = 1 ∧ eDeclOpnd (copy4.doer 0) o true (begun s) = .ok ((), begun s) ∧
    s.opndPlaced (copy4.doer 0) o true = true ∧
    (∃ v, copyRows (copy4.doer 0) ⟨so, none⟩ o [0] (begun s) = .ok v) := by
  exact ⟨by decide +kernel, by decide +kernel, by decide +kernel, by decide +kernel, by decide +kernel, ok_of (by decide +kernel)⟩

/-- A GATHER of one entry of 16 bytes: index at L 0x100, dense side at L 0x200, G base 0x1000, LIMIT 8. -/
def gatherCmd (code : Nat) : Cmd := cmdOf [(0, code), (4, 4), (8, 0x1000), (16, 1), (20, 0x100), (24, 0x200), (32, 8)]

/-- That command at the head of the copy queue, on the page, with an index in its list. -/
def gatherState (code idx : Nat) : State :=
  let s := inPage (cpyQ (gatherCmd code) id)
  s.setBytes (s.windowPa 0 0x100) (toBytes 4 idx)

theorem witness_GatherResults :
    let s := gatherState 0x24 7
    let d := (gatherCmd 0x24).doer 0
    let g := (s.core 0).gatherOp (gatherCmd 0x24).record
    AtHead s 0 .cpy 0x24 (gatherCmd 0x24) ∧ AtHead (gatherState 0x25 7) 0 .cpy 0x25 (gatherCmd 0x25) ∧
    gatherChecks d (gatherCmd 0x24).record g (begun s) = .ok ((), begun s) ∧
    (∃ v, eFor (gatherEntry d g) 0 g.count (begun s) = .ok v) ∧ (∃ v, eFor (scatterEntry d g) 0 g.count (begun s) = .ok v) ∧
    gatherFields (cmd 0x24).record ((s.core 0).gatherOp (cmd 0x24).record) = false ∧
    s.bad (s.windowPa 0 (g.ioff + 0 * g.isize)) g.isize = false ∧ g.limit = 8 ∧ g.conv = false ∧
    s.num (s.windowPa 0 (g.ioff + 0 * g.isize)) g.isize = 7 ∧
    (gatherState 0x24 8).num (s.windowPa 0 (g.ioff + 0 * g.isize)) g.isize = 8 ∧
    g.base + 7 * g.es < 2 ^ 64 ∧ (∃ v, eRead d 0 (g.base + 7 * g.es) g.es (begun s) = .ok v) ∧
    s.bad (s.windowPa 0 (g.doff + 0 * g.ds)) g.ds = false ∧
    (∃ v, eCanWrite d 0 (g.base + 7 * g.es) 16 (begun s) = .ok v) ∧
    (∃ v, eWrite d 0 (g.base + 7 * g.es) (List.replicate 16 0) (begun s) = .ok v) := by
  and_intros
  all_goals first
    | decide +kernel
    | exact ⟨rfl, rfl, rfl, rfl, by decide +kernel⟩
    | exact ok_of (by decide +kernel)

/-- A PACK or UNPACK of the tile at L 0x1_0000 for a matrix whose header stands at G 0x1000, at tile row `tr`. -/
def tileCmd (code tr : Nat) : Cmd := cmdOf [(0, code), (8, 0x1000), (16, tr), (24, 0x1_0000)]

/-- A header of a 256 by 128 matrix of E4M3 elements without a non-zero, with a number of tiles and capacities. -/
def tileHeader (lock nt cap : Nat) : List Byte :=
  toBytes 64 (256 + 128 * 2 ^ 32 + 5 * 2 ^ 64 + lock * 2 ^ 80 + nt * 2 ^ 96 + cap * 2 ^ 192 + cap * 2 ^ 224 +
    cap * 2 ^ 256 + 0x40 * 2 ^ 320 + 0x80 * 2 ^ 352 + 0xC0 * 2 ^ 384 + 0x100 * 2 ^ 416 + 0x140 * 2 ^ 448 + 0x180 * 2 ^ 480)

/-- That command at the head of the copy queue; bank 1 holds E4M3, and one element of the tile is `x`. -/
def tileState (code tr : Nat) (h : List Byte) (x : Nat) : State :=
  let s := (banked (inPage (cpyQ (tileCmd code tr) id)) 5).setBytes 0x1000 h
  s.setByte (s.windowPa 0 0x1_0000) (BitVec.ofNat 8 x)

/-- The header that the command reads. -/
def headerIn (h : List Byte) : TileHdr := tileHdr 0x1000 h

theorem witness_CompressedTileResults :
    let s := tileState 0x22 0 (tileHeader 0 0 8) 0x38
    let u := tileState 0x23 0 (tileHeader 0 1 8) 0
    let d := (tileCmd 0x22 0).doer 0
    AtHead s 0 .cpy 0x22 (tileCmd 0x22 0) ∧
    (∃ w, tileChecks d (tileCmd 0x22 0).record (begun s) = .ok (headerIn (tileHeader 0 0 8), w)) ∧
    (∃ w, tileChecks d (tileCmd 0x22 0).record (begun (tileState 0x22 0 (tileHeader 1 0 8) 0)) = .ok (headerIn (tileHeader 1 0 8), w)) ∧
    (headerIn (tileHeader 1 0 8)).lock % 2 = 1 ∧ (headerIn (tileHeader 0 0 8)).lock % 2 = 0 ∧
    (∃ v, eTranslate d .rw 0x100A (begun s) = .ok v) ∧ (∃ v, eWrite d 0 0x100A [0] (begun s) = .ok v) ∧
    (headerIn (tileHeader 0 0 8)).ok = true ∧ (headerIn (tileHeader 0 9 8)).ok = false ∧ (headerIn (tileHeader 0 0 0)).capt = 0 ∧
    (∃ v, eNumAt d (headerIn (tileHeader 0 1 8)) 0x40 4 (begun u) = .ok (0, v)) ∧
    AtHead u 0 .cpy 0x23 (tileCmd 0x23 0) ∧
    (∃ w, tileChecks d (tileCmd 0x23 0).record (begun u) = .ok (headerIn (tileHeader 0 1 8), w)) ∧
    (∃ v, tileSearch d (headerIn (tileHeader 0 1 8)) 0 33 0 1 (begun u) = .ok (0, v)) ∧
    (∃ v, tileSearch d (headerIn (tileHeader 0 1 8)) 0x1_0000 33 0 1 (begun u) = .ok (1, v)) ∧
    (∃ v, tileElems d (headerIn (tileHeader 0 1 8)) 0 (begun u) = .ok ([], v)) := by
  refine ⟨⟨rfl, rfl, rfl, rfl, by decide +kernel⟩, gives_of (by decide +kernel), gives_of (by decide +kernel),
    by decide +kernel, by decide +kernel,
    ok_of (by decide +kernel), ok_of (by decide +kernel), by decide +kernel, by decide +kernel, by decide +kernel,
    gives_of (by decide +kernel), ⟨rfl, rfl, rfl, rfl, by decide +kernel⟩, gives_of (by decide +kernel),
    gives_of (by decide +kernel),
    gives_of (by decide +kernel), gives_of (by decide +kernel)⟩

theorem witness_CompressedTileResults_rows :
    let s := tileState 0x22 1 (tileHeader 0 0 8) 0x38
    let d := (tileCmd 0x22 1).doer 0
    (∃ v, packRow d (headerIn (tileHeader 0 0 8)) ⟨0x1_0000, .e4m3, 0⟩ 1 0 0 (begun s) = .ok ([(0, 0x38)], v)) ∧
    (∃ v, packRow d (headerIn (tileHeader 0 0 8)) ⟨0x1_0000, .e4m3, 0⟩ 1 0 127 (begun s) = .ok ([], v)) := by
  exact ⟨gives_of (by decide +kernel), gives_of (by decide +kernel)⟩

/-- A FETCHR of 4,097 bytes from window 1 to G 0x2000: two units. -/
def fetchCmd : Cmd := cmdOf [(0, 0x26), (4, 1), (8, 0), (16, 4097), (24, 0x2000)]

/-- Window 1 of 64 KiB registered. -/
def windowed (s : State) : State := s.modPkg 0 fun p => { p with windows := [(1, ⟨0, 1, 0, [], 0, 0, 0, 0x1_0000⟩)] }

theorem witness_FetchResults :
    let s := windowed (inPage (cpyQ fetchCmd id))
    let b (us : List FetchUnit) : State := cpyQ { fetchCmd with begun := true, units := us } id
    (s.core 0).eng.cpy = fetchCmd :: [] ∧ recCode fetchCmd.record = 0x26 ∧ fetchCmd.begun = false ∧
    (s.core 0).eng.cpyStop = false ∧
    (∃ w, fetchChecks (fetchCmd.doer 0) fetchCmd.record (begun s) = .ok ([⟨0, 0x2000, false⟩, ⟨1, 0x3000, false⟩], w)) ∧
    (∃ e, fetchChecks (fetchCmd.doer 0) fetchCmd.record (begun (inPage (cpyQ fetchCmd id))) = .error e) ∧
    ((b [⟨1, 0x3000, false⟩]).core 0).eng.cpy.head?.map (·.units) = some [⟨1, 0x3000, false⟩] ∧
    [(⟨1, 0x3000, false⟩ : FetchUnit)].find? (·.unit = 1) = some ⟨1, 0x3000, false⟩ ∧
    [(⟨1, 0x3000, false⟩ : FetchUnit)].filter (·.unit ≠ 1) = [] ∧
    [(⟨0, 0x2000, false⟩ : FetchUnit), ⟨1, 0x3000, false⟩].filter (·.unit ≠ 1) ≠ [] ∧
    ((b []).answer (fetchCmd.doer 0).who .engine 0x3000 1).1 = 0 := by
  refine ⟨rfl, by decide +kernel, rfl, rfl, gives_of (by decide +kernel), error_of (by decide +kernel), rfl, by decide,
    by decide, by decide,
    by decide +kernel⟩

/-- A VDEC of decoder context 63, codec 1, that opens it anew or not, of a unit of `len` bytes at G 0x1000. -/
def vdecRec (flags len : Nat) : LineBits := record [(0, 0x40), (1, flags), (4, 63), (5, 1), (8, 0x1000), (16, len),
  (20, 64), (40, 64)]

/-- Commands of core 0's task in the media queue of die 0. -/
def mediaState (rs : List LineBits) : State :=
  (inPage (inGrid id)).modDie 0 fun d => { d with med := rs.map fun r => ⟨r, 0, 1, false, 0⟩ }

/-- What a codec answers is opaque: a statement names the answer and assumes nothing of it. -/
theorem witness_MediaResults :
    let s := mediaState [vdecRec 2 16, vdecRec 0 0, record [(0, 0x41)], record [(0, 0x42)]]
    (s.die 0).med[0]? = some ⟨vdecRec 2 16, 0, 1, false, 0⟩ ∧ has (s.die 0).medStop 1 = false ∧ recCode (vdecRec 2 16) = 0x40 ∧
    (s.die 0).med[1]? = some ⟨vdecRec 0 0, 0, 1, false, 0⟩ ∧ recNum (vdecRec 2 16) 4 1 = recNum (vdecRec 0 0) 4 1 ∧
    (s.die 0).med[2]? = some ⟨record [(0, 0x41)], 0, 1, false, 0⟩ ∧ recCode (record [(0, 0x41)]) = 0x41 ∧
    queueCode .med (recCode (record [(0, 0x42)])) = false ∧ flagsOk (vdecRec 2 16) 2 = true ∧ recNum (vdecRec 2 16) 4 1 < 64 ∧
    recNum (vdecRec 2 16) 5 1 = 1 ∧ recNum (vdecRec 2 16) 0x28 2 = 64 ∧ reserved (vdecRec 2 16) 6 8 = true ∧
    reserved (vdecRec 2 16) 0x2A 64 = true ∧ openFor (s.die 0) (vdecRec 0 0) = none ∧
    openFor (s.die 0) (vdecRec 2 16) = some ⟨1, [], [], 0, false, 0, 0, false⟩ ∧ recNum (vdecRec 2 0) 0x10 4 = 0 ∧
    (∃ v, eRead ((⟨vdecRec 2 16, 0, 1, false, 0⟩ : MedCmd).doer 0) 0 0x1000 16
      (begun (mediaState [vdecRec 2 16] |>.modDie 0 fun d => { d with tlb := [leaf false] })) = .ok v) ∧
    (∃ e, rszBody 0 ⟨record [(0, 0x41)], 0, 1, false, 0⟩ (begun s) = .error e) := by
  and_intros
  on_goal -1 => exact error_of (by decide +kernel)
  on_goal -1 => exact ok_of (by decide +kernel)
  all_goals decide +kernel

theorem witness_RegisterAndTableSteps :
    (3 < 4 ∧ 14 < 15) ∧ (14 : Word).toNat % 32 = (State.reset.core 0).spbanks ∧
    (4 : Word).toNat % 32 ≠ (State.reset.core 0).spbanks ∧
    (State.reset.core 0).sbuf = [] ∧ (State.reset.core 0).sfly = [] ∧ State.reset.namedL 0 = false ∧
    State.reset.namesBank 0 13 = false ∧ 13 < (State.reset.core 0).spbanks ∧ (State.reset.core 0).spbanks ≤ 14 ∧
    (matQ { cmdOf [(0, 4), (1, 2), (12, 1)] with begun := true } id).namesBank 0 1 = true ∧
    (3 : Word).getLsbD 2 = false ∧ (7 : Word).getLsbD 2 = true ∧ State.reset.tlbBusy 0 3 = false ∧
    canonical (0x1_0000 : Word).toNat = true ∧
    (∃ v, (State.reset.placeWord 0).walk ((State.reset.placeWord 0).who 0) (((State.reset.placeWord 0).core 0).root false) 0x1_0000 = .ok v) ∧
    canonical (0x100_0000_0000_0000 : Word).toNat = false := by
  and_intros
  all_goals first
    | decide +kernel
    | exact ok_of (by decide +kernel)

/-! Journals, arrivals and homes -/

/-- A journal entry none of whose lines is answered. -/
def entry (w : Posted) (ps : PostState) (nd : Option NodeKey) : JEntry := ⟨4, 0, w, ps, nd, [], [], []⟩

/-- Core 0's task with journal entry `w` behind others; core 1 runs a task of node `nd`. -/
def posted (w : Posted) (ps : PostState) (nd : Option NodeKey) : State :=
  (inTask fun c => { c with journal := [entry w ps nd] }).setCore 1 (running (.reset 1))

/-- A line of the own package's HBM and one of package 5. -/
def ownLine : BufLine := ⟨0x40, [(0, 1), (63, 2)], false⟩
def farLine : BufLine := ⟨5 * 2 ^ 38 + 0x40, [(0, 1)], false⟩

theorem witness_WriteOutSteps_buffer :
    let s := inTask fun c => { c with sbuf := [ownLine], sfly := [ownLine, ⟨0x40, [(8, 3)], false⟩] }
    let u := (inTask fun c => { c with sfly := [farLine] })
    st.me.sbuf = [] ∧ s.me.sbuf = [ownLine] ∧ s.me.journal = [] ∧ 64 * ownLine.line / 2 ^ 44 = s.idOf s.cur ∧
    (inTask fun c => { c with sbuf := [farLine] }).me.sbuf = [farLine] ∧ 64 * farLine.line / 2 ^ 44 ≠ s.idOf s.cur ∧
    (s.core 0).sfly[0]? = some ownLine ∧ (∀ a ∈ (s.core 0).sfly.take 0, homeOf (64 * a.line) ≠ homeOf (64 * ownLine.line)) ∧
    (∃ a ∈ (s.core 0).sfly.take 1, homeOf (64 * a.line) = homeOf (64 * 0x40)) ∧
    (let v := s.setCore 0 { s.core 0 with sfly := removeAt (s.core 0).sfly 0 }
     (v.answer (v.who 0) .store (64 * ownLine.line) 1).1 = 0) ∧
    ownLine.prot = false ∧ (ownLine.data.map (·.1)).Nodup ∧ find? ownLine.data 63 = some 2 ∧
    (u.core 0).sfly[0]? = some farLine ∧
    (let v := u.setCore 0 { u.core 0 with sfly := removeAt (u.core 0).sfly 0 }
     (v.answer (v.who 0) .store (64 * farLine.line) 1).1 = 0x51) := by
  and_intros <;> decide +kernel

theorem witness_WriteOutSteps_posted :
    let s := posted (.rst 0x1038 [1, 2, 3, 4, 5, 6, 7, 8] false) .pending none
    let f := posted (.foreign [⟨1, 0xFF_FFF8, [1, 2]⟩]) .pending none
    let far := posted (.rst (5 * 2 ^ 44 + 0x1038) [1] false) .pending none
    (s.core 0).entry 4 = some (entry (.rst 0x1038 [1, 2, 3, 4, 5, 6, 7, 8] false) .pending none) ∧
    ((posted (.rst 0 [1] false) .performed none).core 0).entry 4 = some (entry (.rst 0 [1] false) .performed none) ∧
    ((posted (.rst 0 [1] false) (.refused 0x22 7) none).core 0).entry 4 = some (entry (.rst 0 [1] false) (.refused 0x22 7) none) ∧
    s.behind (s.core 0) (entry (.rst 0x1038 [1, 2, 3, 4, 5, 6, 7, 8] false) .pending none) = false ∧ 0x1038 % 64 + 8 ≤ 64 ∧
    (s.answer (s.who 0) .store 0x1038 1).1 = 0 ∧ (far.answer (far.who 0) .store (5 * 2 ^ 44 + 0x1038) 1).1 = 0x51 ∧
    far.behind (far.core 0) (entry (.rst (5 * 2 ^ 44 + 0x1038) [1] false) .pending none) = false ∧
    (f.core 0).entry 4 = some (entry (.foreign [⟨1, 0xFF_FFF8, [1, 2]⟩]) .pending none) ∧
    f.behind (f.core 0) (entry (.foreign [⟨1, 0xFF_FFF8, [1, 2]⟩]) .pending none) = false ∧
    (let b := inTask fun c => { c with journal := [{ entry (.rst 0x1038 [1] false) .pending none with idx := 3 }, (entry (.rst 0x1030 [1] false) .pending none)] }
     (b.core 0).entry 4 = some (entry (.rst 0x1030 [1] false) .pending none) ∧
     b.behind (b.core 0) (entry (.rst 0x1030 [1] false) .pending none) = true) ∧
    (s.core 0).asyncTrap = none ∧ (s.core 0).mode = .task ∧ ((inHandler id).core 0).mode = .handler ∧
    ((inTask fun c => { c with asyncTrap := some { status := 0x22 } }).core 0).asyncTrap ≠ none := by
  and_intros <;> decide +kernel

theorem witness_ArrivalSteps :
    let x := posted (.xstore 0 [⟨1, 0xD_FFF8, [1, 2, 3, 4, 5, 6, 7, 8]⟩]) .pending (some (0, 0))
    let send := posted (.send 0 1 0xD_FFF8 63 [1, 2, 3, 4, 5, 6, 7, 8]) .pending (some (0, 0))
    let later := (posted (.send 0 1 0 63 [1]) .pending (some (0, 0))).setCore 1 { Core.reset 1 with fwd := [⟨9, (0, 0), none, []⟩] }
    (x.core 0).entry 4 = some (entry (.xstore 0 [⟨1, 0xD_FFF8, [1, 2, 3, 4, 5, 6, 7, 8]⟩]) .pending (some (0, 0))) ∧
    x.behind (x.core 0) (entry (.xstore 0 [⟨1, 0xD_FFF8, [1, 2, 3, 4, 5, 6, 7, 8]⟩]) .pending (some (0, 0))) = false ∧
    x.xRoute (some (0, 0)) 1 = .here 1 ∧ 0xD_FFF8 + 8 ≤ (x.core 1).spbanks * 0x1_0000 ∧ (x.core 1).spbanks ≤ 14 ∧
    (x.core 1).spbanks * 0x1_0000 < 0xD_FFF9 + 8 ∧ x.xRoute (some (0, 1)) 1 = .refused ∧
    later.xRoute (some (0, 0)) 1 = .later 1 ∧ (later.core 1).fwd = ⟨9, (0, 0), none, []⟩ :: [] ∧
    (later.core 0).entry 4 = some (entry (.send 0 1 0 63 [1]) .pending (some (0, 0))) ∧
    later.behind (later.core 0) (entry (.send 0 1 0 63 [1]) .pending (some (0, 0))) = false ∧
    (send.core 0).entry 4 = some (entry (.send 0 1 0xD_FFF8 63 [1, 2, 3, 4, 5, 6, 7, 8]) .pending (some (0, 0))) ∧
    send.behind (send.core 0) (entry (.send 0 1 0xD_FFF8 63 [1, 2, 3, 4, 5, 6, 7, 8]) .pending (some (0, 0))) = false ∧
    send.reaches 0 (send.pkg 0).id = true ∧ send.reaches 0 (send.pkg 1).id = false := by
  and_intros <;> decide +kernel

/-- The gang's sender has a message for instance 1 under way, of `n` held. -/
def piped (n : Nat) : State :=
  let e := entry (.pipe 0 1 0 1 [1, 2, 3, 4, 5, 6, 7, 8]) .pending (some (0, 0))
  ((inGang 1 n).modCore 0 fun c => { c with journal := [e] }).setCore 1 (running (.reset 1))

theorem witness_ArrivalSteps_pipe :
    let s := piped 1
    let d : PipeDesc := ⟨0, 8, 1, 2, 2, 0x100, 1⟩
    (s.core 0).entry 4 = some (entry (.pipe 0 1 0 1 [1, 2, 3, 4, 5, 6, 7, 8]) .pending (some (0, 0))) ∧
    s.behind (s.core 0) (entry (.pipe 0 1 0 1 [1, 2, 3, 4, 5, 6, 7, 8]) .pending (some (0, 0))) = false ∧
    s.reaches 0 (s.pkg 0).id = true ∧ s.xRoute (some (0, 0)) (0 * 2048 + 1) = .here 1 ∧
    find? s.tasks 1 = some { task0 with role := 2, taskid := 0, phase := .issued 1 } ∧
    ((s.node (0, 0)).map Node.pipes).bind (fun ps => ps.find? (·.num = 0)) = some d ∧
    (s.ring 1 0).count < d.ring ∧ (s.ring 1 0).ovr = [] ∧ d.at_ + d.ring * d.size ≤ 2 ^ 20 ∧
    d.ring ≤ ((piped 2).ring 1 0).count := by
  and_intros <;> decide +kernel

theorem witness_HomeSteps :
    let r : FeReq := ⟨1, 0x1000, .ef, 7, false, true, none⟩
    let s : State := { st with feWait := [r] }
    let a : ForeignReq := ⟨1, 8, true, .amo .add, .s64, 3, 0⟩
    s.feWait[0]? = some r ∧ (feRow r.form (has s.fe (r.word / 8))).1 = true ∧
    (feRow FeForm.ff (has s.fe (r.word / 8))).1 = false ∧
    (∀ q ∈ removeAt s.feWait 0, q.word ≠ r.word) ∧ r.word % 2 ^ 44 < 0x300_0000_0000 ∧ r.word % 8 = 0 ∧
    (removeAt s.feWait 0).length < 64 ∧ ({ r with nack := false }).nack = false ∧
    s.feDefers r = false ∧ { r with prot := false }.prot = false ∧
    (s.homeRead (s.who r.core) .atomic r.word 8).toBool = true ∧
    ({ s with ue := [0x1003] }.homeRead (s.who r.core) .atomic r.word 8).toBool = false ∧
    (let u := { s with pkgs := [(0, { s.pkg 0 with parity := some { group 2 with busy := some 4 }, joined := true })] }
     u.feDefers { r with prot := true } = true) ∧
    ((inTask fun c => { c with wait := .foreign a none }).core 0).wait = .foreign a none ∧ a.hs = true ∧
    ({ a with hs := false }).hs = false ∧ a.op.new a.ty 5 a.v a.cmp = some 8 ∧
    AtomicOp.new .cas .s64 5 3 0 = none := by
  and_intros <;> decide +kernel

theorem witness_HomeSteps_deltas :
    let d : Delta := ⟨1, 5, 0, some 0, 0x40, 0xFF, false⟩
    let s : State := { st with deltas := [d, { d with write := 2 }, { d with write := 3, line := 0x80, applied := true },
      { d with write := 4, slice := 1 }] }
    s.deltas[0]? = some d ∧ (∀ e ∈ s.deltas.take 0, e.sameWay d = true → e.applied = true) ∧
    s.deltas[1]? = some { d with write := 2 } ∧ (∃ e ∈ s.deltas.take 1, e.sameWay d = true ∧ e.applied = false) ∧
    (∀ e ∈ s.deltas.take 3, e.sameWay { d with slice := 1 } = true → e.applied = true) ∧
    (∀ e ∈ s.deltas, e.write = 3 → e.applied = true) ∧ (∃ e ∈ s.deltas, e.write = 1 ∧ e.applied = false) := by
  decide +kernel

theorem witness_UnitSteps_events :
    let w (f : Cluster → Cluster) : State := unit0 (inGrid id) f
    let m : EventMsg := .arrival 60 (0, 0) 511 1 0x1000
    let full := (upFrom 0 48).map fun i => (i, ((1, i) : NodeKey))
    ((w fun c => { c with fly := [m] }).cluster 0).fly = [m] ∧ (w id).live (0, 0) = true ∧ (w id).live (1, 0) = false ∧
    ((w fun c => { c with windows := [(2, (0, 0))] }).cluster 0).windows.find? (·.2 = (0, 0)) = some (2, (0, 0)) ∧
    ((w id).cluster 0).entry (512 * 2 + 511) = ⟨0, 0, 0⟩ ∧
    leastFrom (fun i => (find? ((w fun c => { c with windows := [(0, (1, 0))] }).cluster 0).windows i).isNone) 0 48 = some 1 ∧
    ((w fun c => { c with windows := full }).cluster 0).windows.find? (·.2 = (0, 0)) = none ∧
    leastFrom (fun i => (find? full i).isNone) 0 48 = none ∧
    ((w fun c => { c with fly := [.evsig 60 255] }).cluster 0).fly = [.evsig 60 255] ∧
    ((w fun c => { c with refused := [m] }).cluster 0).refused = m :: [] := by
  and_intros <;> decide +kernel

theorem witness_UnitSteps_core :
    let t : Trap := { status := 0x22, source := 2 }
    (inTask fun c => { c with asyncTrap := some t }).me.asyncTrap = some t ∧
    (inTask fun c => { c with asyncTrap := some t }).me.wait = .none ∧
    (Wait.event (some 1)).granted = true ∧ (inHandler id).me.mode = .handler ∧
    (16 < (inTask fun c => { c with ras := (upFrom 0 17).map (BitVec.ofNat 64), rasD := 17 }).me.ras.length) ∧
    (inTask fun c => { c with ras := (upFrom 0 17).map (BitVec.ofNat 64), rasD := 17 }).me.ras.getLast? = some 16 ∧
    (inTask fun c => { c with ras := [1, 2], rasD := 3 }).me.ras.length < min 3 16 ∧
    (let f : Forwarded := ⟨0x1_0002, none, .nop g0, 0x1_0004, false⟩
     let m : Member := { member 1 true with fly := [f] }
     (inTask fun c => { c with member := some m }).me.member = some m ∧ m.fly = f :: [] ∧ m.buf.length < 32 ∧
     32 ≤ (List.replicate 32 f).length) := by
  and_intros <;> decide +kernel

theorem witness_UnitSteps_errors :
    let s := engineGrid fun e => { e with bslots := [(3, ⟨1, 0, false, [5], 127, [], []⟩)], acc := [(7, ⟨1, 0, [], []⟩)] }
    find? (s.core 0).eng.bslots 3 = some ⟨1, 0, false, [5], 127, [], []⟩ ∧ find? (s.core 0).eng.acc 7 = some ⟨1, 0, [], []⟩ ∧
    (s.pkg (corePkg 0)).counters.accce < 2 ^ 64 - 1 ∧ (s.pkg (s.ownerOf (0x1000 / 2 ^ 44))).counters.memce < 2 ^ 64 - 1 := by
  decide +kernel

/-! The dispatcher -/

/-- Identity pages over the first 2^38 bytes of package 0's HBM, for its firmware: tables at 0x10_0000. -/
def mapped (s : State) : State :=
  let t := (((s.setBytes 0x10_0000 (toBytes 8 0x10_1001)).setBytes 0x10_1000 (toBytes 8 0x10_2001))).setBytes 0x10_2000
    (toBytes 8 (0xB9 + 13 * 2 ^ 60))
  t.setCore 1536 { t.core 1536 with ptroot0 := 0x10_0000 }

/-- The header of a task that works in space 3 with radius 1. -/
def spaceHdr : Header := { hdr with space := some 3, radius := 1 }

/-- A task of the grid that works on element 5. -/
def worker (p : TaskPhase) : Task := { task0 with hdr := spaceHdr, phase := p, claims := [], stamp := 0 }

/-- The grid with tasks in its list, cores 1 and 2 free, and space 3 of 8 elements, without neighbours: its lists at 0x1000
and 0x2000, its claim words at 0x3000. -/
def dispatched (ts : List (Nat × Task)) : State :=
  let g := { grid .running with nodes := [⟨.kernel spaceHdr 0 1, [], 0, 0⟩] }
  let s : State := { core0 id with graphs := [(0, g)], tasks := ts, fresh := 9 }
  let s := s.modPkg 0 fun p => { p with spaces := [(3, ⟨8, 0x1000, 0x2000, 0x3000, 0⟩)] }
  mapped ((s.setCore 1 { Core.reset 1 with run := .idle }).setCore 2 { Core.reset 2 with run := .idle })

/-- Element 5 has the one neighbour `e`. -/
def neighbour (s : State) (e : Nat) : State := (s.setBytes 0x1030 (toBytes 8 1)).setBytes 0x2000 (toBytes 8 e)

theorem witness_HobbleSteps :
    let t := worker .queued
    let s := dispatched [(0, t)]
    let free := { t with elem := none }
    find? s.tasks 0 = some t ∧ s.firstInOrder 0 t = true ∧ s.hobbles t.cluster < 16 ∧ s.claimSet t = .ok (some [5]) ∧
    s.ownWord t = .ok () ∧ s.aged t = false ∧ s.aged { t with old := true } = true ∧
    (let u := dispatched [(0, free)]
     u.firstInOrder 0 free = true ∧ free.elem = none ∧ u.claimSet free = .ok (some []) ∧ u.ownWord free = .ok ()) ∧
    ((neighbour s 2).claimSet t = .ok (some [5, 2]) ∨ (neighbour s 2).claimSet t = .ok (some [2, 5])) ∧
    (let u := neighbour s 8
     u.firstInOrder 0 t = true ∧ u.claimSet t = .error (0x48, .none)) ∧
    (let u := s.modPkg 0 fun p => { p with spaces := [(3, ⟨8, 0x1000, 0x2000, 0x100_0000_0000_0000, 0⟩)] }
     u.firstInOrder 0 t = true ∧ u.claimSet t = .ok (some [5]) ∧ u.ownWord t = .error (0x49, .none)) ∧
    s.launchOf t.graph ≠ none ∧
    (let u := dispatched [(0, t), (1, { t with hdr := { spaceHdr with prio := 3 } })]
     u.firstInOrder 0 t = false ∧ u.noneBefore 0 t = false) ∧
    (let l := (upFrom 1 16).map fun i => (i, { t with phase := TaskPhase.releasing })
     16 ≤ (dispatched ((0, t) :: l)).hobbles t.cluster ∧ (dispatched ((0, t) :: l)).claimSet t ≠ .ok none) ∧
    (worker .waiting).phase = .waiting := by
  and_intros <;> decide +kernel

theorem witness_ClaimSteps :
    let t := worker (.hobbling [5, 2])
    let s := dispatched [(0, t)]
    let at_ (w : Nat) : State := { s.setBytes 0x300A (toBytes 2 w) with resv := [⟨s.sliceOf 0x300A, 255, 7, 0x300A⟩] }
    find? s.tasks 0 = some t ∧ s.live t.key = true ∧ s.wordOf t 5 = .ok 0x300A ∧ 0x300A % 2 ^ 44 < 0x300_0000_0000 ∧
    ((at_ 0x8000).num 0x300A 2).testBit 15 = true ∧ (at_ 0x40FF).wordOf t 5 = .ok 0x300A ∧
    ((at_ 0x40FF).num 0x300A 2).testBit 14 = true ∧
    (at_ 0x40FF).entryTask ((at_ 0x40FF).sliceOf 0x300A) (((at_ 0x40FF).num 0x300A 2) % 256) = some 7 ∧
    (s.num 0x300A 2).testBit 15 = false ∧ (s.num 0x300A 2).testBit 14 = false ∧ s.freeEntry (s.sliceOf 0x300A) = some 0 ∧
    (s.modPkg 0 fun p => { p with spaces := [] }).wordOf t 5 = .error (0x49, .none) ∧
    (s.answer (dispatcherOf t.pkg) .atomic 0x300A 2).1 = 0 ∧ (s.answer (dispatcherOf t.pkg) .atomic (5 * 2 ^ 44) 2).1 ≠ 0 ∧
    (let r := { worker .releasing with claims := [(5, 0x300A)] }
     find? (dispatched [(0, r)]).tasks 0 = some r ∧ r.phase = .releasing ∧ r.claims = (5, 0x300A) :: []) ∧
    (let r := worker (.reserving [5])
     let u := dispatched [(0, r)]
     find? u.tasks 0 = some r ∧ u.live r.key = true ∧ u.wordOf r 5 = .ok 0x300A ∧
       (u.reserve 0x300A 0 r).claimSet r = .ok (some [5]) ∧ (u.reserve 0x300A 0 r).ownWord r = .ok ()) ∧
    (let r := worker (.reserving [5, 2])
     let u := { dispatched [(0, r), (7, { r with stamp := 3 })] with resv := [⟨s.sliceOf 0x300A, 255, 7, 0x300A⟩] }
     find? u.tasks 7 = some { r with stamp := 3 } ∧ r.older { r with stamp := 3 } = true) := by
  and_intros <;> decide +kernel

/-- A table of 256 entries of one slice, all in use. -/
def fullTable (s : State) : State := { s with resv := (upFrom 0 256).map fun i => ⟨s.sliceOf 0x300A, i, 7, 0x300A⟩ }

theorem witness_ClaimSteps_full :
    let s := fullTable (dispatched [(0, worker (.reserving [5, 2]))])
    s.freeEntry (s.sliceOf 0x300A) = none ∧ (s.num 0x300A 2).testBit 14 = false := by
  refine ⟨?_, ?_⟩ <;> decide +kernel

theorem rises_two {s : State} {a b : Nat} {x y : Task} (e : s.tasks = [(a, x), (b, y)]) (h : a < b) : s.TasksRise := by
  unfold State.TasksRise
  rw [e]
  simp [h]

theorem rises_one {s : State} {a : Nat} {x : Task} (e : s.tasks = [(a, x)]) : s.TasksRise := by
  unfold State.TasksRise
  rw [e]
  simp

theorem witness_IssueSteps :
    let t := worker .granted
    let s := dispatched [(0, t)]
    s.TasksRise ∧ find? s.tasks 0 = some t ∧ s.lowestFree t.cluster = some 1 ∧ s.mayIssue 0 t = true ∧
    s.resumeFirst t.cluster t.hdr.prio = false ∧ (inGrid id).lowestFree 0 = none ∧
    (dispatched [(0, worker .queued)]).mayIssue 0 (worker .queued) = false ∧
    (dispatched [(0, t), (1, worker (.suspended 1 0 false))]).resumeFirst t.cluster t.hdr.prio = true := by
  refine ⟨rises_one rfl, ?_⟩
  and_intros <;> decide +kernel

/-- The two tasks of a gang of one instance of each role, queued, with `n` free cores. -/
def gangReady (n : Nat) : State :=
  let h := { hdr with pipes := 1 }
  let node : Node := ⟨.gang [h, h] [1, 1] [⟨0, 8, 1, 2, 2, 0x100, 1⟩], [], 0, 0⟩
  let s : State := { core0 id with
    graphs := [(0, { grid .running with nodes := [node] })], fresh := 2
    tasks := [(0, { task0 with role := 1, phase := .queued, hdr := h }),
      (1, { task0 with role := 2, phase := .queued, hdr := h })] }
  (upFrom 1 n).foldl (fun s k => s.setCore k { Core.reset k with run := .idle }) s

theorem witness_IssueSteps_gang :
    (gangReady 1).TasksRise ∧ (gangReady 2).TasksRise ∧
    (∃ n, (gangReady 2).node (0, 0) = some n ∧ n.counts ≠ []) ∧ (gangReady 2).gangFits (0, 0) = true ∧
    (gangReady 1).gangFits (0, 0) = false ∧
    (gangReady 2).gangFirst (0, 0) = true ∧
    (let u := { gangReady 2 with tasks := (gangReady 2).tasks ++ [(2, { task0 with phase := .suspended 1 0 false })] }
     (∀ x ∈ u.tasksOf (0, 0), u.resumeFirst x.2.cluster x.2.hdr.prio = true) ∧ u.gangFirst (0, 0) = false) ∧
    (let single (p : TaskPhase) : Task := { task0 with node := 1, phase := p, stamp := 0 }
     let u (p : TaskPhase) : State := { gangReady 3 with
       graphs := (gangReady 3).graphs.map fun x => (x.1, { x.2 with
         nodes := x.2.nodes ++ [⟨.kernel hdr 0 1, [], 0, 0⟩]
         launch := x.2.launch.map fun l => { l with nodes := l.nodes ++ [(1, { NodeSt.idle with run := .running })] } })
       tasks := (gangReady 3).tasks ++ [(2, single p)] }
     (u .granted).mayIssue 2 (single .granted) = true ∧ (u .queued).eligible 2 (single .queued) = true ∧
       ∀ x ∈ (u .queued).tasksOf (0, 0), (single .queued).before x.2 = true) ∧
    ((gangReady 2).issueAll ((gangReady 2).tasksOf (0, 0))).isSome = true := by
  refine ⟨rises_two rfl (by decide), rises_two rfl (by decide), ⟨_, rfl, by decide⟩, ?_⟩
  and_intros <;> decide +kernel

theorem witness_IssueSteps_retire :
    let s := inGrid fun c => { c with wait := .exit }
    s.TasksRise ∧ (s.core 0).wait = .exit ∧ (s.core 0).sbuf = [] ∧ (s.core 0).sfly = [] ∧ s.mayRetire 0 = true ∧
    (s.core 0).task = some ctx ∧ ctx.id < s.fresh ∧ s.abandons ctx = false ∧
    (engineGrid fun e => { e with mat := [cmd 4] }).mayRetire 0 = false ∧
    (∃ x, (inGang 2 1).me.task = some x ∧ (inGang 2 1).abandons x = true) :=
  ⟨rises_one rfl, rfl, rfl, rfl, by decide +kernel, rfl, by decide, by decide +kernel, by decide +kernel,
    ⟨_, rfl, by decide +kernel⟩⟩

/-- A task of graph 1 and of class 3 waits for a core, where core 0 runs one of graph 0 and class `p`. -/
def contended (p : Nat) (f : Core → Core) : State :=
  let u : Task := { task0 with graph := 1, hdr := { hdr with prio := 3 }, phase := .queued, issues := 0 }
  { inTask (fun c => f { c with task := some { ctx with hdr := { hdr with prio := p } } }) with
    graphs := [(0, grid .running), (1, { grid .running with num := 1 })], tasks := [(0, task0), (1, u)], fresh := 2 }

theorem witness_PreemptRequests :
    let vs (s : State) := ((List.range 48).filter fun k => (s.tasks.filter fun t => t.2.cluster == 0 && !t.2.ovr && t.2.core.isNone &&
      s.admits t.2.key 0).any fun u => s.victim u.2 k)
    (contended 2 id).lowestFree 0 = none ∧ vs (contended 2 id) = [0] ∧ vs (contended 3 id) = [] ∧
    (contended 2 id).canSave ((contended 2 id).unit 0) = true ∧
    (let s := contended 2 fun c => { c with fwd := List.replicate 16 ⟨9, (0, 0), none, []⟩ }
     s.lowestFree 0 = none ∧ vs s = [0] ∧ s.canSave (s.unit 0) = false) ∧
    (dispatched [(0, worker .queued)]).lowestFree 0 ≠ none := by
  refine ⟨?_, ?_, ?_, ?_, ⟨?_, ?_, ?_⟩, ?_⟩ <;> decide +kernel

theorem witness_SuspendSteps :
    let s := inGrid fun c => { c with preempt := true }
    find? s.tasks 0 = some task0 ∧ (s.core 0).task = some ctx ∧ ctx.id = 0 ∧ (s.core 0).sbuf = [] ∧ (s.core 0).sfly = [] ∧
    s.maySuspend 0 = true ∧ (inGrid id).maySuspend 0 = false ∧ task0.image.or (s.pkg task0.pkg).freeImage = some 0 ∧
    task0.pkg = corePkg 0 ∧ (s.core 0).member = none ∧
    ((s.withdraw 0).modCore 0 Core.detach).saveFails 0 (s.imageAt 0 0) hdr.scratch = none ∧
    (let u := { s with ue := [0x200_0000_0008] }
     u.maySuspend 0 = true ∧ ((u.withdraw 0).modCore 0 Core.detach).saveFails 0 (u.imageAt 0 0) hdr.scratch ≠ none) := by
  and_intros <;> decide +kernel

/-- Task 0 suspended from core 0, which is free, as core 1 is. -/
def asleep (arrived : Bool) : State :=
  let s : State := { core0 fun c => { c with run := .idle, fwd := [⟨0, (0, 0), none, []⟩] } with
    graphs := [(0, grid .running)], fresh := 1
    tasks := [(0, { task0 with phase := .suspended 0 0 arrived, image := some 0, hdr := { hdr with scope := 1 } })] }
  s.setCore 1 { Core.reset 1 with run := .idle }

/-- Where the context images lie is the firmware's choice, an opaque constant; a statement that reads an image asks that
it lie in HBM, as R454 says. -/
theorem witness_SuspendSteps_resume :
    let t : Task := { task0 with phase := .suspended 0 0 true, image := some 0, hdr := { hdr with scope := 1 } }
    let s := asleep true
    let mated := { t with member := some (member 1 false) }
    find? s.tasks 0 = some t ∧ t.phase = .suspended 0 0 true ∧ s.whole 0 t = true ∧ s.freeCore 0 = true ∧ s.mayResume t 0 = true ∧
    s.mayTake [0] (s.lead 0 t) 0 0 = true ∧ s.resumeWith 0 t = [] ∧ s.places [0] [] = some [] ∧ s.spilled 0 0 = [] ∧
    (s.ensureWindow t.key 0).restoreFails 0 (s.imageAt 0 0) hdr.scratch = none ∧
    s.ownerImage t.pkg t.ctxid = some (t, 0) ∧
    t.hdr.scratch ≤ 0xE_0000 ∧ (s.core 0).spbanks ≤ 14 ∧ s.freeCore 2 = false ∧ s.mayResume t 48 = false ∧
    (∀ b ∈ (s.core 0).eng.bslots, b.2.owner ≠ t.ctxid) ∧
    (let u := { s with tasks := [(0, t), (1, { task0 with phase := .queued, hdr := { hdr with prio := 3 } })] }
     u.whole 0 t = true ∧ u.resumeWith 0 t = [] ∧ u.mayTake [0] (u.lead 0 t) 0 0 = false) ∧
    (let u := { s with tasks := [(0, mated), (1, { mated with phase := .suspended 1 1 false })] }
     u.whole 0 mated = true ∧ u.places [0] (u.resumeWith 0 mated) = some [(1, 1)] ∧
       u.mayTake [0, 1] (u.lead 0 mated) 0 0 = true ∧ u.mayTake [0, 1] (u.lead 0 mated) 1 1 = true) ∧
    (let u := { s with tasks := [(0, mated), (1, { mated with phase := .suspended 2 1 false })] }
     u.places [0] (u.resumeWith 0 mated) = none) ∧
    (let u := { s.modCore 2 fun c => { c with member := mated.member, preempt := true } with
       tasks := [(0, mated), (1, { mated with phase := .issued 2 })] }
     u.whole 0 mated = false) ∧
    ({ t with harn := some 5 }.harn.elim (Wait.arrived) fun x => .harn x none) = .harn 5 none := by
  and_intros <;> decide +kernel

/-- A control node whose word stands at 0x1000, in the graph controller's reach; `run` is its state. -/
def controlled (k : NodeKind) (run : NodeRun) (passes w : Nat) : State :=
  let st := { NodeSt.idle with run := run, passes := passes }
  let g := { grid .running with
    nodes := [⟨k, [], 0, 0⟩, ⟨.kernel hdr 0 1, [], 0, 0⟩]
    launch := some ⟨1, [(0, st), (1, { NodeSt.idle with run := .done })], 1, 0, .running, false⟩ }
  mapped ({ core0 id with graphs := [(0, g)] } |>.setBytes 0x1000 (toBytes 8 w))

theorem witness_ControlNodeSteps :
    let word (s : State) (a : Word) := s.serviceWord (dispatcherOf (graphPkg 0)) a.toNat
    let due (s : State) (k : NodeKind) : Bool := match s.launchOf 0 with
      | some l => !l.faulted && l.stage == .running && controlDue l 0 ⟨k, [], 0, 0⟩
      | none => false
    let loop : NodeKind := .loop 0x1000 1 1 3
    due (controlled (.cond 0x1000) .ready 0 0) (.cond 0x1000) = true ∧
    word (controlled (.cond 0x1000) .ready 0 0) 0x1000 = .ok 0 ∧
    word (controlled (.cond 0x1000) .ready 0 (2 ^ 63)) 0x1000 = .ok (2 ^ 63) ∧
    due (controlled (.switch 0x1000 4) .ready 0 4) (.switch 0x1000 4) = true ∧
    word (controlled (.switch 0x1000 4) .ready 0 4) 0x1000 = .ok 4 ∧
    due (controlled loop .running 2 1) loop = true ∧ word (controlled loop .running 2 1) 0x1000 = .ok 1 ∧
    ((controlled loop .running 2 1).nodeSt (0, 0)).passes < 3 ∧ 3 ≤ ((controlled loop .running 3 1).nodeSt (0, 0)).passes ∧
    word (controlled (.cond 0x100_0000_0000_0000) .ready 0 0) 0x100_0000_0000_0000 = .error (0x25, .none) ∧
    (NodeKind.kernel hdr 0 1).isGrid = true ∧ due (controlled loop .done 0 1) loop = false ∧ 0 < 1 := by
  and_intros <;> decide +kernel

/-- The grid with its node faulted. -/
def stopped (f : Core → Core) (ts : List (Nat × Task)) : State :=
  { inTask f with graphs := [(0, grid .faulted)], tasks := ts, fresh := 1 }

theorem witness_GridEndSteps :
    let s := stopped id [(0, task0)]
    ((inGrid id).nodeSt (0, 0)).run ≠ .faulted ∧ (s.nodeSt (0, 0)).run = .faulted ∧ (stopped id []).tasksOf (0, 0) = [] ∧
    s.TasksRise ∧
    s.tasksOf (0, 0) = [(0, task0)] ∧ 0 < s.fresh ∧ task0.phase = .issued 0 ∧ (s.core 0).run = .running ∧
    (s.core 0).mode = .task ∧
    (s.core 0).wait = .none ∧ (s.core 0).asyncTrap = none ∧ (s.core 0).member = none ∧ (s.core 0).sbuf = [] ∧
    (s.core 0).sfly = [] ∧
    (s.core 0).journal = [] ∧ (s.core 0).eng.cpy.any (·.begun) = false ∧
    (s.core 0).loads = [] ∧ (s.core 0).due ≠ .access ∧
    ((stopped (fun c => { c with journal := [entry (.rst 0x1038 [1] false) .pending none] }) [(0, task0)]).core 0).journal ≠ [] :=
  ⟨by decide +kernel, by decide +kernel, by decide +kernel, rises_one rfl, by and_intros <;> decide +kernel⟩

/-! A claim set of more than 65,536 elements -/

/-- What the dispatcher's reads below 2^30 need: the page tables at 0x10_0000, and a memory that lists low addresses only. -/
structure Crowd (s : State) : Prop where
  cores : s.cores = (dispatched []).cores
  pkgs : s.pkgs = [(0, { Package.reset 0 with spaces := [(3, ⟨8, 0x1000, 0x2000, 0x3000, 0⟩)] })] ∨
    s.pkgs = [(0, { Package.reset 0 with spaces := [(3, ⟨100000, 0x1000, 0x100_0000, 0x400_0000, 0⟩)] })]
  ue : s.ue = []
  low : ∀ x ∈ s.mem, x.1 < 2 ^ 38
  t4 : s.num 0x10_0000 8 = 0x10_1001
  t3 : s.num 0x10_1000 8 = 0x10_2001
  t2 : s.num 0x10_2000 8 = 0xD000_0000_0000_00B9

theorem Crowd.pkg0 {s : State} (h : Crowd s) : (s.pkg 0).id = 0 := by
  rcases h.pkgs with e | e <;> simp [State.pkg, e, find?, Package.reset]

theorem Crowd.answers {s : State} (h : Crowd s) (k : AccKind) (a n : Nat) (ha : a < 2 ^ 38) :
    s.homeRead (dispatcherOf 0) k a n = .ok (s.bytes a n) := by
  have hid : s.idOf 1536 = 0 := h.pkg0
  have h44 : a / 2 ^ 44 = 0 := by omega
  have hreg : region (a % 2 ^ 44) = .hbm := by unfold region; rw [if_pos (by omega)]
  have hsec : s.secure a = false := by
    unfold State.secure
    have : (s.mem.filter fun c => (a / 2 ^ 44 * 2 ^ 44 + 0x300_0001_0000 + 0x100_0000 * homeDie (a % 2 ^ 44)) ≤ c.1 &&
        c.1 < (a / 2 ^ 44 * 2 ^ 44 + 0x300_0001_0000 + 0x100_0000 * homeDie (a % 2 ^ 44)) + 512) = [] := by
      rw [List.filter_eq_nil_iff]
      intro x hx
      have := h.low x hx
      simp only [Bool.and_eq_true, decide_eq_true_eq, not_and]
      omega
    simp only [this]
    rfl
  have hr : s.reaches 1536 0 = true := by simp [State.reaches, hid]
  have ha' : (s.answer (dispatcherOf 0) k a n).1 = 0 := by
    unfold State.answer dispatcherOf
    simp only [h44, hr, hreg, hsec]
    rfl
  unfold State.homeRead
  generalize s.answer (dispatcherOf 0) k a n = p at ha'
  obtain ⟨st, nt⟩ := p
  simp only at ha'
  subst ha'
  simp [State.bad, h.ue]

/-- The page of 2^38 bytes that the tables give. -/
def bigLeaf : Leaf := ⟨0x10_0000, 0, 13, 0, true, true, true, true, false, false, false⟩

theorem leafOf_low (a : Nat) (ha : a < 2 ^ 30) : leafOf 0x10_0000 a 0xD000_0000_0000_00B9 = bigLeaf := by
  have hb : a - a % (4096 * 4 ^ (0xD000_0000_0000_00B9 / 2 ^ 60)) = 0 := by
    rw [show 0xD000_0000_0000_00B9 / 2 ^ 60 = 13 from by norm_num, Nat.mod_eq_of_lt (by norm_num; omega)]
    omega
  unfold leafOf
  simp only [hb]
  decide +kernel

theorem bigLeaf_ok (s : State) : s.leafOk 0 3 0xD000_0000_0000_00B9 bigLeaf = true := by
  unfold State.leafOk
  rw [if_neg (show ¬ bigLeaf.f = true by decide)]
  decide +kernel

theorem Crowd.tableOk {s : State} (h : Crowd s) (t : Nat) (ht : t < 2 ^ 38) : s.tableOk 0 t = true := by
  unfold State.tableOk
  rw [h.pkg0]
  simp only [Bool.and_eq_true, beq_iff_eq, decide_eq_true_eq]
  omega

/-- One level of the walk, on an entry that points to the next table. -/
theorem Crowd.down {s : State} (h : Crowd s) (a l t u : Nat) (ht : t < 2 ^ 30) (hx : a / 2 ^ (9 * l + 12) % 512 = 0)
    (hn : s.num t 8 = u * 4096 + 1) (hu : u < 2 ^ 20) :
    s.walkFrom (dispatcherOf 0) 0x10_0000 a (l + 1) t = s.walkFrom (dispatcherOf 0) 0x10_0000 a l (u * 4096) := by
  conv_lhs => unfold State.walkFrom
  rw [show corePkg (dispatcherOf 0).core = 0 from rfl, h.tableOk t (by omega), hx, Nat.mul_zero, Nat.add_zero,
    h.answers _ _ _ (by omega)]
  have e : ofBytes (s.bytes t 8) = u * 4096 + 1 := hn
  have h0 : bitOf (u * 4096 + 1) 0 = true := by simp only [bitOf, beq_iff_eq]; omega
  have h3 : bitOf (u * 4096 + 1) 3 = false := by simp only [bitOf, beq_eq_false_iff_ne]; omega
  have h4 : bitOf (u * 4096 + 1) 4 = false := by simp only [bitOf, beq_eq_false_iff_ne]; omega
  have h5 : bitOf (u * 4096 + 1) 5 = false := by simp only [bitOf, beq_eq_false_iff_ne]; omega
  have h6 : bitOf (u * 4096 + 1) 6 = false := by simp only [bitOf, beq_eq_false_iff_ne]; omega
  have d56 : (u * 4096 + 1) / 2 ^ 56 = 0 := by omega
  have d8 : (u * 4096 + 1) / 2 ^ 8 % 16 = 0 := by omega
  have d2 : (u * 4096 + 1) / 2 % 4 = 0 := by omega
  have d12 : (u * 4096 + 1) / 2 ^ 12 % 2 ^ 44 * 4096 = u * 4096 := by omega
  simp only [e, h0, h3, h4, h5, h6, d56, d8, d2, d12]
  rfl

theorem Crowd.walk {s : State} (h : Crowd s) (a : Nat) (ha : a < 2 ^ 30) : s.walk (dispatcherOf 0) 0x10_0000 a = .ok bigLeaf := by
  have hid : s.idOf (dispatcherOf 0).core = 0 := h.pkg0
  unfold State.walk
  rw [hid, show 0 * 2 ^ 44 + 0x10_0000 = 0x10_0000 from rfl,
    h.down a 4 0x10_0000 0x101 (by omega) (by omega) h.t4 (by omega),
    h.down a 3 0x10_1000 0x102 (by omega) (by omega) h.t3 (by omega)]
  unfold State.walkFrom
  rw [show corePkg (dispatcherOf 0).core = 0 from rfl, h.tableOk _ (by omega), show a / 2 ^ (9 * 2 + 12) % 512 = 0 by omega,
    h.answers _ _ _ (by omega)]
  have e : ofBytes (s.bytes (0x102 * 4096 + 8 * 0) 8) = 0xD000_0000_0000_00B9 := h.t2
  have h0 : bitOf 0xD000_0000_0000_00B9 0 = true := by decide +kernel
  have h3 : bitOf 0xD000_0000_0000_00B9 3 = true := by decide +kernel
  simp [e, h0, h3, leafOf_low a ha, bigLeaf_ok s]

theorem Crowd.root {s : State} (h : Crowd s) : (s.core 1536).root false = 0x10_0000 := by
  rw [show s.core 1536 = (dispatched []).core 1536 by unfold State.core; rw [h.cores]]
  decide +kernel

theorem canonical_low (a : Nat) (ha : a < 2 ^ 30) : canonical a = true := by
  unfold canonical
  rw [show a / 2 ^ 56 = 0 by omega]
  rfl

theorem Crowd.pa {s : State} (h : Crowd s) (a : Nat) (ha : a < 2 ^ 30) : s.servicePa (dispatcherOf 0) a = .ok a := by
  have hm : a % 2 ^ 57 = a := Nat.mod_eq_of_lt (Nat.lt_trans ha (by decide))
  have hr : (s.core (dispatcherOf 0).core).root false = 0x10_0000 := h.root
  have hf : bigLeaf.f = false := rfl
  have hp : bigLeaf.pa = 0 := rfl
  have hb : bigLeaf.base = 0 := rfl
  simp only [State.servicePa, canonical_low a ha, hr, hm, h.walk a ha, hf, hp, hb, Bool.not_true, Bool.false_eq_true, if_false,
    Nat.sub_zero, Nat.zero_add]

theorem Crowd.word {s : State} (h : Crowd s) (a : Nat) (ha : a < 2 ^ 30) :
    s.serviceWord (dispatcherOf 0) a = .ok (s.num a 8) := by
  unfold State.serviceWord State.num
  rw [h.pa a ha]
  simp only [h.answers _ _ _ (show a < 2 ^ 38 by omega)]
  rfl

/-- A write of a word of HBM that is no table keeps it. -/
theorem Crowd.setBytes {s : State} (h : Crowd s) (a x : Nat) (ha : a < 0x10_0000 - 8 ∨ 0x10_3000 ≤ a) (hb : a < 2 ^ 30) :
    Crowd (s.setBytes a (toBytes 8 x)) := by
  have hfields : ∀ (l : List Byte) (u : State) (b : Nat), (u.setBytes b l).cores = u.cores ∧ (u.setBytes b l).pkgs = u.pkgs ∧
      (u.ue = [] → (u.setBytes b l).ue = []) := by
    intro l
    induction l with
    | nil => exact fun _ _ => ⟨rfl, rfl, id⟩
    | cons y r ih =>
      intro u b
      obtain ⟨h1, h2, h3⟩ := ih (u.setByte b y) (b + 1)
      exact ⟨h1, h2, fun e => h3 (by show delNat u.ue b = []; rw [e]; rfl)⟩
  have hlow : ∀ (l : List Byte) (u : State) (b : Nat), (∀ y ∈ u.mem, y.1 < 2 ^ 38) → b + l.length ≤ 2 ^ 38 →
      ∀ y ∈ (u.setBytes b l).mem, y.1 < 2 ^ 38 := by
    intro l
    induction l with
    | nil => exact fun _ _ h _ => h
    | cons y r ih =>
      intro u b hu hl
      simp only [List.length_cons] at hl
      exact ih _ _ (low_put hu _ _ (by omega)) (by omega)
  have hlen : (toBytes 8 x).length = 8 := length_toBytes 8 x
  have hnum : ∀ b, (b + 8 ≤ a ∨ a + 8 ≤ b) → (s.setBytes a (toBytes 8 x)).num b 8 = s.num b 8 := by
    intro b hb
    unfold State.num
    exact congrArg ofBytes (State.bytes_congr fun i hi => by rw [State.byte_setBytes, hlen, if_neg (by omega)])
  obtain ⟨h1, h2, h3⟩ := hfields (toBytes 8 x) s a
  exact ⟨h1.trans h.cores, h2 ▸ h.pkgs, h3 h.ue, hlow _ _ _ h.low (by omega), (hnum _ (by omega)).trans h.t4,
    (hnum _ (by omega)).trans h.t3, (hnum _ (by omega)).trans h.t2⟩

/-- A task on element 70,000, whose 65,536 neighbours are the elements 0 to 65,535. -/
def crowdTask : Task := { worker .queued with elem := some 70000 }

/-- The state with its neighbour list empty, and 65,536 entries declared. -/
@[irreducible] def crowdBase : State :=
  { dispatched [(0, crowdTask)] with
    pkgs := [(0, { Package.reset 0 with spaces := [(3, ⟨100000, 0x1000, 0x100_0000, 0x400_0000, 0⟩)] })] }.setBytes 0x8_9B88
      (toBytes 8 65536)

/-- The state with the first `n` entries of its neighbour list written. -/
def crowd : Nat → State
  | 0 => crowdBase
  | n + 1 => (crowd n).setBytes (0x100_0000 + 8 * n) (toBytes 8 n)

theorem crowd_succ (n : Nat) : crowd (n + 1) = (crowd n).setBytes (0x100_0000 + 8 * n) (toBytes 8 n) := rfl

theorem setBytes_only (l : List Byte) : ∀ (s : State) (a : Nat), ∃ m u, s.setBytes a l = { s with mem := m, ue := u } := by
  induction l with
  | nil => exact fun s _ => ⟨s.mem, s.ue, rfl⟩
  | cons x r ih =>
    intro s a
    obtain ⟨m, u, e⟩ := ih (s.setByte a x) (a + 1)
    exact ⟨m, u, e⟩

theorem crowd_only (n : Nat) : ∃ m u, crowd n = { crowdBase with mem := m, ue := u } := by
  induction n with
  | zero => exact ⟨crowdBase.mem, crowdBase.ue, rfl⟩
  | succ n ih =>
    obtain ⟨m, u, e⟩ := ih
    rw [crowd_succ]
    generalize 0x100_0000 + 8 * n = a
    generalize toBytes 8 n = l
    obtain ⟨m', u', e'⟩ := setBytes_only l (crowd n) a
    rw [e', e]
    exact ⟨m', u', rfl⟩

theorem crowdBase_cores : crowdBase.cores = (dispatched []).cores := by
  unfold crowdBase
  rfl

theorem crowd_crowd : ∀ n, n ≤ 65536 → Crowd (crowd n)
  | 0, _ => ⟨crowdBase_cores, Or.inr (by decide +kernel), by decide +kernel, by decide +kernel, by decide +kernel,
    by decide +kernel,
      by decide +kernel⟩
  | n + 1, h => (crowd_crowd n (by omega)).setBytes _ _ (by omega) (by omega)

theorem crowd_num (i : Nat) : ∀ n, i < n → n ≤ 65536 → (crowd n).num (0x100_0000 + 8 * i) 8 = i
  | 0, h, _ => absurd h (Nat.not_lt_zero i)
  | n + 1, h, hn => by
    rw [crowd_succ]
    by_cases e : i = n
    · subst e
      rw [State.num_setBytes, Nat.mod_eq_of_lt (Nat.lt_of_lt_of_le h (Nat.le_trans hn (by decide)))]
    · have ih := crowd_num i n (by omega) (by omega)
      generalize crowd n = s at ih ⊢
      refine Eq.trans (congrArg ofBytes (State.bytes_congr fun j hj => ?_)) ih
      rw [State.byte_setBytes, length_toBytes, if_neg (by omega)]

theorem crowd_below (b : Nat) (hb : b + 8 ≤ 0x100_0000) : ∀ n, (crowd n).num b 8 = crowdBase.num b 8
  | 0 => rfl
  | n + 1 => by
    have ih := crowd_below b hb n
    rw [crowd_succ]
    generalize crowd n = s at ih ⊢
    refine Eq.trans (congrArg ofBytes (State.bytes_congr fun j hj => ?_)) ih
    rw [State.byte_setBytes, length_toBytes, if_neg (by omega)]

theorem length_addNat {l : List Nat} {n : Nat} (h : n ∉ l) : (addNat l n).length = l.length + 1 := by
  induction l with
  | nil => rfl
  | cons x r ih =>
    simp only [List.mem_cons, not_or] at h
    unfold addNat
    split
    · rfl
    · rw [if_neg (Ne.symm h.1)]
      simp [ih h.2]

theorem mem_of_addNat {l : List Nat} {n x : Nat} (h : x ∈ addNat l n) : x = n ∨ x ∈ l := by
  induction l with
  | nil => exact Or.inl (List.mem_singleton.1 h)
  | cons y r ih =>
    unfold addNat at h
    split at h
    · exact List.mem_cons.1 h
    · split at h
      · exact Or.inr h
      · rcases List.mem_cons.1 h with e | e
        · exact Or.inr (e ▸ List.mem_cons_self)
        · exact (ih e).imp id (List.mem_cons_of_mem _)

/-- Reading the list from entry `i` on, the set grows past 65,536 elements. -/
theorem Crowd.tooMany {s : State} (h : Crowd s) (hn : ∀ i, i < 65536 → s.num (0x100_0000 + 8 * i) 8 = i) :
    ∀ (n i : Nat) (set : List Nat), 0 < n → n + i = 65536 → set.length = i + 1 → (∀ x ∈ set, x < i ∨ x = 70000) →
      s.addNeighbours 0 ⟨100000, 0x1000, 0x100_0000, 0x400_0000, 0⟩ n i set = .ok none
  | n + 1, i, set, _, hi, hl, hs => by
    have hw : s.serviceWord (dispatcherOf 0) ((0x100_0000 + 8 * i) % 2 ^ 64) = .ok i := by
      rw [Nat.mod_eq_of_lt (by omega), h.word _ (by omega), hn i (by omega)]
    have hm : i ∉ set := by
      intro e
      rcases hs i e with e | e <;> omega
    have hlen := length_addNat hm
    unfold State.addNeighbours
    simp only [hw]
    rw [if_neg (by omega)]
    by_cases e : 65536 < (addNat set i).length
    · rw [if_pos e]
    · rw [if_neg e]
      refine Crowd.tooMany h hn n (i + 1) _ (by omega) (by omega) (by omega) fun x hx => ?_
      rcases mem_of_addNat hx with rfl | hx
      · omega
      · rcases hs x hx with e | e <;> omega

theorem crowdBase_tasks : crowdBase.tasks = [(0, crowdTask)] := by
  unfold crowdBase
  rfl

theorem crowdBase_first (m : List Host.Cell) (u : List Nat) :
    State.firstInOrder { crowdBase with mem := m, ue := u } 0 crowdTask = true := by
  unfold crowdBase
  rfl

theorem crowdBase_pkgs :
    crowdBase.pkgs = [(0, { Package.reset 0 with spaces := [(3, ⟨100000, 0x1000, 0x100_0000, 0x400_0000, 0⟩)] })] := by
  unfold crowdBase
  rfl

theorem addLists_one (v : State) (sp : ElemSpace) (e n a b : Nat) (ea : (sp.offs + 8 * e) % 2 ^ 64 = a)
    (eb : (sp.offs + 8 * e + 8) % 2 ^ 64 = b) (h1 : v.serviceWord (dispatcherOf 0) a = .ok 0)
    (h2 : v.serviceWord (dispatcherOf 0) b = .ok n) (h3 : v.addNeighbours 0 sp n 0 [e] = .ok none) :
    v.addLists 0 sp [e] [e] = .ok none := by
  unfold State.addLists
  simp only [ea, eb, h1, h2, Nat.sub_zero, h3, Nat.not_lt_zero, if_false]

theorem claimSet_one (v : State) (t : Task) (e i : Nat) (sp : ElemSpace) (h1 : t.elem = some e) (h2 : t.hdr.space = some i)
    (h3 : find? (v.pkg (graphPkg t.graph)).spaces i = some sp) (hr : t.hdr.radius = 1) (hp : t.pkg = 0)
    (h4 : v.addLists 0 sp [e] [e] = .ok none) : v.claimSet t = .ok none := by
  have h5 : v.neighbourhood 0 sp 1 [e] = .ok none := by
    unfold State.neighbourhood
    simp only [h4]
  unfold State.claimSet
  simp only [h1, h2, h3, hr, hp, h5]

theorem claimWord_of (v : State) (sp : ElemSpace) (e a : Nat) (bs : List Byte) (ea : (sp.claim + 2 * e) % 2 ^ 64 = a)
    (h1 : v.servicePa (dispatcherOf 0) a = .ok a) (hr : region (a % 2 ^ 44) = .hbm)
    (h2 : v.homeRead (dispatcherOf 0) .atomic a 2 = .ok bs) : v.claimWord 0 sp e = .ok a := by
  unfold State.claimWord
  simp only [ea, h1, hr, h2]

theorem ownWord_of (v : State) (t : Task) (e i a : Nat) (sp : ElemSpace) (h1 : t.elem = some e) (h2 : t.hdr.space = some i)
    (h3 : find? (v.pkg (graphPkg t.graph)).spaces i = some sp) (hp : t.pkg = 0) (h4 : v.claimWord 0 sp e = .ok a) :
    v.ownWord t = .ok () := by
  unfold State.ownWord State.wordOf
  simp only [h1, h2, Option.bind_some, h3, hp, h4]
  rfl

theorem low_hbm (a : Nat) (ha : a < 2 ^ 30) : region (a % 2 ^ 44) = .hbm := by
  unfold region
  rw [if_pos (by omega)]

/-- The claim word of the crowd's task can be reached. -/
theorem crowd_own {v : State} (h : Crowd v)
    (hp : v.pkgs = [(0, { Package.reset 0 with spaces := [(3, ⟨100000, 0x1000, 0x100_0000, 0x400_0000, 0⟩)] })]) :
    v.ownWord crowdTask = .ok () := by
  have hsp : find? (v.pkg (graphPkg crowdTask.graph)).spaces 3 = some ⟨100000, 0x1000, 0x100_0000, 0x400_0000, 0⟩ := by
    unfold State.pkg
    rw [hp]
    rfl
  have ha : 0x402_22E0 < 2 ^ 30 := by norm_num
  exact ownWord_of v crowdTask 70000 3 _ _ rfl rfl hsp rfl
    (claimWord_of v _ 70000 0x402_22E0 _ (by norm_num) (h.pa _ ha) (low_hbm _ ha) (h.answers _ _ _ (Nat.lt_trans ha (by norm_num))))

/-- What the clause needs, whatever memory holds beyond what is said of it. -/
theorem crowd_claims (v : State) (h : Crowd v) (n : Nat) (hn : n = 65536)
    (hp : v.pkgs = [(0, { Package.reset 0 with spaces := [(3, ⟨100000, 0x1000, 0x100_0000, 0x400_0000, 0⟩)] })])
    (hlist : ∀ i, i < 65536 → v.num (0x100_0000 + 8 * i) 8 = i) (ha : v.num 0x8_9B80 8 = 0) (hb : v.num 0x8_9B88 8 = n) :
    v.claimSet crowdTask = .ok none := by
  have hsp : find? (v.pkg (graphPkg crowdTask.graph)).spaces 3 = some ⟨100000, 0x1000, 0x100_0000, 0x400_0000, 0⟩ := by
    unfold State.pkg
    rw [hp]
    rfl
  refine claimSet_one v crowdTask 70000 3 _ rfl rfl hsp rfl rfl
    (addLists_one v _ 70000 n 0x8_9B80 0x8_9B88 (by norm_num) (by norm_num) ?_ ?_ ?_)
  · rw [h.word 0x8_9B80 (by omega), ha]
  · rw [h.word 0x8_9B88 (by omega), hb]
  · exact h.tooMany hlist n 0 [70000] (by omega) (by omega) rfl (by simp)

/-- An exclusive task of the same node, younger than the crowd's. -/
def rival : Task := { crowdTask with phase := .exclusive, stamp := 3, elem := some 6 }

/-- The state with the rival, under whose stop the node's other tasks stand. -/
def rivalled (s : State) : State :=
  { s with
    tasks := [(0, crowdTask), (1, rival)]
    graphs := [(0, { grid .running with
      nodes := [⟨.kernel spaceHdr 0 1, [], 0, 0⟩]
      launch := some ⟨1, [(0, { NodeSt.idle with run := .running, stopFor := some 1 })], 1, 0, .running, false⟩ })] }

theorem crowdBase_rivalled (m : List Host.Cell) (u : List Nat) :
    (rivalled { crowdBase with mem := m, ue := u }).firstInOrder 0 crowdTask = false ∧
    (rivalled { crowdBase with mem := m, ue := u }).inOrder crowdTask = true ∧
    (rivalled { crowdBase with mem := m, ue := u }).noneBefore 0 crowdTask = true ∧
    ((rivalled { crowdBase with mem := m, ue := u }).nodeSt crowdTask.key).stopFor = some 1 := by
  unfold crowdBase
  exact ⟨rfl, rfl, rfl, rfl⟩

/-- A task with too large a claim set, whose own claim word can be reached. -/
def Large (s : State) : Prop := s.claimSet crowdTask = .ok none ∧ s.ownWord crowdTask = .ok ()

theorem crowd_exclusive (n : Nat) (h1 : n ≤ 65536) (h2 : 65536 ≤ n) : ∃ s : State,
    (find? s.tasks 0 = some crowdTask ∧ s.firstInOrder 0 crowdTask = true ∧ s.hobbles crowdTask.cluster < 16 ∧ Large s) ∧
    (let v := rivalled s
     v.firstInOrder 0 crowdTask = false ∧ v.inOrder crowdTask = true ∧ v.noneBefore 0 crowdTask = true ∧
      (v.nodeSt crowdTask.key).stopFor = some 1 ∧ find? v.tasks 1 = some rival ∧ Large v) := by
  obtain ⟨m, u, e⟩ := crowd_only n
  have hc := crowd_crowd n h1
  have hl : ∀ i, i < 65536 → (crowd n).num (0x100_0000 + 8 * i) 8 = i := fun i hi => crowd_num i n (Nat.lt_of_lt_of_le hi h2) h1
  have ha : (crowd n).num 0x8_9B80 8 = 0 := by
    rw [crowd_below 0x8_9B80 (by omega) n]
    decide +kernel
  have hb : (crowd n).num 0x8_9B88 8 = 65536 := by
    rw [crowd_below 0x8_9B88 (by omega) n]
    decide +kernel
  generalize crowd n = s at *
  have hp : s.pkgs = [(0, { Package.reset 0 with spaces := [(3, ⟨100000, 0x1000, 0x100_0000, 0x400_0000, 0⟩)] })] := by
    rw [e]
    exact crowdBase_pkgs
  have ht : s.tasks = [(0, crowdTask)] := by rw [e]; exact crowdBase_tasks
  have hv : Crowd (rivalled s) := ⟨hc.cores, hc.pkgs, hc.ue, hc.low, hc.t4, hc.t3, hc.t2⟩
  have hr := crowdBase_rivalled m u
  have hf := crowdBase_first m u
  rw [← e] at hr hf
  obtain ⟨r1, r2, r3, r4⟩ := hr
  refine ⟨s, ⟨?_, hf, ?_, ?_⟩, r1, r2, r3, r4, rfl, ?_⟩
  · rw [ht]; rfl
  · unfold State.hobbles
    rw [ht]
    decide
  · exact ⟨crowd_claims _ hc 65536 rfl hp hl ha hb, crowd_own hc hp⟩
  · exact ⟨crowd_claims _ hv 65536 rfl hp hl ha hb, crowd_own hv hp⟩

theorem witness_HobbleSteps_exclusive : ∃ s : State,
    (find? s.tasks 0 = some crowdTask ∧ s.firstInOrder 0 crowdTask = true ∧ s.hobbles crowdTask.cluster < 16 ∧ Large s) ∧
    (let v := rivalled s
     v.firstInOrder 0 crowdTask = false ∧ v.inOrder crowdTask = true ∧ v.noneBefore 0 crowdTask = true ∧
      (v.nodeSt crowdTask.key).stopFor = some 1 ∧ find? v.tasks 1 = some rival ∧ Large v) :=
  crowd_exclusive 65536 (Nat.le_refl _) (Nat.le_refl _)

theorem rival_exclusive : rival.phase = .exclusive ∧ crowdTask.older rival = true := by decide

/-! The host's side -/

/-- A package that has booted, changed. -/
def up (f : Package → Package) : State := State.reset.setPkg 0 (f { Package.reset 0 with step := 8 })

/-- Region 0 of die 0's table makes the local units `lo` to `hi` secure (R475). -/
def secured (lo hi : Nat) (s : State) : State := s.setBytes 0x300_0001_0000 (toBytes 8 (lo + hi * 2 ^ 23 + 3 * 2 ^ 62))

theorem witness_HostAccessSteps :
    let s := up id
    (s.pkg 0).step = 8 ∧ (0 < 12 ∧ 10 < 12) ∧ (0 % 2 = 0 ∧ 10 % 2 = 0) ∧
    5 / 2 ∈ ((up fun p => { p with mode1 := [2] }).pkg 0).mode1 ∧
    0x3F_F000 + 4096 ≤ 1024 * 4096 ∧ ¬ 0x3F_F001 + 4096 ≤ 1024 * 4096 ∧ 0x07F_FFFF_F000 + 4096 ≤ 0x080_0000_0000 ∧
    0x101_FFFF_F000 + 4096 ≤ 0x102_0000_0000 ∧ (s.rmaSecure 0 0x1000 64).isNone = true ∧
    (secured 0 0 s).rmaSecure 0 0x1000 8 = some 0x1000 ∧ s.bad 0x1000 8 = false ∧
    ({ s with ue := [0x1007] } : State).bad 0x1000 8 = true ∧
    ¬ (State.reset.pkg 0).step = 8 := by
  and_intros <;> decide +kernel

/-- A package whose mailbox page 63 holds numbers (offset, bytes, value) and is `g`. -/
def paging (g : Page) (l : List (Nat × Nat × Nat)) : State :=
  up fun p => l.foldl (fun p x => p.setMail 63 x.1 x.2.1 x.2.2) { p with pages := put p.pages .closed 63 g }

/-- A page open in version `v`, with `n` requests taken. -/
def openAt (v n : Nat) : Page := ⟨true, v, 0x9000, n, none, [], 0, 0⟩

/-- A request, with what was read of its object. -/
def requestOf (op : Nat) (args : List Word) (obj : ReqObj) : Request := ⟨op, 5, 0xABC, args, false, obj⟩

/-- A request that names no object. -/
abbrev request (op : Nat) (args : List Word) : Request := requestOf op args .nothing

theorem witness_PageVisits_opening :
    let s := paging .closed [(0x10, 1, 2), (0x11, 1, 1), (0x18, 8, 0x9000)]
    let bad := paging .closed [(0x10, 1, 3), (0x11, 1, 1)]
    (s.pkg 0).step = 8 ∧ 63 < 1024 ∧ (s.pkg 0).mailNum 63 0x11 1 % 2 = 1 ∧ ((s.pkg 0).page 63).isOpen = false ∧
    ((s.pkg 0).mailNum 63 0x10 1 = 2 ∧ (s.pkg 0).mailNum 63 0x11 1 < 2 ∧ (s.pkg 0).mailNum 63 0x12 6 = 0 ∧
      (s.pkg 0).mailNum 63 0x28 24 = 0) ∧
    ¬ ((bad.pkg 0).mailNum 63 0x10 1 = 1 ∨ (bad.pkg 0).mailNum 63 0x10 1 = 2) ∧
    ((paging .closed []).pkg 0).mailNum 63 0x11 1 % 2 = 0 ∧
    (((s.pkg 0).page 63).current = none ∧ ((s.pkg 0).page 63).queue = []) ∧
    (let left := paging { Page.closed with current := some (request 6 [0, 0, 0, 0]) } [(0x10, 1, 2), (0x11, 1, 1)]
     ((left.pkg 0).page 63).isOpen = false ∧ (left.pkg 0).mailNum 63 0x11 1 % 2 = 1 ∧ ((left.pkg 0).page 63).current ≠ none) := by
  and_intros <;> decide +kernel

theorem witness_PageVisits_taking :
    let f (s : State) := (s.pkg 0).mailNum 63
    let one := paging (openAt 1 0) [(0, 8, 1), (0x11, 1, 1), (64, 1, 6), (65, 1, 0)]
    let two := paging (openAt 2 63) [(0x11, 1, 1), (64, 1, 7), (65, 1, 0), (66, 2, 0xFFFF)]
    let idle := paging (openAt 2 62) [(0x11, 1, 1)]
    let busy := paging { openAt 1 0 with current := some (request 0 [0, 0, 0, 0]) } [(0, 8, 1), (0x11, 1, 1)]
    ((one.pkg 0).page 63).isOpen = true ∧ ((one.pkg 0).page 63).taken < f one 0 8 ∧
    (¬ ∃ x ∈ (one.pkg 0).pages, x.1 / 64 = 63 / 64 ∧ x.2.current ≠ none) ∧
    (let g := (two.pkg 0).page 63
     f two (64 * (g.taken % 63 + 1) + 1) 1 % 2 = 1 - g.taken / 63 % 2) ∧
    (let g := (idle.pkg 0).page 63
     ¬ f idle (64 * (g.taken % 63 + 1) + 1) 1 % 2 = 1 - g.taken / 63 % 2) ∧
    (∃ x ∈ (busy.pkg 0).pages, x.1 / 64 = 63 / 64 ∧ x.2.current ≠ none) := by
  and_intros <;> decide +kernel

theorem witness_PageVisits_malformed :
    malformedRequest (request 7 [0, 0, 0, 0]) ∧ malformedRequest (request 5 [0, 65536, 0, 0]) ∧
    malformedRequest (request 3 [256, 0, 0, 0]) ∧
    ¬ malformedRequest (request 5 [0, 65535, 0, 0]) ∧ ¬ malformedRequest (request 3 [255, 0, 0, 0]) := by
  simp [malformedRequest, requestOf]

/-- Graph 0 with its launch ended; the host has read `n` records. -/
def ended (l : Launch) (full : Bool) (n : Nat) (acks : List (Nat × Nat)) : State :=
  let g := { grid .running with launch := some l, full := full, acks := acks, crn := 4, crcaddr := 0x1000 }
  mapped (({ core0 id with graphs := [(0, g)] } : State).setBytes 0x1000 (toBytes 8 n))

/-- A launch number `k` whose record is formed, with its node done or faulted. -/
def formedLaunch (k : Nat) (run : NodeRun) : Launch := ⟨k, [(0, { NodeSt.idle with run := run, status := if run = .faulted then 0x44 else 0 })], 1, 0, .formed 77, run == .faulted⟩

theorem witness_CompletionSteps :
    let word (s : State) := (s.purserRead (purserOf (graphPkg 0) 0) 0x1000 8).2.map ofBytes
    let s := ended (formedLaunch 4 .done) false 1 []
    let full := ended (formedLaunch 4 .done) false 0 []
    (∃ g, find? s.graphs 0 = some g ∧ g.launch = some (formedLaunch 4 .done) ∧ 0 < g.crn ∧ g.crcaddr ≠ 0 ∧ g.nodes.length ≤ 4096 ∧
      4 < 1 + g.crn ∧ 0 + g.crn ≤ 4) ∧
    word s = some 1 ∧ word full = some 0 ∧ ((formedLaunch 4 .faulted).at_ 0).run = .faulted ∧
    ((formedLaunch 4 .faulted).at_ 0).status < 256 ∧
    ((formedLaunch 4 .done).at_ 0).run ≠ .faulted ∧ (∃ g, find? (inGrid id).graphs 0 = some g ∧
      (g.launch.map (·.stage)) = some .running) := by
  refine ⟨⟨_, rfl, rfl, by decide, by decide, by decide, by decide, by decide⟩, ?_⟩
  and_intros <;> decide +kernel

theorem witness_AcknowledgementSteps :
    (∃ g, find? (ended (formedLaunch 4 .done) false 1 [(3, 0)]).graphs 0 = some g ∧ g.acks = (3, 0) :: []) ∧
    (∃ g, find? (inGrid id).graphs 0 = some g ∧ g.acks = []) := ⟨⟨_, rfl, rfl⟩, ⟨_, rfl, rfl⟩⟩

theorem witness_ResponseWrites :
    let r : Response := ⟨9, 5, 0, 0, 7⟩
    let s := paging { openAt 2 1 with queue := [r], written := 62 } [(0x20, 8, 0)]
    let full := paging { openAt 2 1 with queue := [r], written := 63 } [(0x20, 8, 0)]
    ((paging (openAt 2 1) []).pkg 0 |>.page 63).queue = [] ∧ ((s.pkg 0).page 63).queue = r :: [] ∧
    ((s.pkg 0).page 63).written < (s.pkg 0).mailNum 63 0x20 8 + 63 ∧
    (full.pkg 0).mailNum 63 0x20 8 + 63 ≤ ((full.pkg 0).page 63).written := by
  refine ⟨?_, ?_, ?_, ?_⟩ <;> decide +kernel

/-- Bytes that hold numbers at offsets. -/
def bytesOf (n : Nat) (l : List (Nat × Nat)) : List Byte := toBytes n ((l.map fun x => x.2 * 2 ^ (8 * x.1)).foldl (· + ·) 0)

/-- Page 0 serves a request, with bytes in memory that its pages map. -/
def served (r : Request) (l : List (Nat × List Byte)) : State :=
  l.foldl (fun s x => s.setBytes x.1 x.2) (mapped (up fun p => { p with pages := [(0, { openAt 2 1 with current := some r })] }))

/-- The record of a space of 8 elements, number 63, for graph 1023. -/
def spaceRecord (n : Nat) : List Byte := bytesOf 64 [(0, n), (8, 0x5000), (16, 0x6000), (24, 0x7000), (32, 63), (34, 1023)]

/-- The record of window 255: 2^48 bytes behind port 10. -/
def windowRecord (port : Nat) : List Byte := bytesOf 64 [(0, 255), (2, port), (0x18, 4095), (0x30, 2 ^ 48)]

theorem witness_RegistrationRequests :
    let reg := requestOf 1 [0x4000, 0, 0, 0] (.record (spaceRecord 8))
    let win := requestOf 2 [0x4000, 0, 0, 0] (.record (windowRecord 10))
    let s := served reg []
    let w := served win []
    let lost (op : Nat) := requestOf op [0x4000, 0, 0, 0] .unreadable
    ((served (request 0 [0, 0, 0, 0]) []).pkg 0 |>.page 0).current = some (request 0 [0, 0, 0, 0]) ∧
    ((s.pkg 0).page 0).current = some reg ∧ reg.obj = .record (spaceRecord 8) ∧
    ((served (lost 1) []).pkg 0 |>.page 0).current = some (lost 1) ∧
    ((served (lost 2) []).pkg 0 |>.page 0).current = some (lost 2) ∧
    (lost 1).obj = .unreadable ∧
    (let f := fieldOf (spaceRecord 8)
     1 ≤ f 0 8 ∧ f 0 8 ≤ 2 ^ 40 ∧ f 8 8 % 8 = 0 ∧ f 16 8 % 8 = 0 ∧ f 24 8 % 64 = 0 ∧ f 0x20 2 < 64 ∧ f 0x22 2 < 1024 ∧
     f 0x24 28 = 0) ∧
    find? (s.pkg 0).spaces 63 = none ∧ (s.mapsMemory (purserOf 0 0) 1 7).2 = true ∧
    (let place (v : State) (e : Nat) := (v.purserPa (purserOf 0 0) ((0x7000 + 2 * e) % 2 ^ 64)).2
     let u := (s.mapsMemory (purserOf 0 0) 1 7).1
     ∀ m < 9, ∀ e < 8, place (u.zeroClaims (purserOf 0 0) 0x7000 m 0) e = place u e ∧
      (place u e).all fun pa => ((u.zeroClaims (purserOf 0 0) 0x7000 m 0).answer (purserOf 0 0) .store pa 2).1 == 0) ∧
    ¬ 1 ≤ fieldOf (spaceRecord 0) 0 8 ∧ ((w.pkg 0).page 0).current = some win ∧ win.obj = .record (windowRecord 10) ∧
    (let f := fieldOf (windowRecord 10)
     f 0 2 < 256 ∧ f 2 1 < 12 ∧ f 2 1 % 2 = 0 ∧ f 3 1 < 2 ∧ f 4 4 < 2 ^ 24 ∧ f 0x18 2 < 4096 ∧ f 0x1A 6 = 0 ∧ 1 ≤ f 0x30 8 ∧
     f 0x30 8 ≤ 2 ^ 48 ∧
       f 0x38 8 = 0) ∧
    find? (w.pkg 0).windows 255 = none ∧ ¬ fieldOf (windowRecord 12) 2 1 < 12 ∧
    ((served (request 3 [255, 0, 0, 0]) []).fetchingOn 0 255 = false ∧ (255 : Word).toNat < 256) ∧
    (cpyQ (cmdOf [(0, 0x26), (4, 255)] |> fun c => { c with begun := true }) id).fetchingOn 0 255 = true := by
  and_intros <;> decide +kernel

/-- A package that holds graph 1023, as `g`, and serves a request for it. -/
def launching (r : Request) (g : Graph) : State := { served r [] with graphs := [(1023, g)] }

theorem witness_LaunchRequests :
    let l := request 5 [1023, 65535, 0, 0]
    let g := { grid .running with num := 1023 }
    let idle := { g with launch := none }
    ((launching l g).pkg 0 |>.page 0).current = some l ∧ (1023 : Word).toNat < 1024 ∧
    find? (launching l g).graphs (0 * 1024 + 1023) = some g ∧
    (65535 : Word).toNat = 65535 ∧ g.pending + g.acks.length + 1 + 65535 ≤ 2 ^ 32 - 1 ∧
    2 ^ 32 - 1 < { g with pending := 2 ^ 32 - 65536 }.pending + 1 + 65535 ∧ g.launch ≠ none ∧ idle.launch = none ∧
    find? (launching l g).graphs 0 = none ∧ 1024 ≤ (1024 : Word).toNat ∧ (idle.pending + idle.acks.length = 0) ∧
    (request 6 [1023, 0, 0, 0]).op = 6 := by
  and_intros <;> decide +kernel

/-- A graph number 1023 of one node at 0x4100, whose packages are listed at 0x4300 where there is more than one. -/
def descriptor (npkg : Nat) : List Byte :=
  bytesOf 64 [(0, 1023), (2, 1), (8, 0x4100), (0x20, 1024), (0x22, npkg), (0x28, if npkg = 1 then 0 else 0x4300)]

/-- A node record of a kind; its headers stand at 0x4200. -/
def nodeRecord (kind : Nat) : List Byte := bytesOf 64 ([(0, kind), (8, 0x4200)] ++ if kind = 4 then [(0x10, 0x4200), (0x18, 0x4200)] else [(0x18, 1)])

/-- A kernel header that names a space, 0xFF for none. -/
def headerRecord (space : Nat) : List Byte := bytesOf 64 [(0, 0x1_0002), (8, 64), (9, 32), (10, 16), (15, space),
  (16, 0xE_0000), (20, 1)]

/-- SUBMIT of a graph; packages 0 and 5 have booted, and a link leads from one to the other. -/
def submitted (npkg kind space : Nat) (gs : List (Nat × Graph)) : State :=
  { ((served (request 4 [0x4000, 0, 0, 0]) [(0x4000, descriptor npkg), (0x4100, nodeRecord kind), (0x4200, headerRecord space),
      (0x4300, [0, 0, 5, 0]), (0x300_0002_0014, toBytes 4 0x1_0000)]).modPkg 5 (fun p => { p with step := 8 })
      |>.modPkg 0 fun p => { p with links := [(0, { Link.reset with up := .healthy, partner := some (5, 0) })] }) with
    graphs := gs }

/-- What a state's graph object is. -/
def objectOf (s : State) (npkg : Nat) : Option GraphObj := (s.readGraph 0 0 (descOf (descriptor npkg))).2

/-- What is read with the SUBMIT that page 0 of a state serves. -/
def readOf (s : State) : ReqObj := (s.readRequest 0 0 (request 4 [0x4000, 0, 0, 0])).2

/-- The request with what was read. -/
def reading (s : State) : Request := requestOf 4 [0x4000, 0, 0, 0] (readOf s)

theorem witness_SubmitObject :
    let read (s : State) := (s.object 0 0 0x4000 64).2
    let s := submitted 1 0 255 []
    read s = some (descriptor 1) ∧ readOf s = .graph ((objectOf s 1).getD ⟨descOf [], [], [], []⟩) ∧
    read (s.setBytes 0x10_2000 (toBytes 8 0)) = none ∧ readOf (s.setBytes 0x10_2000 (toBytes 8 0)) = .unreadable ∧
    (let bad := s.setBytes 0x4002 (toBytes 2 0)
     (read bad).map (fieldOf · 2 2) = some 0 ∧ readOf bad = .badDesc) ∧
    (let far := s.setBytes 0x4008 (toBytes 8 (2 ^ 62))
     read far ≠ none ∧ (read far).map (fun bs => fieldOf bs 8 8 % 64) = some 0 ∧ readOf far = .unreadable) := by
  and_intros <;> decide +kernel

/-- Shape, gangs, spaces and room of a graph object, and whether it is there. -/
def verdicts (s : State) (npkg : Nat) : Option (Bool × Bool × Bool) :=
  (objectOf s npkg).map fun g =>
    (g.shapeOk && g.nodes.all (s.boundOk 0) && s.pkgsOk 0 g.pkgs, g.nodes.all NodeRec.gangOk, s.spacesOk 0 g)

/-- Whether the overflow areas fit is the implementation's, an opaque constant: a statement names its answer and assumes
nothing of it, but that a graph which needs none always fits. -/
theorem witness_SubmitRequests :
    let s := submitted 1 0 255 []
    let r := reading s
    ((served r []).pkg 0 |>.page 0).current = some r ∧ r.op = 4 ∧ r.obj = readOf s ∧
    (requestOf 4 [] .unreadable).obj = .unreadable ∧ (requestOf 4 [] .badDesc).obj = .badDesc ∧
    verdicts s 1 = some (true, true, true) ∧
    ((objectOf s 1).map fun g => s.overflowOk 0 (g.nodes.map g.toNode)) = some true ∧
    verdicts (submitted 1 9 255 []) 1 = some (false, true, true) ∧ verdicts (submitted 1 4 255 []) 1 = some (true, false, true) ∧
    verdicts (submitted 1 0 3 []) 1 = some (true, true, false) ∧ verdicts (submitted 2 0 255 []) 2 = some (true, true, true) ∧
    (∃ x ∈ (submitted 1 0 255 [(1023, { grid .running with num := 1023 })]).graphs, x.2.num = 1023 ∧ x.1 / 1024 = 0) ∧
    (submitted 2 0 255 [(5 * 1024 + 1023, { grid .running with num := 1023, pkgs := [5] })]).holds (s.ownerOf 5) 1023 = true ∧
    (submitted 2 0 255 []).holds (s.ownerOf 5) 1023 = false ∧
    (objectOf (submitted 2 0 255 []) 2).map (fun g => decide (1 < g.pkgs.length)) = some true := by
  and_intros <;> decide +kernel

/-! Links, rebuild, boot -/

/-- A link in a state, of package 0, and its package. -/
def linked (l : Link) : State := up fun p => { p with links := [(3, l)] }

/-- A flit of a kind, with SEQ and ACK. -/
def flit (kind seq ack : Nat) : Flit := ⟨kind, seq, ack, 0, 0, none⟩

/-- One error in each of the first `n` symbols. -/
def errors (n : Nat) : List (Nat × BitVec 10) := (upFrom 0 n).map fun i => (i, 1)

/-- Where a packet header's destination stands is not in the spec, an opaque constant: a statement names the destination and
assumes nothing of it. -/
theorem witness_FlitSteps :
    let l : Link := { Link.reset with
      up := .healthy, rxSeq := 4095, arriving := [flit 1 4095 9], unacked := [flit 1 8 0, flit 1 9 0] }
    let noisy (n flits : Nat) : Link := { l with errAt := [(3, List.replicate n 7)], flits := flits }
    let loud (l : Link) (x : Nat) :=
      256 < ((look (l.countErrors (wrongSymbols (flit 1 4095 9) [] none)).errAt [] x).filter (l.flits < · + 2 ^ 24)).length
    (((linked l).pkg 0).link 3).arriving = flit 1 4095 9 :: [] ∧
    (((linked { l with arriving := [] }).pkg 0).link 3).arriving = [] ∧
    (wrongSymbols (flit 0 0 0) (errors 12) none).length ≤ 12 ∧ 12 < (wrongSymbols (flit 0 0 0) (errors 13) none).length ∧
    (wrongSymbols (flit 0 0 0) (errors 5) (some 0)).length ≤ 4 ∧ 4 < (wrongSymbols (flit 0 0 0) (errors 6) (some 0)).length ∧
    (flit 1 4095 9).seq = l.rxSeq ∧ l.unacked = flit 1 8 0 :: [flit 1 9 0] ∧ (flit 1 7 0).seq ≠ l.rxSeq ∧
    (flit 0 0 0).kind = 0 ∧ l.up ≠ .out ∧
    Link.reset.up = .out ∧ (flit 1 4095 9).packet = none ∧ (linked l).otherEnd l ≠ some (0, 3) ∧
    OwnIds (linked l) ∧
    (linked l).otherEnd { l with partner := some (5, 4) } = some (5, 4) ∧
    (∀ x, x < 16 → ¬ loud (noisy 256 7) x) ∧ (∀ x, x < 16 → (loud (noisy 257 (2 ^ 24 + 6)) x ↔ x = 3)) ∧
    (∀ x, x < 16 → ¬ loud (noisy 257 (2 ^ 24 + 7)) x) ∧ (∀ x, x < 16 → (look l.errAt [] x).length ≤ 257) ∧
    ((State.reset.pkg 0).counters.dropped < 2 ^ 64 - 1) := by
  and_intros <;> first | decide +kernel | (unfold OwnIds; decide +kernel)

/-- Package 0 between packages 5 and 6, to which its links 3 and 9 lead; the tables of its dies list link 9 for package 6.
All three have booted. -/
def between (l3 l9 : Link) : State :=
  let s := (up fun p => { p with links := [(3, { l3 with partner := some (5, 4) }), (9, { l9 with partner := some (6, 2) })] })
  let s := (s.modPkg 5 fun p => { p with step := 8 }).modPkg 6 fun p => { p with step := 8 }
  (upFrom 0 4).foldl (fun s d => s.setBytes (0x300_0002_0000 + 0x100_0000 * d + 4 * 6) (toBytes 4 0x1_0009)) s

/-- A link in service. -/
def live : Link := { Link.reset with up := .healthy }

/-- A posted store of core 0, a line of the HBM of package 6, and the packet that carries it. -/
def farStore : JEntry := entry (.line ⟨6 * 2 ^ 38 + 0x41, [(8, 1)], false⟩) .pending none

/-- Its packet. -/
def farPacket : Packet := ⟨0, 0, 6 * 2 ^ 38 + 0x41, homeOf (64 * (6 * 2 ^ 38 + 0x41))⟩

/-- The state in which the store is due, with link 9 as given. -/
def posting (l9 : Link) : State := (between live l9).setCore 0 { running (.reset 0) with journal := [farStore] }

theorem one_link {s : State} {pkg die i : Nat} {home : Nat × Nat} (h : s.open_ pkg die home.1 = [i]) :
    s.linkFor pkg die home = some i := by
  unfold State.linkFor
  simp [h, Nat.mod_one]

theorem first_link {ls : List Nat} {i h : Nat} (e : ls = [i]) : ls.getD (h % max 1 ls.length) 0 = i := by
  subst e
  simp [Nat.mod_one]

theorem not_taken {s : State} {pkg link i : Nat} {p : Packet} (h : s.open_ pkg (link / 3) p.home.1 = [i])
    (h1 : (p.home.1 == (s.pkg pkg).id) = false) (h2 : s.otherWay pkg i p.home = true) : s.canTake pkg link p = false := by
  unfold State.canTake
  simp [one_link h, h1, h2]

/-- Link 11 of package 0 still has a packet for the same home unacknowledged. -/
def elsewhere (s : State) : State :=
  s.modPkg 0 fun p => { p with links := p.links ++ [(11, { Link.reset with unacked := [packetFlit farPacket] })] }

/-- A link on which a packet arrives. -/
def bearing (p : Packet) : Link := { live with arriving := [{ packetFlit p with seq := 0 }] }

theorem witness_FlitSteps_waits :
    let s := elsewhere (between (bearing farPacket) live)
    ((s.pkg 0).link 3).arriving = { packetFlit farPacket with seq := 0 } :: [] ∧ (packetFlit farPacket).packet = some farPacket ∧
    ((s.pkg 0).link 3).up ≠ .out ∧ s.canTake 0 3 farPacket = false ∧
    (between (bearing farPacket) { live with up := .out }).open_ 0 1 farPacket.home.1 = [] :=
  ⟨rfl, rfl, by decide +kernel, not_taken (i := 9) (by decide +kernel) (by decide +kernel) (by decide +kernel), by decide +kernel⟩

theorem witness_PacketSteps_sending :
    let s := posting live
    let ls := s.open_ 0 0 farPacket.home.1
    let i := ls.getD (Config.linkHash farPacket.home.2 ls.length % max 1 ls.length) 0
    (s.core 0).journal = farStore :: [] ∧ farStore.idx = 4 ∧ farStore.st = .pending ∧
    (∀ c ∈ s.cores, ∀ x ∈ c.2.journal, x.sent = []) ∧
    (s.parts farStore).head? = some (farPacket.part, farPacket.home) ∧ farPacket.home.1 ≠ s.idOf 0 ∧ ls ≠ [] ∧
    s.otherWay 0 i farPacket.home = false ∧ (elsewhere s).otherWay 0 i farPacket.home = true ∧
    (posting { live with up := .out }).open_ 0 0 farPacket.home.1 = [] := by
  intro s ls i
  have e : ls = [9] := by decide +kernel
  have hi : i = 9 := first_link e
  rw [hi]
  and_intros <;> decide +kernel

theorem witness_PacketSteps_passing :
    let s := between (bearing farPacket) live
    let l := (s.pkg 0).link 3
    let ls := s.open_ 0 1 farPacket.home.1
    let j := ls.getD (Config.linkHash farPacket.home.2 ls.length % max 1 ls.length) 0
    OwnIds s ∧ l.arriving = { packetFlit farPacket with seq := 0 } :: [] ∧ l.up ≠ .out ∧
    ({ packetFlit farPacket with seq := 0 } : Flit).kind = 1 ∧ ({ packetFlit farPacket with seq := 0 } : Flit).seq = l.rxSeq ∧
    farPacket.home.1 ≠ (s.pkg 0).id ∧ (∀ x, x < 16 → (look l.errAt [] x).length ≤ 256) ∧ ls ≠ [] ∧ j ≠ 3 ∧
    s.otherWay 0 j farPacket.home = false ∧
    (let c := (posting { live with up := .out }).core 0
     c.journal = [farStore] ∧ farStore.num = farPacket.num ∧ farStore.lines = [] ∧ c.mode = .task ∧ c.asyncTrap = none ∧
     c.trapped = false) := by
  intro s l ls j
  have e : ls = [9] := by decide +kernel
  have hj : j = 9 := first_link e
  rw [hj]
  and_intros <;> first | exact rfl | decide +kernel | (unfold OwnIds; decide +kernel)

theorem witness_ResendSteps :
    let l : Link := { Link.reset with up := .healthy, partner := some (5, 4), unacked := [flit 1 8 0] }
    ((linked Link.reset).pkg 0 |>.link 3).up = .out ∧ ((linked l).pkg 0 |>.link 3).up ≠ .out ∧ OwnIds (linked l) ∧
    (linked l).otherEnd l = some (5, 4) ∧ ((5, 4) : Nat × Nat) ≠ (0, 3) := by
  and_intros <;> first | decide +kernel | (unfold OwnIds; decide +kernel)

/-- Which ends are cabled is not in the spec, an opaque constant: a statement names the partner and assumes nothing of it. -/
theorem witness_TrainingSteps :
    let t (tr : Training) (e : List (Nat × Nat)) : Link := { Link.reset with training := tr, laneErr := e }
    let failed (l m : Link) (x : Nat) := x < 16 ∧ (16 < look l.laneErr 0 x ∨ 16 < look m.laneErr 0 x)
    let sees (l : Link) (errs : List (Nat × BitVec 10)) (h : Nat) :=
      l.seen = true ∨ ((wrongSymbols (flit 0 0 0) errs none).length ≤ 12 ∧ h.testBit 32 = true)
    Link.reset.training = .none ∧ Link.reset.up = .out ∧ Link.reset.retrain = 0 ∧ 6 ≤ ((linked Link.reset).pkg 0).step ∧ 11 < 12 ∧
    { Link.reset with retrain := 1 }.retrain ≠ 0 ∧ (t .exchange []).training = .exchange ∧
    (t (.test (2 ^ 20 - 1)) []).training = .test (2 ^ 20 - 1) ∧
    sees { t .exchange [] with seen := true } [] 0 ∧ sees (t .exchange []) (errors 12) (2 ^ 32) ∧
    ¬ sees (t .exchange []) (errors 13) (2 ^ 32) ∧
    2 ^ 20 - 1 < 2 ^ 20 ∧ 2 ^ 20 ≤ 2 ^ 20 ∧ (∀ x, ¬ failed (t (.test (2 ^ 20)) [(3, 16)]) (t (.test (2 ^ 20)) [(4, 16)]) x) ∧
    (failed (t (.test (2 ^ 20)) []) (t (.test (2 ^ 20)) [(15, 17)]) 15 ∧
      ∀ x, failed (t (.test (2 ^ 20)) []) (t (.test (2 ^ 20)) [(15, 17)]) x → x = 15) ∧
    (failed (t (.test (2 ^ 20)) [(0, 17)]) (t (.test (2 ^ 20)) [(15, 17)]) 0 ∧
      failed (t (.test (2 ^ 20)) [(0, 17)]) (t (.test (2 ^ 20)) [(15, 17)]) 15) ∧
    (wrongSymbols (flit 0 0 0) (errors 12) none).length ≤ 12 := by
  have low : ∀ (P : Nat → Prop) (Q : Nat → Prop), (∀ x, x < 16 → Q x → P x) → ∀ x, x < 16 ∧
  Q x → P x := fun _ _ h x e => h x e.1 e.2
  and_intros
  all_goals first
    | decide +kernel
    | exact low (fun _ => False) _ (by decide +kernel)
    | exact low (· = 15) _ (by decide +kernel)

theorem witness_LaneAndRouteSteps :
    let l : Link := { Link.reset with up := .healthy, unacked := [flit 1 8 0], partner := some (5, 4) }
    let twice := linked { l with up := .erased 0 }
    (((linked l).pkg 0).link 3).up = .healthy ∧ 15 < 16 ∧ 16 ≤ 16 ∧ ((twice.pkg 0).link 3).up = .erased 0 ∧ 15 ≠ 0 ∧
    l.unacked = [flit 1 8 0] ∧ (flit 1 8 0).packet = none ∧ (0 < 4 ∧ 3 < 4 ∧ 4095 < 4096) ∧ OwnIds twice ∧
    twice.otherEnd l = some (5, 4) ∧
    ((5 : Nat) ≠ 0 ∧ ((twice.pkg 5).link 4).unacked = []) := by
  and_intros <;> first | decide +kernel | (unfold OwnIds; decide +kernel)

/-- Package 0 in a group of packages 0, 5 and 6 with a spare, in a state. -/
def grouped (g : ParityGroup) : State := up fun p => { p with parity := some g, joined := true }

/-- The record of the group, one parity unit a stripe, two units of data a member; the spare has taken over what is lost where
a stripe is being rebuilt. -/
def spareGroup (state : Nat) (lost : List Nat) (busy : Option Nat) : ParityGroup :=
  ⟨1, 1, state, if state = 0 then 0 else 1, 7, 0, 2 ^ 13, [0, 5, 6], lost, if busy.isSome then lost else [], busy⟩

/-- A delta of core 3 on its way to package 5's parity unit of stripe 1. -/
def towards5 : Delta := ⟨1, 0, 0, some 3, (5 * 2 ^ 44 + parityUnit 1) / 64, 0xFF, false⟩

theorem witness_MemberLossSteps :
    let g := spareGroup 0 [] none
    let s := grouped g
    (s.pkg 0).parity = some g ∧ (s.pkg 0).joined = true ∧ indexOf? (· == 5) g.ranks = some 1 ∧ has g.lost 1 = false ∧
    (s.pkg 0).id ≠ 5 ∧
    s.reaches (0 * 2048 + 1536) 5 = false ∧ g.spare ≠ 0xFFFF ∧ g.lost = [] ∧ s.deltas = [] ∧ s.MemWf ∧ OwnIds s ∧
    g.spare ≠ 5 ∧ g.spare < 4096 ∧
    g.ranks.find? (· ≠ 5) = some (s.pkg 0).id ∧ s.ownerOf (s.pkg 0).id = 0 ∧ s.ownerOf g.spare ≠ 0 ∧ s.ownerOf 5 ≠ 0 ∧
    s.ownerOf g.spare ≠ s.ownerOf 5 ∧ { g with spare := 0xFFFF }.spare = 0xFFFF ∧ 9 ∉ g.ranks ∧
    (let gone := s.modPkg 7 fun p => { p with id := 5 }
     (gone.pkg (gone.ownerOf g.spare)).id ≠ g.spare) ∧ (s.pkg (s.ownerOf g.spare)).id = g.spare ∧
    has (spareGroup 1 [1] none).lost 1 = true ∧
    (let h := spareGroup 2 [1] (some 0)
     h.lost ≠ [] ∧ h.busy ≠ none ∧ h.m = 1 ∧ { h with m := 2 }.m = 2 ∧ indexOf? (· == 6) h.ranks = some 2 ∧ has h.lost 2 = false ∧
       (grouped h).reaches (0 * 2048 + 1536) 6 = false) ∧
    ((spareGroup 1 [1] none).lost ≠ [] ∧ (spareGroup 1 [1] none).busy = none) ∧ towards5.holder = 5 ∧ towards5.core = some 3 ∧
    (∃ q x, (q, x) ∈ s.pkgs) := by
  and_intros <;> first
    | decide +kernel
    | (unfold OwnIds; decide +kernel)
    | exact ⟨by decide +kernel, by decide +kernel, by decide +kernel⟩
    | exact ⟨_, _, List.mem_cons_self⟩

theorem witness_StripeRebuildSteps :
    let g := spareGroup 2 [1] (some 0)
    let s := grouped g
    let late : State := { grouped { g with busy := some 1 } with deltas := [towards5] }
    (s.pkg 0).parity = some g ∧ g.lost = [1] ∧ g.adopted.head? = some 1 ∧ (s.pkg 0).joined = true ∧ g.state = 2 ∧
    g.busy = some 0 ∧
    s.stripePending g 0 = false ∧ (∀ q, (s.pkg q).deferred = []) ∧ s.feWait = [] ∧
    0 + 1 < g.stripes ∧ g.stripes ≤ g.stripes - 1 + 1 ∧ g.m = 1 ∧ 1 < g.ranks.length ∧
    (spareGroup 1 [1] none).state ≠ 2 ∧ (spareGroup 1 [1] none).adopted = [] ∧
    late.stripePending g 1 = true ∧ towards5.holder ∈ g.ranks ∧ 64 * towards5.line % 2 ^ 44 / 4096 = parityUnit 1 / 4096 := by
  have none_deferred : ∀ q, ((grouped (spareGroup 2 [1] (some 0))).pkg q).deferred = [] := by
    intro q
    show (((find? [(0, _)] q).getD (Package.reset q)).deferred) = []
    unfold find?
    split <;> rfl
  and_intros <;> first | decide +kernel | exact none_deferred

/-- Authentication rests on the signature and digest functions of standards outside the spec, opaque constants, as the fields
of the configuration do, whose places the spec does not give: a statement names their answer and assumes nothing of it. -/
theorem witness_ResetSteps :
    let at_ (n : Nat) : State := up fun p => { p with step := n }
    let trained := up fun p => { p with step := 6, links := (upFrom 0 12).map fun i => (i, { Link.reset with retrain := 1 }) }
    (∀ n, n ≤ 8 → ((at_ n).pkg 0).step = n) ∧ ((at_ 1).pkg 0).failb = 0 ∧ ((at_ 1).pkg 0).faila = 0 ∧
    authenticate ((at_ 1).pkg 0) (((at_ 1).pkg 0).slotImage 0) = 1 ∧
    (let s := up fun p => { p with step := 1, faila := 1 }
     (s.pkg 0).faila ≠ 0 ∧ (s.pkg 0).failb = 0 ∧ authenticate (s.pkg 0) ((s.pkg 0).slotImage 1) ≠ 0) ∧
    (let s := up fun p => { p with step := 1, faila := 1, failb := 1 }
     (s.pkg 0).failb ≠ 0) ∧
    (∀ i < 12, ((trained.pkg 0).link i).retrain ≠ 0 ∧ ((trained.pkg 0).link i).training = .none) ∧
    ¬ (∀ i < 12, (((at_ 6).pkg 0).link i).retrain ≠ 0) ∧ corePkg State.reset.cur = 0 ∧
    (let l : Link := { Link.reset with up := .healthy, partner := some (5, 4) }
     OwnIds (linked l) ∧ (linked l).otherEnd (((linked l).pkg 0).link 3) = some (5, 4)) := by
  have steps : ∀ n, n ≤ 8 → ((up fun p => { p with step := n }).pkg 0).step = n := fun _ _ => rfl
  and_intros <;> first | decide +kernel | exact steps | (unfold OwnIds; decide +kernel)

/-- A package that aligns its cycle counter, with links 3 and 9 to two that have booted, 4,096 cycles apart. -/
theorem witness_BootConfigSteps_alignment :
    let s := (between live live).modPkg 6 fun p => { p with cycles := 4096 }
    let met := fun (q : Nat) => q ≠ 0 ∧ 7 ≤ (s.pkg q).step ∧
      (s.hops [(s.pkg 0).id] [(s.pkg 0).id] (s.pkgs.length + 1)).flatten.any fun e => s.ownerOf e == q
    OwnIds s ∧ (∀ q ∈ [5, 6], met q = true) ∧ (∀ a ∈ [5, 6], ∀ b ∈ [5, 6], (s.ahead a b).natAbs ≤ 4096) := by
  and_intros <;> first | decide +kernel | (unfold OwnIds; decide +kernel)

/-- The report area of a booted package. -/
def asked (l : List (Nat × Nat)) : State := l.foldl (fun s x => s.setBytes (0x07F_FFFF_0000 + x.1) (toBytes 8 x.2)) (up id)

theorem witness_AssaySteps :
    let s := asked [(0x40, 1), (0x60, 2), (0x58, 0x1000)]
    let a := (s.pkg (corePkg s.cur)).id * 2 ^ 44 + 0x07F_FFFF_0000
    5 ≤ (s.pkg 0).step ∧ s.num (a + 0x40) 8 = 1 ∧ (s.pkg 0).lastReq = 0 ∧ s.num (a + 0x60) 8 = 2 ∧ (s.pkg 0).lastUpd = 0 ∧
    s.MemWf ∧
    (asked []).num (a + 0x40) 8 = 0 ∧ (State.reset.pkg 0).step < 5 := by
  and_intros <;> first | decide +kernel | exact ⟨by decide +kernel, by decide +kernel, by decide +kernel⟩

theorem witness_PowerFailureSteps :
    (asked []).MemWf ∧ (asked []).updateDue 0 = none ∧ (asked [(0x58, 0x1000), (0x60, 2)]).MemWf ∧
    (asked [(0x58, 0x1000), (0x60, 2)]).updateDue 0 = some (0, 0x1000, 2) := by
  and_intros <;> first | decide +kernel | exact ⟨by decide +kernel, by decide +kernel, by decide +kernel⟩

theorem witness_OperatorSteps :
    let s := (up id).modDie 3 fun d => { d with log := [⟨0x1000, 3072, 0⟩], clock := 8 }
    let due (u : Option (List (Nat × List (Nat × Byte)))) : State := up fun p => { p with update := u }
    (State.reset.pkg 0).step < 8 ∧ 8 ≤ (s.pkg 0).step ∧ (s.die (4 * 0 + 3)).clock < 16 ∧
    (s.die (4 * 0 + 3)).log[0]? = some ⟨0x1000, 3072, 0⟩ ∧
    ((due none).pkg 0).update = none ∧ ((due (some [])).pkg 0).update = some [] ∧
    (let l : Nat × List (Nat × Byte) := (0x07F_FFFF_8000 / 64, [(8, 1), (63, 2)])
     ((due (some [l])).pkg 0).update = some (l :: []) ∧ (l.2.map (·.1)).Nodup ∧
     ∀ x ∈ l.2, (64 * l.1 + x.1) % 2 ^ 44 < 0x300_0000_0000) ∧
    (105 < 106 ∨ (s.pkg 0).cap < 0) ∧ (105 < 105 ∨ (s.pkg 0).cap < 2401) ∧ ¬ (105 < 105 ∨ (s.pkg 0).cap < 2400) := by
  and_intros <;> decide +kernel

/-- Whether an outcome is a next state. -/
def goesOn (x : Out) : Bool :=
  match x with
  | .next _ => true
  | _ => false

theorem next_of {x : Out} (h : goesOn x = true) : ∃ t, x = .next t := by
  match x, h with
  | .next t, _ => exact ⟨t, rfl⟩

theorem witness_StepKeepsTidy : entered.Tidy ∧ ∃ t, step entered = .next t :=
  ⟨⟨⟨by decide, by decide, by decide⟩, by simp [State.TasksRise, entered, core0, State.setCore, State.reset]⟩,
    next_of (by decide +kernel)⟩

/-! More cases of the statements -/

/-- A next state of which something holds. -/
def lands (x : Out) (p : State → Bool) : Bool :=
  match x with
  | .next t => p t
  | _ => false

theorem lands_of {x : Out} {p : State → Bool} (h : lands x p = true) : ∃ t, x = .next t ∧ p t = true := by
  match x, h with
  | .next t, h => exact ⟨t, rfl, h⟩

/-- Whether a command stops for another attempt, or for good. -/
def stops {α : Type} (x : Except Stop α) (again : Bool) : Bool :=
  match x with
  | .error e => e.again == again
  | .ok _ => false

theorem stops_of {α : Type} {x : Except Stop α} {b : Bool} (h : stops x b = true) : ∃ e, x = .error e ∧ e.again = b := by
  match x, h with
  | .error e, h => exact ⟨e, rfl, by simpa [stops] using h⟩
  | .ok _, h => cases h

/-- A core of the task on the page, with s1 at G address 8, in a line whose head is LD s2 of s1. -/
def aboutToLoad (f : Core → Core) : State :=
  inTask fun c => f (withS [(1, 8)] { c with tlb := [leaf false], fline := some (0x1_0000, oneHeadLine 0x0000_00E0_0042_6C00) })

/-- LD s2, G:[s1]. -/
def loadG : MemOp := { mop with space := .g }

theorem witness_LateLoads :
    let s := aboutToLoad id
    let x : LateLoad := ⟨.ld g0 loadG, 0x1_0002, s.me.fline, s.me.regs, s.me.regs⟩
    let u := aboutToLoad fun c => { c with loads := [x], pc := c.nextPc }
    let old := { u.core 0 with loads := [], regs := x.regs, pc := x.pc, fline := x.fline, wait := .none }
    s.me.run = .running ∧ s.me.mode = .task ∧ s.me.member = none ∧ s.me.loads = [] ∧ s.me.asyncTrap = none ∧
    s.me.preempt = false ∧
    s.me.fline = some (lineOf s.me.pc, oneHeadLine 0x0000_00E0_0042_6C00) ∧
    decodeAt (oneHeadLine 0x0000_00E0_0042_6C00) (headIx s.me.pc) = .ok (.ld g0 loadG) ∧ loadG.space = .g ∧ loadG.order = .none ∧
    s.me.regs.guard g0 = true ∧
    (∃ t, exec (.ld g0 loadG) s = .next t ∧ (t.me.mode = .task && decide (t.me.wait = .none) && decide (t.me.pc = s.me.nextPc)) = true) ∧
    (∃ i r, touchOf s.me.regs i = some r ∧ loadG.d ∈ r.s) ∧ (u.core 0).loads = x :: [] ∧
    (∃ v, exec (.ld g0 loadG) { u.setCore 0 old with cur := 0 } = .next v ∧ completes old v = true) := by
  and_intros
  all_goals first
    | decide +kernel
    | exact lands_of (by decide +kernel)
    | exact ⟨.add g0 2 2 2, _, rfl, by decide +kernel⟩

/-- A core that waits in WFI, with a message for its service endpoint or without. -/
theorem witness_ModeRules_gated :
    (∀ n, (inHandler fun c => { c with run := .gated, svc := n }).Ready g0 [] []) ∧
    (inHandler fun c => { c with run := .gated, svc := 1 }).me.svc ≠ 0 ∧
    (inHandler fun c => { c with run := .gated }).me.svc = 0 ∧
    (inHandler fun c => { c with run := .gated }).me.run = .gated ∧ (inHandler id).me.svc - Config.messagesTaken 0 = 0 ∧
    (inHandler fun c => { c with preempt := true }).me.preempt = true :=
  ⟨fun _ => ⟨rfl, rfl, rfl⟩, by decide +kernel, by decide +kernel, by decide +kernel, Nat.zero_sub _, by decide +kernel⟩

/-- The last byte of the line that a load of its first bytes would fill is bad. -/
theorem witness_HomeLoads_whole :
    let s : State := { at1 0x1000 0 0 with ue := [0x100_0000_103F] }
    s.bad (0x100_0000_1000 / 64 * 64) 64 = true ∧ (at1 0x1000 0 0).bad (0x100_0000_1000 / 64 * 64) 64 = false ∧
    (∃ bs, s.homeRead (s.who 0) .load 0x100_0000_1000 8 = .ok bs) ∧ s.me.mode = .task ∧
    s.cacheHit 0 (0x100_0000_1000 / 64) false = none ∧
    (∃ bs, (at1 0x1000 7 0).homeRead ((at1 0x1000 7 0).who 0) .atomic 0x100_0000_1000 8 = .ok bs) := by
  refine ⟨?_, ?_, ok_of ?_, ?_, ?_, ok_of ?_⟩ <;> decide +kernel

/-- A delta of the core's was dropped. -/
theorem witness_OrderingResults_dropped :
    (inTask fun c => { c with dropped := [1] }).me.dropped ≠ [] ∧ Quiet (inTask fun c => { c with dropped := [1] }) ∧
    st.me.dropped = [] ∧ (Space.v = .g ∨ Space.v = .v) ∧ (∀ x ∈ (at1 0 0 0).me.dcache, 64 * x.line < 2 ^ 56) ∧
    (paged false 8 0 0).Ready g0 [1] [] ∧ Quiet (paged false 8 0 0) ∧
    ((paged false 8 0 0).translate ((paged false 8 0 0).who 0) .r ((paged false 8 0 0).me.regs.rs 1 + signExt (0 : BitVec 19)).toNat).2 ≠ .walks :=
  ⟨by decide, ⟨rfl, rfl, rfl, rfl⟩, rfl, .inr rfl, by decide, ⟨rfl, rfl, rfl⟩, ⟨rfl, rfl, rfl, rfl⟩, by decide +kernel⟩

theorem witness_HarnessResults_more :
    let s := (at1 511 1 0)
    let m := member 1 true
    let u := inTask fun c => { c with wait := .harn 7 none, member := some m }
    s.away ⟨511, s.cur, s.me.task.map (·.id), 0⟩ = false ∧ u.Ready g0 [4, 1, 2] [] ∧ u.me.wait = .harn 7 none ∧
    u.me.member = some m ∧
    m.attached = true ∧ (harnessed (member 0 false) (member 1 true) .none).mustered 0 (member 0 false) = true ∧
    (let v : State := { harnessed (member 0 false) (member 1 true) .none with
       harnesses := [(0, ⟨[0, 1, 2], []⟩)], tasks := [(9, { task0 with phase := .suspended 2 0 false, member := some (member 2 false) })] }
     v.mustered 0 (member 0 false) = false) ∧ (member 0 false).attached = false ∧ (member 0 false).rank = 0 := by
  refine ⟨?_, ⟨?_, ?_, ?_⟩, ?_⟩ <;> decide +kernel

theorem witness_PushInstructions_try :
    entryFree (engined id []) .mat ∧ entryFree (engined (fun e => { e with cpy := List.replicate 31 (cmd 0x20) }) []) .cpy ∧
    ¬ entryFree (engined (fun e => { e with mat := List.replicate 16 (cmd 1) }) []) .mat ∧ entryFree st .med ∧
    (engined id []).me.eng.reserved + 1 ≤ 64 := by
  unfold entryFree
  and_intros <;> decide +kernel

/-- A command before which its core has posted a store that is not performed. -/
def early (s : State) : State :=
  s.modCore 0 fun c => { c with journal := [entry (.rst 0x1038 [1] false) .pending none], posts := 1 }

/-- Commands that cannot begin, that begin anew after a page walk, and that stop for good. -/
theorem witness_CommandsRunAtTheHead_more :
    let pack := tileCmd 0x22 0
    let s : State := { banked (cpyQ pack id) 5 with late := true }
    let fetch := { fetchCmd with after := 1 }
    ((early (cpyQ fetch id)).core 0).performedTo fetch.after = false ∧
    ((cpyQ fetchCmd id).core 0).performedTo fetchCmd.after = true ∧
    (∃ e, packBody 0 pack (work s pack) = .error e ∧ e.again = true) ∧ AtHead s 0 .cpy 0x22 pack ∧
    (∃ e, mepiBody 0 (cmd 4) (work (matQ (cmd 4) id) (cmd 4)) = .error e ∧ e.again = false) ∧
    (∃ e, fetchChecks (fetchCmd.doer 0) fetchCmd.record (begun { windowed (cpyQ fetchCmd id) with late := true }) = .error e ∧
      e.again = true) ∧
    (∃ e, fetchChecks (fetchCmd.doer 0) fetchCmd.record (begun (inPage (cpyQ fetchCmd id))) = .error e ∧ e.again = false) := by
  refine ⟨?_, ?_, stops_of ?_, ⟨?_, ?_, ?_, ?_, ?_⟩, stops_of ?_, stops_of ?_, stops_of ?_⟩ <;> decide +kernel

/-- The task has its image, and handle 15 of it is spilled there, or B slot 7.  Where the image lies is the firmware's choice,
an opaque constant; a byte of it may be bad or not. -/
theorem witness_HandleCommandResults_spilled :
    let c := cmdOf [(0, 1), (4, 15)]
    let s := matQ c fun e => { e with handles := [(15, .spilled)] }
    let m := cmdOf [(0, 8), (4, 1), (5, 7), (8, 0x10_0000)]
    let t := (inPage (matQ m fun e => { e with bspilled := [7] })).setByte 0x10_0000 1
    AtHead s 0 .mat 1 c ∧ find? (s.core 0).eng.handles 15 = some .spilled ∧
    leastFrom (fun p => (find? (s.core 0).eng.acc p).isNone) 0 8 = some 0 ∧ s.bad (s.slotImage 0 false 15) 65600 = false ∧
    AtHead t 0 .mat 8 m ∧ has (t.core 0).eng.bspilled 7 = true ∧ t.bad (t.slotImage 0 true 7) 16960 = false := by
  refine ⟨⟨?_, ?_, ?_, ?_, ?_⟩, ?_, ?_, ?_, ⟨?_, ?_, ?_, ?_, ?_⟩, ?_, ?_⟩
  all_goals decide +kernel

/-- A byte of the scratchpad that the core has stored to twice since the push, and the read of it. -/
theorem witness_TileCommandResults_missed :
    let pa := (matQ (cmd 3) id).windowPa 0 0x1_FF80
    let c : Cmd := { cmd 3 with missed := [(pa, [3, 5])] }
    find? c.missed pa = some [3, 5] ∧ (∃ v, eSpad 0 0x1_FF80 1 (work (matQ c id) c) = .ok v) :=
  ⟨by decide +kernel, ok_of (by decide +kernel)⟩

theorem witness_MiterRuns_more :
    let c := cmdOf [(0, 5)]
    (engineGrid fun e => { e with mat := [c], matStop := true }).me.eng.matStop = true ∧
    ((early (matQ { c with after := 1 } id)).core 0).performedTo 1 = false ∧ ((matQ c id).core 0).performedTo c.after = true := by
  and_intros <;> decide +kernel

/-- A page that may be read and not written. -/
theorem witness_CompressedTileResults_waits :
    let d := (tileCmd 0x22 0).doer 0
    let s := tileState 0x22 0 (tileHeader 1 0 8) 0
    let ro := s.modCore 0 fun c => { c with tlb := [{ leaf false with w := false }] }
    (∃ v, eTranslate d .rw 0x100A (begun s) = .ok v) ∧ (∃ e, eTranslate d .rw 0x100A (begun ro) = .error e ∧ e.again = false) ∧
    (∃ w, tileChecks d (tileCmd 0x22 0).record (begun ro) = .ok (headerIn (tileHeader 1 0 8), w)) := by
  refine ⟨ok_of ?_, stops_of ?_, gives_of ?_⟩ <;> decide +kernel

/-- A unit of a FETCHR on a line of the stripe that is rebuilt; a media command whose pusher has posted a store before. -/
theorem witness_FetchAndMediaResults_waits :
    let s := cpyQ { fetchCmd with begun := true, units := [⟨1, 0x3000, true⟩] } id
    let u := s.modPkg 0 fun p => { p with parity := some { group 2 with busy := some (( { group 2 with busy := none } : ParityGroup).stripe 0 3) }, joined := true }
    (upFrom (0x3000 / 64) 1).any (u.defers true) = true ∧ (upFrom (0x3000 / 64) 1).any (s.defers true) = false ∧
    ((early (mediaState [vdecRec 0 0])).core 0).performedTo 1 = false ∧ ((mediaState [vdecRec 0 0]).core 0).performedTo 0 = true ∧
    streamOk 1 false 64 64 = true ∧ streamOk 1 true 64 64 = false ∧ streamOk 2 false 64 4354 = false := by
  and_intros <;> decide +kernel

/-- Walks of core 0's die: one of core 0 for a unit, shared with core 1, in a queue of `n` before it. -/
def walking (n : Nat) : State :=
  let s := State.reset.placeWord 0
  let other : Walk := ⟨none, 0, false, 0xFFFF, [5], none⟩
  s.modDie 0 fun d => { d with walks := List.replicate n other ++ [⟨some 0, (s.core 0).root false, false, 0x10, [0, 1], none⟩] }

theorem witness_TableSteps_shared :
    let s := walking 0
    let queue (s : State) := (s.die (coreDie 0)).walks.filter (·.fault.isNone)
    let shared (x : Walk) := has x.cores 0 && x.unit == 0x1_0000 % 2 ^ 57 / 4096
    let x : Walk := ⟨some 0, (s.core 0).root false, false, 0x10, [0, 1], none⟩
    (queue s).find? shared = some x ∧ x.cluster ≠ none ∧ ((queue s).take 64).find? shared = some x ∧
    (∃ v, s.walk { s.who 0 with secure := x.secure } x.root 0x1_0000 = .ok v) ∧
    (∃ v, s.walk { s.who 0 with secure := x.secure } 0x5000_0000 0x1_0000 = .error v) ∧
    (∀ y ∈ (queue (walking 64)).take 64, shared y = false) ∧ (∃ y ∈ queue (walking 64), shared y = true) ∧
    (∀ y ∈ queue State.reset, shared y = false) := by
  refine ⟨?_, ?_, ?_, ok_of ?_, error_of ?_, ?_, ?_, ?_⟩ <;> decide +kernel

/-- Lines that their home defers, deltas that are outstanding, and refusals of every kind. -/
theorem witness_WriteOutSteps_more :
    let s := posted (.rst 0x1020 [1, 2, 3, 4, 5, 6, 7, 8] false) .pending none
    let e := entry (.rst 0x1038 ((List.range 16).map (BitVec.ofNat 8)) false) .pending none
    let two := posted (.rst 0x1038 ((List.range 16).map (BitVec.ofNat 8)) false) .pending none
    let done := { entry (.rst 0 [1] false) .performed none with writes := [1] }
    let t : Trap := { status := 0x22, source := 2, info := 7 }
    e.left.length = 2 ∧ (two.core 0).entry 4 = some e ∧ (e.left.find? (two.postDue 0 e)).map (·.1) = some 0x40 ∧
    (∀ l ∈ e.left, (l.2.map (·.1)).Nodup) ∧ ¬ (∀ x ∈ e.left, x.1 = 0x40) ∧
    (∀ x ∈ (entry (.rst 0x1020 [1, 2, 3, 4, 5, 6, 7, 8] false) .pending none).left, x.1 = 0x40) ∧
    (let far := posted (.rst (5 * 2 ^ 44 + 0x1038) [1] false) .pending none
     ((far.core 0).entry 4).bind (fun e => (e.left.find? (far.postDue 0 e)).map (·.1)) = some (5 * 2 ^ 38 + 0x40)) ∧
    ({ s with deltas := [⟨1, 5, 0, some 0, 0x40, 0xFF, false⟩] }.unacked done.writes = true ∧ s.unacked done.writes = false) ∧
    (let b := inTask fun c => { c with journal := [{ entry (.rst 0x1038 [1] false) .pending none with idx := 3 }, entry (.rst 0x1030 [1] false) .pending none] }
     ∀ l ∈ (entry (.rst 0x1030 [1] false) .pending none).left,
     b.behindAt (b.core 0) (entry (.rst 0x1030 [1] false) .pending none) [homeOf (64 * l.1)] = true) ∧
    (entry (.rst 0 [1] false) (.refused 0x22 7) none).heldBy (some t) = true ∧
    (entry (.rst 0 [1] false) (.refused 0x22 8) none).heldBy (some t) = false ∧
    (inTask fun c => { c with trapped := true }).me.trapped = true ∧ st.me.trapped = false := by
  and_intros <;> decide +kernel

theorem witness_WriteOutSteps_deferred :
    let line : BufLine := { ownLine with prot := true }
    let s := (inTask fun c => { c with sfly := [line] }).modPkg 0 fun p =>
      { p with parity := some { group 2 with busy := some 4 }, joined := true }
    (s.core 0).sfly[0]? = some line ∧ s.defers line.prot line.line = true ∧ st.defers false ownLine.line = false := by
  and_intros <;> decide +kernel

theorem witness_ArrivalSteps_halted :
    let s := (posted (.send 0 1 0 63 [1]) .pending (some (0, 0))).modCore 1 fun c => { c with run := .halted }
    s.xRoute (some (0, 0)) 1 = .here 1 ∧ (s.core 1).run = .halted ∧
    ((posted (.send 0 1 0 63 [1]) .pending (some (0, 0))).core 1).run ≠ .halted ∧
    (entry (.send 0 1 0 63 [1]) .pending (some (0, 0))).sent = [] := by
  and_intros <;> decide +kernel

theorem witness_UnitSteps_loads : (inTask fun c => { c with loads := [⟨.ld g0 loadG, 0, none, c.regs, c.regs⟩] }).me.loads ≠ [] := by
  decide

/-- A load of the vault, and one that keeps a read-only line. -/
theorem witness_LateLoads_spaces :
    let ro : Instr := .ldRo g0 { loadG with space := .v }
    let s := aboutToLoad fun c => { c with fline := some (0x1_0000, oneHeadLine ((encodeWord ro).getD 0)) }
    s.me.due = .no ∧ s.me.fline = some (lineOf s.me.pc, oneHeadLine ((encodeWord ro).getD 0)) ∧
    decodeAt (oneHeadLine ((encodeWord ro).getD 0)) (headIx s.me.pc) = .ok ro ∧
    (∃ t, exec ro s = .next t ∧ (t.me.mode = .task && decide (t.me.wait = .none) && decide (t.me.pc = s.me.nextPc)) = true) := by
  refine ⟨?_, ?_, ?_, lands_of ?_⟩ <;> decide +kernel

/-- A release at core scope of a buffer that leaves at once, and of one that the journal has no room for. -/
theorem witness_FenceResults_core :
    let s := inTask fun c => { c with sbuf := [farLine] }
    let full := s.modCore 0 fun c => { c with journal := (List.range 64).map fun i => { entry (.rst 0x1038 [1] false) .pending none with idx := i } }
    s.Ready g0 [] [] ∧ (s.leaveMany s.cur 1).me.sbuf = [] ∧ full.Ready g0 [] [] ∧ (full.leaveMany full.cur 1).me.sbuf ≠ [] :=
  ⟨⟨rfl, rfl, rfl⟩, by decide +kernel, ⟨rfl, rfl, rfl⟩, by decide +kernel⟩

/-- CINV of the last bytes of the vault, of addresses beyond it, of bytes of one page and of an unmapped one. -/
theorem witness_PrefetchAndInvalidate_ranges :
    let v := at1 0x7FFF_FFC0 128 0
    let g := paged false 8 4088 0
    v.Ready g0 [1, 2] [] ∧ v.me.regs.rs 2 ≠ 0 ∧ (cinvArea .v (v.me.regs.rs 1 + signExt (0 : BitVec 24)) 128 v).toBool = true ∧
    (0x7FFF_FFC0 : Word).toNat < 2 ^ 31 ∧ ¬ (0x8000_0000 : Word).toNat < 2 ^ 31 ∧
    g.Ready g0 [1, 2] [] ∧ g.me.regs.rs 2 ≠ 0 ∧ (8 + 4088 - 1) / 4096 = 8 / 4096 ∧ canonical 0 = true ∧
    (∃ u l, g.pageOf (g.who 0) (0 % 2 ^ 57) = (u, .page l)) ∧
    (∃ u st, v.pageOf (v.who 0) (0x7FFF_F000 % 2 ^ 57) = (u, .bad st .none)) :=
  ⟨⟨rfl, rfl, rfl⟩, by decide, by decide +kernel, by decide, by decide, ⟨rfl, rfl, rfl⟩, by decide, by decide, by decide +kernel,
    ⟨_, _, by rfl⟩, ⟨_, _, by rfl⟩⟩

/-- What an element check gives, without the state. -/
def checked {α : Type} (x : Except Exit (α × State)) : Option α := x.toOption.map (·.1)

theorem checked_of {α : Type} {x : Except Exit (α × State)} {a : α} (h : checked x = some a) : ∃ u, x = .ok (a, u) := by
  match x, h with
  | .ok (y, u), h => exact ⟨u, by rw [show y = a from by simpa [checked, Except.toOption] using h]⟩
  | .error _, h => cases h

/-- Core 0 with s1 an address and s3 a stride, and the elements 0 and 1 active under mask 1. -/
def strides (a b : Word) (s : State) : State := s.modCore 0 fun c => withS [(1, a),
  (3, b)] { c with regs := { c.regs with m := [(1, 3)] } }

/-- A strided access of a space under mask 1. -/
def stridedOp (space : Space) : VMemOp := { vmop with space := space, mask := 1 }

set_option synthInstance.maxSize 2000 in
/-- Two elements in the vault, at two peers, and in a storage window; the second one misaligned, or not declared. -/
theorem witness_VectorPlaceResults :
    let v := strides 0x1000 4 st
    let x := strides 0x10_0000 0x10_0000 (inHandler id)
    let f := strides 8 4 (paged true 0 0 0)
    let addrs (s : State) (o : VMemOp) := elemAddrs o s.me.regs (stridedAddr o s.me.regs)
    let vault : Nat → Place := fun a => .mem (0x100_0000_0000 + a) false
    Quiet v ∧ v.me.wait = .none ∧ v.Ready g0 [1, 3] [2] ∧ v.Ready g0 [1] [2, 3] ∧ v.Ready g0 [1] [2] ∧
    (∃ u, elemChecks (stridedOp .v) .r false (addrs v (stridedOp .v)) v =
      .ok ([(0, 0x1000, [(vault 0x1000, 0x1000, 4)]), (1, 0x1004, [(vault 0x1004, 0x1004, 4)])], u)) ∧
    v.cacheHit v.cur (0x100_0000_1000 / 64) false = none ∧ (∃ bs, v.fillRead (v.who v.cur) .load 0x100_0000_1004 4 = .ok bs) ∧
    0x100_0000_1004 / 2 ^ 44 = v.idOf v.cur ∧
    (∃ u, elemChecks (stridedOp .x) .w true (addrs x (stridedOp .x)) x =
      .ok ([(0, 0x10_0000, [(.peer 1 0, 0x10_0000, 4)]), (1, 0x20_0000, [(.peer 2 0, 0x20_0000, 4)])], u)) ∧
    coreNo 1 = 1 ∧ x.bad (x.windowPa 1 0) 4 = false ∧
    (∃ u, elemChecks (stridedOp .g) .w true (addrs f (stridedOp .g)) f =
      .ok ([(0, 8, [(.foreign 1 8 false, 8, 4)]), (1, 12, [(.foreign 1 12 false, 12, 4)])], u)) ∧
    (let m := strides 0x1000 6 st
     (0x1006 : Word).toNat % 4 ≠ 0 ∧ (m.me.regs.rm 1).getLsbD 1 = true ∧
     ∃ u, elemChecks (stridedOp .v) .w true ((addrs m (stridedOp .v)).filter fun y => y.1 < 1) m =
      .ok ([(0, 0x1000, [(vault 0x1000, 0x1000, 4)])], u)) ∧
    (∀ y, st.me.task = some y → (0xD_FFFB : Word).toNat + 4 ≤ y.hdr.scratch) ∧ (0xD_FFFB : Word).toNat % 4 ≠ 0 ∧
    (∃ u, vecCheck .v .r false 0x7FFF_FF00 4 256 v = .ok ((upFrom 0 4).map fun i =>
      (vault (0x7FFF_FF00 + 64 * i), 0x7FFF_FF00 + 64 * i, 64), u)) := by
  refine ⟨⟨rfl, rfl, rfl, rfl⟩, rfl, ⟨rfl, rfl, rfl⟩, ⟨rfl, rfl, rfl⟩, ⟨rfl, rfl, rfl⟩, checked_of ?_, ?_, ok_of ?_, ?_,
    checked_of ?_, ?_, ?_, checked_of ?_, ⟨?_, ?_, checked_of ?_⟩, fun y h => ?_, ?_, checked_of ?_⟩
  case refine_12 => cases h; decide
  all_goals decide +kernel

/-- A header of a matrix of one column. -/
def columnHeader (nt cap : Nat) : List Byte :=
  toBytes 64 (256 + 1 * 2 ^ 32 + 5 * 2 ^ 64 + nt * 2 ^ 96 + cap * 2 ^ 192 + cap * 2 ^ 224 +
    cap * 2 ^ 256 + 0x40 * 2 ^ 320 + 0x80 * 2 ^ 352 + 0xC0 * 2 ^ 384 + 0x100 * 2 ^ 416 + 0x140 * 2 ^ 448 + 0x180 * 2 ^ 480)

/-- A tile with one element that is not zero, and the writes that append it. -/
theorem witness_CompressedTileResults_append :
    let s := tileState 0x22 0 (columnHeader 0 8) 0x38
    let d := (tileCmd 0x22 0).doer 0
    let h := headerIn (columnHeader 0 8)
    h.ok = true ∧ h.nt = 0 ∧ (begun s).missed = [] ∧ s.bad (s.windowPa 0 0x1_0000) 1 = false ∧
    (∃ v, eCollect (upFrom 0 128) (fun i => do
        let x ← packRow d h ((s.core 0).dense (tileCmd 0x22 0).record) 0 0 i
        pure (i, x)) (begun s) = .ok ((upFrom 0 128).map fun i => (i, if i = 0 then [(0, 0x38)] else []), v)) ∧
    ¬ (h.capt < h.nt + 1 ∨ h.cape < h.nnz + 1 ∨ h.capr < h.nr + 1) ∧
    (let z := headerIn (columnHeader 0 0)
     z.capt < z.nt + 1) ∧
    (∃ z, eEach [(h.vals, [(0x38 : Byte)]), (0x0C, toBytes 4 1)] (fun x => eWrite d 0 ((h.addr + x.1) % 2 ^ 64) x.2) (begun s) =
      .ok ((), z)) ∧
    (let o := headerIn (columnHeader 1 8)
     0 < o.nt ∧ ∃ v, eNumAt d o o.coord 4 (begun (tileState 0x22 1 (columnHeader 1 8) 0x38)) = .ok (0, v)) := by
  refine ⟨?_, ?_, ?_, ?_, gives_of ?_, ?_, ?_, gives_of ?_, ?_, gives_of ?_⟩ <;> decide +kernel

/-- The own parts of a core's background: an access that has begun, and a spilled return address that is bad. -/
theorem witness_BackgroundSteps_more :
    let t : Trap := { status := 0x22, source := 2 }
    let due := inTask fun c => { c with asyncTrap := some t, due := .access }
    let s := inTask fun c => { c with ras := [1, 2], rasD := 3 }
    due.me.asyncTrap = some t ∧ due.me.mode = .task ∧ due.me.due = .access ∧
    (inTask fun c => { c with asyncTrap := some t }).me.due ≠ .access ∧
    s.bad (s.rasSlot s.cur 0) 8 = false ∧ { s with ue := [s.rasSlot 0 0 + 7] }.bad (s.rasSlot 0 0) 8 = true := by
  and_intros <;> decide +kernel

/-- The image of the task may be reached by its handler, and the slot in it, where no region table lists anything. -/
theorem witness_HandleCommandResults_reached :
    let c := cmdOf [(0, 1), (4, 15)]
    let s := matQ c fun e => { e with handles := [(15, .spilled)] }
    s.shut (firmware 0) .engine (s.slotImage 0 false 15) 65600 = none ∧
    s.shut (firmware 0) .engine (s.slotImage 0 true 7) 16960 = none := by
  and_intros <;> decide +kernel

/-- Groups that VGRP may name for core 9, and values that it may not. -/
theorem witness_RegisterWriteSteps_group :
    let ok (k : Nat) (v : Word) := coreNo k < 1536 ∧ v.toNat % 16 ∈ [1, 2, 4, 8] ∧
      v.toNat / 16 % 64 = coreIndex k / (v.toNat % 16) * (v.toNat % 16)
    ok 9 0x88 ∧ ok 9 0x91 ∧ ¬ ok 9 0x98 ∧ ¬ ok 9 0x83 ∧ ¬ ok 9 0 ∧ ¬ ok 1536 0x01 := by
  decide

/-- Two cores that run tasks of one node meet at the barrier; the other's HARN has counted. -/
def meeting (asked : Bool) : State :=
  let s := unit0 (inGrid (withS [(1, 0), (2, 2)])) fun c =>
    { c with entries := [(0, ⟨1, 2, 0⟩)], harns := [⟨0, 1, some 1, 0x1_0004⟩] }
  { s.setCore 1 { running (.reset 1) with task := some { ctx with id := 1 }, wait := .arrived, preempt := asked } with
    tasks := [(0, task0), (1, { task0 with phase := .issued 1 })] }

theorem witness_HarnessResults_tasks :
    let s := meeting false
    s.Ready g0 [4, 1, 2] [] ∧ Quiet s ∧ s.me.wait = .none ∧ s.me.member = none ∧ EventOk s (s.me.regs.rs 1) 0 ∧
    (s.me.regs.rs 2).toNat = 2 ∧ ((s.cluster 0).entry (s.me.barbase + 0)).arr = 1 ∧
    ((s.cluster 0).entry (s.me.barbase + 0)).exp = 2 ∧ (s.cluster 0).harns = [⟨0, 1, some 1, 0x1_0004⟩] ∧
    coreIndex s.cur < coreIndex 1 ∧ s.away ⟨0, s.cur, s.me.task.map (·.id), s.me.nextPc⟩ = false ∧
    s.away ⟨0, 1, some 1, 0x1_0004⟩ = false ∧ s.me.preempt = false ∧ (s.core 1).preempt = false ∧
    (meeting true).me.preempt = false ∧ ((meeting true).core 1).preempt = true := by
  refine ⟨⟨rfl, rfl, rfl⟩, ⟨rfl, rfl, rfl, rfl⟩, rfl, rfl,
    ⟨by decide, by decide, by decide, by decide, fun _ _ x h => by cases h; decide⟩, ?_⟩
  and_intros <;> decide +kernel

/-- A task whose scratchpad the core's banks hold, and one that needs more; no command is left in the core's queues, or one
that names its scratchpad. -/
theorem witness_IssueSteps_banks :
    let t := worker .granted
    let s := dispatched [(0, t)]
    let few := s.modCore 1 fun c => { c with spbanks := 2 }
    let left := few.modDie 0 fun d => { d with med := [⟨record [(0, 0x41), (0x30, 1)], 1, 1, false, 0⟩] }
    s.banksReady 1 (s.banksOf 1 t) = true ∧ few.banksReady 1 (few.banksOf 1 t) = true ∧ few.banksOf 1 t = 14 ∧
    left.lowestFree t.cluster = some 1 ∧ left.banksReady 1 (left.banksOf 1 t) = false := by
  decide +kernel

/-- Five tasks of a slice that have not issued, and none of its neighbours': one of them moves to each of the two. -/
theorem witness_IssueSteps_balance :
    let t : Task := { task0 with phase := .queued, issues := 0, hdr := { hdr with scope := 2 }, elem := none }
    let s := dispatched ((upFrom 0 5).map fun i => (i, t))
    t.ready = true ∧ t.fresh = true ∧ t.hdr.covers 0 1 = true ∧
    (s.tasks.countP fun x => x.2.ready && x.2.cluster == 0) = 5 ∧
    (∃ v, exec (.balanceExchange 0) s = .next v ∧
      ((v.tasks.countP fun x => x.2.cluster == 1) == 1 && (v.tasks.countP fun x => x.2.cluster == 0) == 3) = true) := by
  refine ⟨?_, ?_, ?_, ?_, lands_of ?_⟩ <;> decide +kernel

/-- A request of an X access that now stands elsewhere, finds its task gone, or on a core whose scratchpad is smaller. -/
theorem witness_HomeSteps_moved :
    let r (s : State) : FeReq := ⟨0, s.windowPa 2 0x1_0000, .ff, 0, false, true, some (0, 0)⟩
    let moved (n : Nat) : State := ((inGrid id).setCore 2 { Core.reset 2 with fwd := [⟨0, (0, 0), some 1, []⟩] }).setCore 1
      { running (.reset 1) with spbanks := n }
    let away : State := (inGrid id).setCore 2 { Core.reset 2 with fwd := [⟨0, (0, 0), none, []⟩] }
    (moved 14).coreAt (r (moved 14)).word = 2 ∧ (moved 14).xRoute (some (0, 0)) 2 = .here 1 ∧
    (moved 14).feHere (r (moved 14)) = false ∧ (r (moved 14)).word % 0x20_0000 = 0x1_0000 ∧
    0x1_0000 + 8 ≤ ((moved 14).core 1).spbanks * 0x1_0000 ∧ ((moved 1).core 1).spbanks * 0x1_0000 < 0x1_0000 + 8 ∧
    (feRow FeForm.ff (has (moved 14).fe ((moved 14).windowPa 1 0x1_0000 / 8))).1 = false ∧
    away.xRoute (some (0, 0)) 2 = .later 2 ∧ (inGrid id).xRoute (some (0, 0)) 2 = .refused := by
  and_intros <;> decide +kernel

/-- The package that holds the parity is joined, or is not any more. -/
theorem witness_HomeSteps_joined :
    let d : Delta := ⟨1, 5, 0, some 0, 0x40, 0xFF, false⟩
    let s : State := { joined 1 st with deltas := [d] }
    (s.pkg (s.ownerOf d.holder)).joined = true ∧ ((State.reset).pkg (State.reset.ownerOf d.holder)).joined = false := by
  decide +kernel

/-- Of the last stripe of a region of three units a member, two of three members hold a unit; the pursers may reach the units of
a stripe, or not all. -/
theorem witness_StripeRebuildSteps_units :
    let g := { spareGroup 2 [2] (some 4) with size := 3 * 4096 }
    g.stripes = 5 ∧ g.hasUnit 3 2 = true ∧ g.hasUnit 4 2 = false ∧ (grouped g).rebuildShut 0 g 4 2 = none ∧
    (secured 0 0x3_FFFF (grouped g)).rebuildShut 0 g 1 2 ≠ none ∧
    ((grouped g).pkg ((grouped g).ownerOf g.spare)).id = g.spare := by
  and_intros <;> decide +kernel

/-- A die at 115 degrees, and one a degree below. -/
theorem witness_ResetSteps_hot :
    let at_ (n : Nat) : State := (up id).modDie 3 fun d => { d with junction := n }
    (∃ d ∈ (at_ 115).dies, d.1 / 4 = corePkg (at_ 115).cur ∧ 115 ≤ d.2.junction) ∧
    ¬ (∃ d ∈ (at_ 114).dies, d.1 / 4 = corePkg (at_ 114).cur ∧ 115 ≤ d.2.junction) := by
  decide +kernel

/-- How a flash reads back is not in the spec, an opaque constant; one that reads back what is written does so for every
image. -/
theorem witness_readsBack (s : State) (pkg adr len slot : Nat) (h : Config.flashWrong s.free slot = []) :
    ∀ c ∈ Config.flashWrong s.free slot, c.1 < 0x400_0000 →
      c.2 = if c.1 < len then s.byte ((s.pkg pkg).id * 2 ^ 44 + adr + c.1) else 0 := by
  rw [h]
  exact nofun

/-- The telemetry block, which the pursers may reach, or may not. -/
theorem witness_TelemetrySteps_shut :
    let s := up fun p => { p with update := some [(0x07F_FFFF_8000 / 64, [(8, 1)])] }
    let shut (s : State) (a : Nat) := s.shut (firmware (0 * 2048 + 1536)) .store a 1
    shut s 0x07F_FFFF_8008 = none ∧ shut (secured 0x3_FFFF 0x3_FFFF s) 0x07F_FFFF_8008 ≠ none := by
  decide +kernel

/-- A write in its turn on a connection with sequence numbers, and one out of turn. -/
theorem witness_HostAccessSteps_order :
    let s := up fun p => { p with rod := [(3, 7)] }
    look (s.pkg 0).rod 0 3 = 7 ∧ look (s.pkg 0).rod 0 4 = 0 ∧ look (s.pkg 0).rod 0 3 ≠ 8 := by
  decide

/-- A command that names the scratchpad of a suspended task. -/
theorem witness_CopyAndFillResults_waits :
    let dst := shapeRec 0x10_0000 2 1 2 [4] [4] [4]
    let s := (copyState fill4 dst dst []).setCore 1 { Core.reset 1 with pc := 0, fwd := [⟨9, (0, 0), none, []⟩] }
    let o := s.opnd 0 (shapeOf dst)
    AtHead s 0 .cpy 0x21 fill4 ∧ eShape (fill4.doer 0) 1 0x40 (begun s) = .ok (shapeOf dst, begun s) ∧
    eDeclOpnd (fill4.doer 0) o true (begun s) = .ok ((), begun s) ∧ o.fmt ≠ .ec8 ∧
    ∃ x, eAwaitX (fill4.doer 0) o o.tiles (begun s) = .error x ∧ x.again = true :=
  ⟨⟨rfl, rfl, rfl, rfl, by decide +kernel⟩, by decide +kernel, by decide +kernel, by decide +kernel, stops_of (by decide +kernel)⟩

/-- An image with a byte that its handler cannot read. -/
theorem witness_SuspendSteps_unreadable :
    let s : State := { asleep true with ue := [Config.imagePoolUnit * 4096] }
    (s.ensureWindow task0.key 0).restoreFails 0 (s.imageAt 0 0) hdr.scratch ≠ none := by
  show (List.findSome? _ _) ≠ none
  simp only [List.findSome?_cons]
  have : State.unreadable (({ asleep true with ue := [Config.imagePoolUnit * 4096] } : State).ensureWindow task0.key 0) 0
      (({ asleep true with ue := [Config.imagePoolUnit * 4096] } : State).imageAt 0 0 + 0) 0x4640 = some (0x26, .memue 0) := by
    unfold State.unreadable
    have e : (({ asleep true with ue := [Config.imagePoolUnit * 4096] } : State).ensureWindow task0.key 0).bad
        (({ asleep true with ue := [Config.imagePoolUnit * 4096] } : State).imageAt 0 0 + 0) 0x4640 = true := by
      show List.any [Config.imagePoolUnit * 4096] _ = true
      simp [State.imageAt, State.pkg, asleep, core0, State.setCore, State.reset, find?, Package.reset]
    rw [e]
    rfl
  rw [this]
  simp

/-! Worked examples of the spec -/

/-- A register after an instruction, with s1 and s2 set: 0 where there is no next state. -/
def scalarAfter (i : Instr) (x y : Word) (d : Reg) : Word :=
  match exec i (inTask (withS [(1, x), (2, y)])) with
  | .next t => t.me.regs.rs d
  | _ => 0

/-- The low 32 bits of v0 after an instruction, with the low bits of v0 set. -/
def laneAfter (i : Instr) (x : Nat) : Nat :=
  match exec i (inTask fun c => { c with regs := { c.regs with v := [(0, BitVec.ofNat _ x)] } }) with
  | .next t => (t.me.regs.rv 0).toNat % 2 ^ 32
  | _ => 0

/-- 15, the example of the floating-point instructions: 1.0 + 2^-24. -/
theorem test_fadd_rounds : scalarAfter (.fadd g0 .f32 .near 3 1 2) 0x3F80_0000 0x3380_0000 3 = 0x3F80_0000 ∧
    scalarAfter (.fadd g0 .f32 .up 3 1 2) 0x3F80_0000 0x3380_0000 3 = 0x3F80_0001 := by decide +kernel

/-- 15: the same example. -/
theorem test_fmul_overflows : scalarAfter (.fmul g0 .f32 .near 3 1 2) 0x7F7F_FFFF 0x4000_0000 3 = 0x7F80_0000 ∧
    scalarAfter (.fmul g0 .f32 .chop 3 1 2) 0x7F7F_FFFF 0x4000_0000 3 = 0x7F7F_FFFF := by decide +kernel

/-- 04 and 15: 470 saturates to 448. -/
theorem test_fcvt_saturates : scalarAfter (.fcvt g0 .e4m3 .f32 .near 3 1) 0x43EB_0000 0 3 = 0x7E := by decide +kernel

/-- 15, the example of R301. -/
theorem test_fclass : scalarAfter (.fclass g0 false 3 1) 0x8000_0001 0 3 = 0x0000_0000_FF6B_0101 ∧
    scalarAfter (.fclass g0 true 3 1) 0x3FF0_0000_0000_0000 0 3 = 2 := by decide +kernel

/-- 17, the example of the vector functions. -/
theorem test_vexp2 : laneAfter (.vexp2 g0 vop) 0x3F00_0000 = 0x3FB5_0000 ∧
    laneAfter (.vexp2 g0 { vop with rm := .up }) 0x3F00_0000 = 0x3FB5_1000 := by decide +kernel

/-- 17: the same example. -/
theorem test_vrcp : laneAfter (.vrcp g0 vop) 0x4040_0000 = 0x3EAA_B000 := by decide +kernel

/-- 24, the example of R494: bytes 0x5A of member 0 unit 0 and 0x0F of member 3 unit 1, P 0x33 on member 1, member 2 lost. -/
theorem test_rebuild :
    let g : ParityGroup := ⟨1, 1, 2, 1, 7, 0, 2 ^ 13, [0, 5, 6, 8], [2], [2], some 1⟩
    let s := ((State.reset.setByte 0 0x5A).setByte (8 * 2 ^ 44 + 4096) 0x0F).setByte (5 * 2 ^ 44 + 0x380_0000_1000) 0x33
    s.rebuiltByte g 1 2 0 = 0x66 := by decide +kernel

end Sys2Proof.Tests
end

section
/-! Proofs of the statements about DIV, DIVZ, REM and REMZ (R285) and about LOOP (R304). -/

namespace Sys2Proof.Machine

/-! Words as integers -/

theorem toInt_eq_zero_iff {x : Word} : x.toInt = 0 ↔ x = 0 := by
  rw [← BitVec.toInt_inj]; rfl

/-- The dividend of the quotient that saturates (R285). -/
theorem toInt_eq_min_iff {x : Word} : x.toInt = -2 ^ 63 ↔ x = 0x8000_0000_0000_0000 := by
  rw [← BitVec.toInt_inj]; rfl

theorem toInt_eq_neg_one_iff {y : Word} : y.toInt = -1 ↔ y = BitVec.allOnes 64 := by
  rw [← BitVec.toInt_inj, BitVec.toInt_allOnes]; rfl

theorem natCast_toNat_eq_zero_iff {x : Word} : (x.toNat : Int) = 0 ↔ x = 0 := by
  rw [← BitVec.toNat_inj, Int.natCast_eq_zero]; rfl

/-! Divide (R285) -/

/-- The remainder of `divideSpec` by a divisor other than 0, as the truncating remainder. -/
theorem sub_tdiv_mul_eq_tmod (x y : Int) : x - x.tdiv y * y = x.tmod y := by
  rw [Int.tmod_def, Int.mul_comm]

/-- Divide on signed operands is the rule's own. -/
theorem divide_signed (x y : Word) :
    divide true x y =
      (BitVec.ofInt 64 (divideSpec true x.toInt y.toInt).1, BitVec.ofInt 64 (divideSpec true x.toInt y.toInt).2) := by
  simp only [divide, divideSpec, toInt_eq_zero_iff, toInt_eq_min_iff, toInt_eq_neg_one_iff, sub_tdiv_mul_eq_tmod,
    true_and]
  by_cases hy : y = 0
  · by_cases hx : x = 0
    · simp only [hy, hx, ↓reduceIte]; rfl
    · simp only [hy, if_neg hx, ↓reduceIte, Bool.not_true, Bool.false_eq_true, BitVec.ofInt_toInt]
      by_cases hp : 0 < x.toInt
      · simp only [if_pos hp]; rfl
      · simp only [if_neg hp]; rfl
  · by_cases hs : x = 0x8000_0000_0000_0000 ∧ y = BitVec.allOnes 64
    · simp only [if_neg hy, if_pos hs, ↓reduceIte]; rfl
    · simp only [if_neg hy, if_neg hs, ↓reduceIte]

/-- Divide on unsigned operands is the rule's own. -/
theorem divide_unsigned (x y : Word) :
    divide false x y =
      (BitVec.ofInt 64 (divideSpec false x.toNat y.toNat).1, BitVec.ofInt 64 (divideSpec false x.toNat y.toNat).2) := by
  simp only [divide, divideSpec, natCast_toNat_eq_zero_iff, sub_tdiv_mul_eq_tmod, Bool.false_eq_true, false_and,
    ↓reduceIte, Bool.not_false]
  by_cases hy : y = 0
  · by_cases hx : x = 0
    · simp only [hy, hx, ↓reduceIte]; rfl
    · simp only [hy, hx, ↓reduceIte, BitVec.ofInt_natCast, BitVec.ofNat_toNat, BitVec.setWidth_eq]; rfl
  · simp only [if_neg hy, Prod.mk.injEq]
    constructor
    · rw [← Int.ofNat_tdiv, BitVec.ofInt_natCast, BitVec.udiv_def]
    · rw [← Int.ofNat_tmod, BitVec.ofInt_natCast, BitVec.umod_def]

/-! Instructions -/

theorem exec_div (g : Guard) (d a b : Reg) (s : State) : exec (.div g d a b) s = execDiv g d a b s := rfl
theorem exec_divz (g : Guard) (d a b : Reg) (s : State) : exec (.divz g d a b) s = execDivz g d a b s := rfl
theorem exec_rem (g : Guard) (d a b : Reg) (s : State) : exec (.rem g d a b) s = execRem g d a b s := rfl
theorem exec_remz (g : Guard) (d a b : Reg) (s : State) : exec (.remz g d a b) s = execRemz g d a b s := rfl
theorem exec_loop (g : Guard) (h : BitVec 5) (off : BitVec 21) (a : Reg) (s : State) :
    exec (.loop g h off a) s = execLoop g h off a s := rfl

theorem binary_ready {s : State} {g : Guard} {d a b : Reg} (r : s.Ready g [d, a, b] []) (f : Word → Word → Word) :
    binary g d a b f s = .next (writes s d (f (s.me.regs.rs a) (s.me.regs.rs b))) :=
  regInstr_ready r _

/-! Targets in a line -/

/-- The line address of an address, as a number. -/
theorem toNat_lineOf (a : Word) : (lineOf a).toNat = a.toNat / 64 * 64 := by
  have mask : ∀ i < 64, (~~~(63 : Word)).getLsbD i = decide (6 ≤ i) := by decide
  have shifts : lineOf a = a >>> 6 <<< 6 := by
    apply BitVec.eq_of_getLsbD_eq
    intro i hi
    rw [lineOf, BitVec.getLsbD_and, mask i hi, BitVec.getLsbD_shiftLeft, BitVec.getLsbD_ushiftRight]
    by_cases h : 6 ≤ i
    · simp [h, hi, Nat.add_sub_cancel' h]
    · simp [h]
  have := a.isLt
  rw [shifts, BitVec.toNat_shiftLeft, BitVec.toNat_ushiftRight, Nat.shiftLeft_eq, Nat.shiftRight_eq_div_pow]
  omega

theorem lineOf_eq_ofInt (a : Word) : lineOf a = BitVec.ofInt 64 (a.toNat / 64 * 64) := by
  have number : (a.toNat / 64 * 64 : Int) = (lineOf a).toNat := by rw [toNat_lineOf]; rfl
  rw [number, BitVec.ofInt_natCast, BitVec.ofNat_toNat, BitVec.setWidth_eq]

/-- The address of a head of a line that many lines away, in arithmetic (R267). -/
theorem lineTarget_signExt {n : Nat} (pc : Word) (off : BitVec n) (h : BitVec 5) :
    lineTarget pc (signExt off) h = BitVec.ofInt 64 (pc.toNat / 64 * 64 + 64 * off.toInt + 2 * h.toNat) := by
  have lines : signExt off * 64 = BitVec.ofInt 64 (64 * off.toInt) := by
    rw [Int.mul_comm, BitVec.ofInt_mul]; rfl
  have head : 2 * h.setWidth 64 = BitVec.ofInt 64 (2 * h.toNat) := by
    rw [BitVec.ofInt_mul, BitVec.ofInt_natCast, BitVec.ofNat_toNat]; rfl
  rw [lineTarget, lineOf_eq_ofInt, lines, head, BitVec.ofInt_add, BitVec.ofInt_add]

/-! LOOP (R304) -/

/-- The new count of LOOP, as R304 writes it. -/
theorem sub_one_eq_ofInt (x : Word) : x - 1 = BitVec.ofInt 64 ((x.toNat : Int) - 1) := by
  rw [Int.sub_eq_add_neg, BitVec.ofInt_add, BitVec.ofInt_natCast, BitVec.ofNat_toNat, BitVec.setWidth_eq,
    BitVec.sub_eq_add_neg]
  rfl

@[simp] theorem jump_run {α : Type} (t : Word) (s : State) :
    (jump t : M α) s = .error (.leave (s.setMe (s.me.goto t))) := rfl

/-- A LOOP whose new count is not 0 goes to its target. -/
theorem execLoop_taken {s : State} {g : Guard} {a : Reg} (r : s.Ready g [a] []) (h : BitVec 5) (off : BitVec 21)
    (hn : s.me.regs.rs a - 1 ≠ 0) :
    execLoop g h off a s =
      .next (s.setMe (Core.goto { s.me with regs := s.me.regs.ws a (s.me.regs.rs a - 1) }
        (lineTarget s.me.pc (signExt off) h))) := by
  rw [execLoop, instr_ready r, M.bind_ok (wrS_run _ _ _), if_pos hn, jump_run]
  simp

/-- A LOOP whose new count is 0 goes on to the next head. -/
theorem execLoop_done {s : State} {g : Guard} {a : Reg} (r : s.Ready g [a] []) (h : BitVec 5) (off : BitVec 21)
    (hn : s.me.regs.rs a - 1 = 0) :
    execLoop g h off a s =
      .next (s.setMe (Core.advance { s.me with regs := s.me.regs.ws a (s.me.regs.rs a - 1) })) := by
  rw [execLoop, instr_ready r, M.bind_ok (wrS_run _ _ _), if_neg (not_not.mpr hn)]
  simp

end Sys2Proof.Machine

open Sys2Proof Sys2Proof.Machine

/-- Settles O6: each of the four forms writes a part of `divide`, which is Divide of R285 on the operands as they are
read. -/
theorem divisionResults : Obligations.DivisionResults := by
  intro s g d a b r
  refine ⟨?_, ?_, ?_, ?_⟩
  · rw [exec_div, execDiv, binary_ready r, divide_signed]
  · rw [exec_rem, execRem, binary_ready r, divide_signed]
  · rw [exec_divz, execDivz, binary_ready r, divide_unsigned]
  · rw [exec_remz, execRemz, binary_ready r, divide_unsigned]

/-- Settles O17: a new count other than 0 takes the branch and 0 falls through; the last three clauses give the new
count after 1, after 0 and of s0. -/
theorem loopCounts : Obligations.LoopCounts := by
  intro s g a h off r
  dsimp only
  rw [← sub_one_eq_ofInt, ← lineTarget_signExt, exec_loop]
  refine ⟨execLoop_taken r h off, execLoop_done r h off, ?one, ?zero, ?s0⟩
  case one => intro e; rw [e]; rfl
  case zero => intro e; rw [e]; rfl
  case s0 => rintro rfl; exact ⟨by rw [Regs.rs_zero]; decide, rfl⟩
end
